-- ==== Sys2Proof/Word.lean ====
section
/-! DEFINITION. The word types, the sparse map type, the exact numbers behind the floating formats, and the
plain data types that commands carry as operands. -/

namespace Sys2Proof

/-- One byte. -/
abbrev Byte := BitVec 8
/-- One 32-bit register or lane. -/
abbrev Word := BitVec 32
/-- One 64-bit g register or instruction word. -/
abbrev DWord := BitVec 64

/-- A sparse table: keys strictly rising, and no entry that holds the table's default value. -/
abbrev NMap (α : Type) := List (Nat × α)

/-- A finite number `m * 2 ^ e`, exact. -/
structure Dy where
  m : Int
  e : Int
  deriving DecidableEq, Repr

/-- What a floating code stands for. `fin neg m e` is `m * 2 ^ e` with the sign kept, so that -0 is `fin true 0 _`. -/
inductive FV where
  | nan
  | inf (neg : Bool)
  | fin (neg : Bool) (m : Nat) (e : Int)
  deriving DecidableEq, Repr

/-- A binary floating format of R40: exponent and fraction widths, bias, whether all-ones exponents are
infinities and NaNs (`ieee`), or only the top code is a NaN (`topNan`), or neither. -/
structure Fmt where
  ew : Nat
  fw : Nat
  bias : Int
  ieee : Bool
  topNan : Bool
  deriving DecidableEq, Repr

/-- Who performs a register write: the host over PCIe, or the management controller. -/
inductive Agent where
  | host
  | mgmt
  deriving DecidableEq, Repr

/-- The answer of host memory to one read of the device (R372). -/
inductive HostRead where
  | ok (data : List Byte)
  | error
  | poisoned
  deriving DecidableEq, Repr

/-- A command's place: context, spool and ring index. -/
structure CmdRef where
  ctx : BitVec 6
  spool : BitVec 3
  idx : BitVec 12
  deriving DecidableEq, Repr

/-- What a completed device read of host memory was for (R372, R263, R472). -/
inductive HostPurpose where
  /-- argument data or a command's own host data -/
  | command (r : CmdRef)
  /-- granule `g` of the host region of model `m` -/
  | granule (m : BitVec 5) (g : Nat)
  /-- the image of FW_STAGE -/
  | firmware
  deriving DecidableEq, Repr

/-- The five units of R146. -/
inductive CoreUnit where
  | matrix
  | mangle
  | vector
  | dma
  | wringer
  deriving DecidableEq, Repr

/-- Who waits, for the wait limit of R167 and R186. -/
inductive Waiter where
  | front
  | unit (u : CoreUnit)
  | ring (flight : Nat)
  deriving DecidableEq, Repr

/-- On-chip memories that carry granule check bits (R188). -/
inductive MemSel where
  | cmem (core : BitVec 4)
  | bufA (core : BitVec 4)
  | bufB (core : BitVec 4)
  | bufD (core : BitVec 4)
  | shm
  deriving DecidableEq, Repr

/-- What the check bits of a granule or line show: nothing, a correctable error, or an uncorrectable one. -/
inductive Ecc where
  | clean
  | ce
  | ue
  deriving DecidableEq, Repr

/-- Clock islands of R26 that the governor may gate. -/
inductive Island where
  | core (n : BitVec 4)
  | seg (n : BitVec 2)
  | hub
  | dram
  | flash
  | pcie
  | port (n : BitVec 2)
  | mgmt
  deriving DecidableEq, Repr

/-- The check that names a core as failed (R464): a unit's fault register value, a parity failure of the
instruction memory at a word, or the corrected-error rate of R462. -/
inductive CoreCheck where
  | array (kind : BitVec 2) (sub : BitVec 4) (slot : BitVec 2) (row col : BitVec 5)
  | mangle (kind : BitVec 2) (row col : BitVec 5)
  | vector (kind : BitVec 2) (reg : BitVec 6) (unit : BitVec 2) (lane : BitVec 6)
  | imem (word : BitVec 13)
  | ceRate (count : Nat)
  deriving DecidableEq, Repr

/-- How the decode of one flash codeword went (R236): hard with a count of corrected bits, soft, or not at all. -/
inductive Decode where
  | hard (corrected : Nat)
  | soft
  | fail
  deriving DecidableEq, Repr

/-- One failing column of a reference-wordline check, with each end's reading (R238). -/
structure RefColumn where
  column : Nat
  senseOk : Bool
  farOk : Bool
  deriving DecidableEq, Repr

/-- One flit as received (R382). -/
structure Flit where
  seq : BitVec 12
  ack : BitVec 12
  crvc : BitVec 2
  credits : BitVec 6
  typ : BitVec 4
  vc : BitVec 2
  dst : BitVec 4
  src : BitVec 4
  len : BitVec 7
  xfer : BitVec 10
  poison : Bool
  offset : Word
  payload : List Byte
  deriving DecidableEq, Repr

/-- A member's record as its handshake brings it (R395), with the number under which that member takes the transfer's DATA flits. -/
structure MemberRec where
  node : BitVec 4
  xfer : BitVec 6
  record : List Byte
  deriving DecidableEq, Repr

/-- A flit that waits at a port; one that came in by another port holds a place of that port's buffers (R385): port and pool. -/
structure Waiting where
  flit : Flit
  holds : Option (BitVec 2 × BitVec 2)
  deriving DecidableEq, Repr

/-- The data of a register write, and the W1C bits that the device sets in the same cycle (R12): of any register, of HIF_SPL_CFG
(FETCH_ERR), or of TST_CTRL (ABORTED). -/
structure RegData where
  val : Word
  set : Word
  deriving DecidableEq, Repr

/-- A start of the weight store: after a clean shutdown or not, and the copies of sealed blobs that fail authentication (R413, log
entry 101). -/
structure StoreStart where
  clean : Bool
  bad : List (BitVec 7 × Bool)
  deriving DecidableEq, Repr

/-- A start of the security island: the image verified or not, and the copies of sealed blobs that fail authentication (R413, log
entry 101). -/
structure IslandStart where
  verified : Bool
  bad : List (BitVec 7 × Bool)
  deriving DecidableEq, Repr

/-- The bits that a lane's pattern checker has received before it locks, oldest first (R503). -/
structure LaneRx where
  lane : Nat
  bits : List Bool
  deriving DecidableEq, Repr

/-- How a port's training ended (R386, R387). -/
inductive Training where
  | up (lanes : BitVec 8) (rate16 : Bool) (peer : BitVec 4)
  | failed (lanes : BitVec 8)
  deriving DecidableEq, Repr

/-- When a tamper alarm falls (R424); a key operation names the slot it works on. -/
inductive TamperWhen where
  | startup
  | sleep
  | run
  | keyop (slot : BitVec 7)
  deriving DecidableEq, Repr

/-- The window register that a WINDOW_WRITE writes (R430). -/
inductive WinReg where
  | base
  | size
  | cfg
  deriving DecidableEq, Repr

/-- Requesters of the DRAM controller as R319 numbers them. -/
abbrev Requester := BitVec 5

/-- One decoded word of the core instruction set (R148 to R163). -/
inductive CoreInstr where
  | nop
  | end_
  | jmp (target : BitVec 13)
  | br (cond : BitVec 3) (ga gb : BitVec 5) (target : BitVec 13)
  | loop (g : BitVec 5) (target : BitVec 13)
  | call (target : BitVec 13)
  | ret
  | alu (gd ga gb : BitVec 5) (op : BitVec 4)
  | alui (gd ga : BitVec 5) (op : BitVec 4) (imm : BitVec 32)
  | li (gd : BitVec 5) (imm : BitVec 48)
  | sld (gd ga : BitVec 5) (off : BitVec 20)
  | sst (ga gb : BitVec 5) (off : BitVec 20)
  | slds (gd ga : BitVec 5) (off : BitVec 20)
  | ssts (ga gb : BitVec 5) (off : BitVec 20)
  | csrr (gd : BitVec 5) (csr : BitVec 12)
  | tset (tk : BitVec 6)
  | tclr (tk : BitVec 6)
  | twait (consume : Bool) (tk : BitVec 6)
  | col (gaddr gstat ch : BitVec 5) (tw : BitVec 6) (cw : Bool) (ts : BitVec 6)
  | usig (unit : CoreUnit) (tk : BitVec 6)
  | dma (gdesc : BitVec 5) (tw : BitVec 6) (cw : Bool) (ts : BitVec 6)
  | mma (q : BitVec 4) (slot opn : BitVec 2) (close drain : Bool) (ga gb gd gs : BitVec 5)
      (ta tb td ts : BitVec 6) (ca cb : Bool)
  | mgl (op : BitVec 2) (gdesc : BitVec 5) (tq : BitVec 6) (cq : Bool) (tk : BitVec 6) (ck : Bool)
      (td tg ts : BitVec 6)
  | vop (op : BitVec 6) (vd va vb vc : BitVec 6) (gx : BitVec 5) (sh : BitVec 6) (from_ to_ : BitVec 4)
  | vld (vr : BitVec 6) (ga gsc : BitVec 5) (fmt : BitVec 4) (space : BitVec 2) (lm1 : BitVec 6)
      (tw : BitVec 6) (cw : Bool) (ts : BitVec 6)
  | vst (vr : BitVec 6) (ga gsc : BitVec 5) (fmt : BitVec 4) (space : BitVec 2) (lm1 : BitVec 6)
      (tw : BitVec 6) (cw : Bool) (ts : BitVec 6)
  | gate (vd vg vu vp : BitVec 6) (act : BitVec 7)
  | vsf (vd va vb : BitVec 6) (func : BitVec 7) (lm1 : BitVec 6)
  | norm (gdesc : BitVec 5) (tw : BitVec 6) (cw : Bool) (ts : BitVec 6)
  | red (op : BitVec 4) (gd ga gn : BitVec 5) (bf : Bool) (tw : BitVec 6) (cw : Bool) (ts : BitVec 6)
  | topk (km1 : BitVec 6) (gin gn gpos gout : BitVec 5) (sup bf : Bool) (tw : BitVec 6) (cw : Bool) (ts : BitVec 6)
  | wcmp (gsrc gref gdst glen : BitVec 5) (tw : BitVec 6) (cw : Bool) (ts : BitVec 6)
  | wexp (gsrc gref gdst glen : BitVec 5) (space : Bool) (tw : BitVec 6) (cw : Bool) (ts : BitVec 6)
  deriving DecidableEq, Repr

end Sys2Proof
end

