-- ==== Sys2Proof/Syntax.lean ====
section
/-! DEFINITION. The commands: one constructor per row of the table of operations and events, in the table's order.
A command that names a host command takes its place in the rings; one that names a core takes the logical core;
a register write takes the value written; an event takes what the outside world decides (a reading, an outcome). -/

namespace Sys2Proof

inductive Instr where
  -- resets and register accesses
  | aonSupplyLoss
  | aonSupplyUp
  | perstAssert
  | perstRelease (refclkOk : Bool)
  | flr
  | linkDlDown
  | regWrite (who : Agent) (off : BitVec 24) (data : RegData)
  | regReadClear (off : BitVec 24) (inc : Word)
  | latchingRead (off : BitVec 24)
  | evtData0Read
  | bar0BadAccess (write : Bool) (off : BitVec 24) (size : Nat)
  | bar2Read (off : BitVec 36) (len : Nat) (ide : Bool)
  | bar2Write (off : BitVec 36) (data : List Byte) (ide : Bool)
  | msixUnmask (vec : BitVec 7)
  -- spools and contexts
  | doorbell (ctx : BitVec 6) (spool : BitVec 3) (val : Word)
  | commandFetch (ctx : BitVec 6) (spool : BitVec 3) (entry : HostRead)
  | dbAbort (ctx : BitVec 6) (val : Word)
  | spoolEnable (data : RegData)
  | spoolDisable (data : RegData)
  | contextEnable (val : Word)
  | contextDisable (val : Word)
  -- host commands
  | cmdNop (r : CmdRef)
  | run (r : CmdRef)
  | runStart (r : CmdRef)
  | create (r : CmdRef)
  | fork (r : CmdRef)
  | truncate (r : CmdRef)
  | drop (r : CmdRef)
  | writeback (r : CmdRef)
  | evict (r : CmdRef)
  | restore (r : CmdRef)
  | mcreate (r : CmdRef)
  | mextent (r : CmdRef)
  | mwrite (r : CmdRef)
  | mseal (r : CmdRef)
  | mtable (r : CmdRef)
  | mload (r : CmdRef)
  | munload (r : CmdRef)
  | mfree (r : CmdRef)
  | mxfree (r : CmdRef)
  | patch (r : CmdRef)
  | patchFlip (m : BitVec 5)
  | bsload (r : CmdRef)
  | bsPersistDone (slot : BitVec 3)
  | bsact (r : CmdRef)
  | bsfree (r : CmdRef)
  | bsSwitch (r : CmdRef)
  | bsAreaWrite (who : Agent) (val : Word)
  | commandEnd (r : CmdRef)
  -- core instructions
  | nop (c : BitVec 4)
  | end_ (c : BitVec 4)
  | jmp (c : BitVec 4)
  | br (c : BitVec 4)
  | loop (c : BitVec 4)
  | call (c : BitVec 4)
  | ret (c : BitVec 4)
  | alu (c : BitVec 4)
  | alui (c : BitVec 4)
  | li (c : BitVec 4)
  | sld (c : BitVec 4)
  | sst (c : BitVec 4)
  | slds (c : BitVec 4)
  | sldsReturn (c : BitVec 4) (gd : BitVec 5)
  | ssts (c : BitVec 4)
  | csrr (c : BitVec 4)
  | tset (c : BitVec 4)
  | tclr (c : BitVec 4)
  | twait (c : BitVec 4)
  | twaitWake (c : BitVec 4)
  | col (c : BitVec 4)
  | colRelease (node : BitVec 3) (ch : BitVec 4)
  | usig (c : BitVec 4)
  | usigSignal (c : BitVec 4) (u : CoreUnit)
  | dma (c : BitVec 4)
  | dmaIssue (c : BitVec 4)
  | ringPieceTake (c : BitVec 4) (flight : Nat)
  | mma (c : BitVec 4)
  | mmaIssue (c : BitVec 4)
  | tileClose (c : BitVec 4) (flight : Nat)
  | drainDone (c : BitVec 4) (flight : Nat)
  | protectedWaitEnd (c : BitVec 4) (u : CoreUnit)
  | mgl (c : BitVec 4)
  | mglIssue (c : BitVec 4)
  | mglDone (c : BitVec 4)
  | vop (c : BitVec 4)
  | vld (c : BitVec 4)
  | vst (c : BitVec 4)
  | gate (c : BitVec 4)
  | vsf (c : BitVec 4)
  | norm (c : BitVec 4)
  | red (c : BitVec 4)
  | topk (c : BitVec 4)
  | vectorIssue (c : BitVec 4)
  | streamReductionDone (c : BitVec 4)
  | wcmp (c : BitVec 4)
  | wexp (c : BitVec 4)
  | wringerIssue (c : BitVec 4)
  | wringerBlockDone (c : BitVec 4)
  | releasePoint (c : BitVec 4) (u : CoreUnit) (flight : Nat)
  | waitTimeout (c : BitVec 4) (w : Waiter)
  | corePartEnd (c : BitVec 4)
  -- islands, errors and fencing
  | islandGate (island : Island)
  | islandWake (island : Island)
  | patrolScrub (mem : MemSel) (granule : Nat) (found : Ecc)
  | ceWindow
  | coreFault (c : BitVec 4) (check : CoreCheck)
  | fenceDeadline (c : BitVec 4)
  | orphanResponse (tag : BitVec 16)
  | orphanTagTimeout (tag : BitVec 16)
  | coreSelfTestEnd (c : BitVec 4) (passed : Bool)
  | deviceFault (unit : BitVec 8) (check : BitVec 8)
  | mcWatchdog
  -- mailbox
  | info
  | powerMode
  | setTime
  | fwStage
  | fwActivate (selfCheck : Bool)
  | tamperRecover
  | background
  | coreRetest
  -- event recorder
  | evtAckWrite (val : Word)
  | evtFlush (val : Word)
  | evtFlushPeriodic
  -- weight store
  | unitProgramStart (handle : BitVec 16) (stripe : Nat) (unit : BitVec 8)
  | unitProgramDone (handle : BitVec 16) (stripe : Nat) (unit : BitVec 8) (ok : Bool)
  | flsConsent (val : Word)
  | erasePulseDone (die : BitVec 3) (bank : BitVec 5) (block : BitVec 8)
  | blockEraseDone (die : BitVec 3) (bank : BitVec 5) (block : BitVec 8) (ok : Bool)
  | flashPageRead (die : BitVec 3) (bank : BitVec 5) (block : BitVec 8) (wl : BitVec 7)
  | flashCodewordDecoded (handle : BitVec 16) (offset : Word) (d : Decode)
  | referenceCheck (die : BitVec 3) (bank : BitVec 5) (block : BitVec 8) (cols : List RefColumn)
  | darnerCopyStart (die : BitVec 3)
  | darnerCopyFlip (die : BitVec 3) (bank : BitVec 5) (block : BitVec 8)
  | retentionDue (die : BitVec 3) (bank : BitVec 5) (block : BitVec 8)
  | counterCheckpoint
  | compactionStart
  | stripeMoveDone (handle : BitVec 16) (stripe : Nat)
  | flashRateChange (rate : BitVec 2)
  | storeReady (start : StoreStart)
  | flsAsmWrite (who : Agent) (val : Word)
  -- streaming
  | strMirrorWrite (size : Bool) (val : Word)
  | mirrorLoadDone (m : BitVec 5) (ok : Bool)
  | pieceStaged (slot : BitVec 3) (ring : BitVec 4)
  | routeRecord (slot : BitVec 3) (off : Nat)
  -- KV pools
  | kvpEnable (val : Word)
  | poolEnable (pool : BitVec 2) (val : Word)
  | poolDisable (pool : BitVec 2) (val : Word)
  -- DRAM controller; `symbols` are the byte symbols in error (R308), and 96 + x for a link-ECC correction on lane x (log entry 98)
  | dramRequest (req : Requester) (line : Nat) (key : BitVec 7) (wr : List (BitVec 6 × Byte))
  | dramReadReturn (ch : BitVec 4) (symbols : List (BitVec 7))
  | dramRefresh (ch : BitVec 4) (bank : BitVec 4) (issue : Bool)
  | mr4Poll (mult : Nat)
  | hammerWindow
  | laneWindow
  | selfRefreshEntry (ch : BitVec 4)
  | selfRefreshExit (ch : BitVec 4)
  | dramTempSample (temp : BitVec 8)
  | dramPatrol (line : Nat) (symbols : List (BitVec 7))
  | dramClearUnit (unit : Nat)
  | shadowFreeze (val : Word)
  | shadowOpen (val : Word)
  | mrwDone
  | dramSwitch (val : Word)
  | dramSwitchDone
  | dramInitDone
  | drmProbe (val : Word)
  | probeDone (errors : BitVec 11)
  -- Ulirvo Link
  | portEnable (p : BitVec 2) (val : Word)
  | portDisable (p : BitVec 2) (val : Word)
  | portRetrain (p : BitVec 2) (val : Word)
  | portTrainingDone (p : BitVec 2) (t : Training)
  | portRetry (p : BitVec 2)
  | peerSilence (p : BitVec 2)
  | replayTimeout (p : BitVec 2)
  | flitIdle (p : BitVec 2) (f : Flit)
  | flitData (p : BitVec 2) (f : Flit)
  | flitCol (p : BitVec 2) (f : Flit)
  | flitCtrl (p : BitVec 2) (f : Flit)
  | flitNak (p : BitVec 2) (f : Flit)
  | flitGreset (p : BitVec 2) (f : Flit)
  | flitCrcFail (p : BitVec 2)
  | collectiveRequest (slot : BitVec 3) (idx : BitVec 4)
  | collectiveMatch (slot : BitVec 3) (idx : BitVec 4) (records : List MemberRec)
  | collectiveDone (slot : BitVec 3) (idx : BitVec 4)
  | collectiveTimeout (slot : BitVec 3) (idx : BitVec 4)
  | ulkGreset (val : Word)
  -- SPDM
  | getVersion
  | getCapabilities
  | negotiateAlgorithms
  | getDigests
  | getCertificate (slot : BitVec 4) (off len : BitVec 16)
  | challenge (slot : BitVec 4) (nonce : List Byte)
  | getMeasurements (index : BitVec 8) (sign : Bool) (nonce : List Byte)
  | keyExchange (req : List Byte)
  | finish (sess : BitVec 2) (ok : Bool)
  | heartbeat (sess : BitVec 2)
  | keyUpdate (sess : BitVec 2)
  | endSession (sess : BitVec 2)
  -- key messages
  | keyWeight (sess : BitVec 2) (payload : List Byte)
  | keyContext (sess : BitVec 2) (payload : List Byte)
  | keyVerify (sess : BitVec 2) (payload : List Byte)
  | keyDestroy (sess : BitVec 2) (payload : List Byte)
  | keyProg (sess : BitVec 2) (set : Bool) (sub : BitVec 2) (tx : Bool) (key : List Byte)
  | kSetGo (sess : BitVec 2) (set : Bool)
  | kSetStop (sess : BitVec 2) (set : Bool)
  | ideKmQuery (sess : BitVec 2)
  | contextZero (val : Word)
  | windowWrite (w : BitVec 2) (r : WinReg) (val : Word)
  | tamperAlarm (sensor : BitVec 3) (when_ : TamperWhen)
  -- power, clocks and thermal control
  | powerSample (cores others : List (List Nat))
  | pointRampDone (ridge : BitVec 2)
  | tempSample (readings : List (BitVec 5 × Int))
  | flashTempSample (hottest : Nat)
  | droopDetect (island : Island)
  | stretchEnd (island : Island)
  | thermalTrip
  | clearTrip (val : Word)
  | clkFixedWrite (val : Word)
  | idleEntry
  | idleEntered
  | idleExit
  | powerOnRequest
  | pwrfailDeassert
  | i3cOn (val : Word)
  | i3cOff (val : Word)
  | i3cClearTrip (val : Word)
  | pwrCtrlOff (val : Word)
  | railGroupGood (group : BitVec 3)
  | railGroupTimeout (group : BitVec 3)
  | railGroupFail (group : BitVec 3)
  | safePoint
  | pwrfail
  | emergencyRailsOff
  | powerDownRailsOff
  | minOffExpire
  | wakeAlarm
  | aonPostedWrite
  | aonShadowRefresh
  | clk32kLock
  | clk32kLoss
  -- I3C
  | entdaa (addr : BitVec 7)
  | setdasa (addr : BitVec 7)
  | rstdaa
  | getpid
  | getbcr
  | getdcr
  | getstatus
  -- TAP and pattern test
  | tapReset
  | bypass
  | idcode
  | samplePreload (cells : List Bool)
  | extest
  | clamp
  | highz
  | tstAccess (dr : BitVec 64)
  | tstGo (data : RegData)
  | tstStop (data : RegData)
  | tstRunEnd
  | tstAbort
  -- completions that the table lists last
  | hostReadCompletion (p : HostPurpose) (res : HostRead)
  | pcieLinkUp (rate width : BitVec 4)
  | securityStartupDone (start : IslandStart)
  | mmaFinished (c : BitVec 4) (flight : Nat)
  | vccqFlashSample (mv : Nat)
  | sensorDeassert
  | zeroisationComplete
  | checkerLock (rx : LaneRx)
  | checkerSlip (lane : Nat) (bits errs : Nat)
  deriving DecidableEq, Repr

end Sys2Proof
end

