-- ==== Sys2Proof/Decode.lean ====
section
/-! DEFINITION. The table gives no row any bits: no word spells a command. -/

namespace Sys2Proof

/-- The command that a word spells by the table's bits: none, since the table's rows carry no bits. -/
def decodeTableWord (nbits w : Nat) : Option Instr :=
  match nbits, w with
  | _, _ => none

end Sys2Proof
end

