-- ==== Sys2Proof/Machine/CoreDecode.lean ====
section
/-! DEFINITION. The words of the core instruction set (R148 to R163): a word is decoded or refused, total on every word. -/

namespace Sys2Proof.Machine

/-- Bits `lo` to `lo + w - 1` of a word. -/
def fld (x : DWord) (lo w : Nat) : BitVec w := x.extractLsb' lo w
def bit1 (x : DWord) (i : Nat) : Bool := x.getLsbD i

/-- The bits of an instruction's format by opcode, as (low bit, width); none for an opcode not in Table 4 (R148). -/
def formatFields (op : Nat) : Option (List (Nat × Nat)) :=
  let tws := [(20, 6), (19, 1), (8, 6)]
  match op with
  | 0x00 => some []
  | 0x01 => some []
  | 0x02 => some [(0, 13)]
  | 0x03 => some [(53, 3), (48, 5), (43, 5), (0, 13)]
  | 0x04 => some [(48, 5), (0, 13)]
  | 0x05 => some [(0, 13)]
  | 0x06 => some []
  | 0x10 => some [(48, 5), (43, 5), (38, 5), (0, 4)]
  | 0x11 => some [(48, 5), (43, 5), (39, 4), (0, 32)]
  | 0x12 => some [(48, 5), (0, 48)]
  | 0x13 => some [(48, 5), (43, 5), (0, 20)]
  | 0x14 => some [(43, 5), (38, 5), (0, 20)]
  | 0x15 => some [(48, 5), (43, 5), (0, 20)]
  | 0x16 => some [(43, 5), (38, 5), (0, 20)]
  | 0x17 => some [(48, 5), (0, 12)]
  | 0x20 => some [(0, 6)]
  | 0x21 => some [(0, 6)]
  | 0x22 => some [(0, 7)]
  | 0x23 => some [(48, 5), (43, 5), (16, 5), (8, 6), (7, 1), (0, 6)]
  | 0x24 => some [(48, 4), (0, 6)]
  | 0x30 => some ([(48, 5)] ++ tws)
  | 0x40 => some [(0, 56)]
  | 0x50 => some [(48, 2), (41, 5), (6, 32)]
  | 0x60 => some [(32, 24), (27, 5), (20, 6), (12, 8), (0, 6)]
  | 0x61 => some ([(28, 28)] ++ tws)
  | 0x62 => some ([(28, 28)] ++ tws)
  | 0x63 => some [(25, 31)]
  | 0x64 => some [(38, 18), (19, 13)]
  | 0x65 => some ([(48, 5)] ++ tws)
  | 0x70 => some ([(32, 20)] ++ tws)
  | 0x71 => some ([(28, 28)] ++ tws)
  | 0x80 => some ([(33, 20)] ++ tws)
  | 0x81 => some ([(32, 21)] ++ tws)
  | _ => none

/-- The mask of a list of fields and the opcode. -/
def fieldMask (fs : List (Nat × Nat)) : Nat :=
  fs.foldl (fun acc f => acc ||| ((2 ^ f.2 - 1) * 2 ^ f.1)) (0xFF * 2 ^ 56)

/-- No bit outside the format is set (R148). -/
def formatOk (x : DWord) : Bool :=
  match formatFields (x.toNat / 2 ^ 56) with
  | none => false
  | some fs => (x.toNat &&& fieldMask fs) = x.toNat

def unitOfCode (u : BitVec 4) : Option CoreUnit :=
  match u.toNat with
  | 0 => some .matrix
  | 1 => some .mangle
  | 2 => some .vector
  | 3 => some .dma
  | 4 => some .wringer
  | _ => none

/-- VCVT's pairs (R159). -/
def vcvtPair (f t : BitVec 4) : Bool :=
  (f = 0 && (t = 2 || t = 3 || t = 4 || t = 5 || t = 6)) || (f = 1 && t = 0) ||
  (t = 0 && (f = 2 || f = 3 || f = 4 || f = 5 || f = 6))

def gateActOk (a : BitVec 7) : Bool := decide (a.toNat ≤ 0x0F) || (decide (0x40 ≤ a.toNat) && decide (a.toNat ≤ 0x4F))
def vsfFuncOk (f : BitVec 7) : Bool :=
  (decide (1 ≤ f.toNat) && decide (f.toNat ≤ 0x0E)) || f = 0x10#7 || (decide (0x40 ≤ f.toNat) && decide (f.toNat ≤ 0x4F))
def fmtScaled (f : BitVec 4) : Bool := f = 7 || f = 8 || f = 9

/-- Keep an instruction only where a check on its fields holds. -/
def keepIf (ok : Bool) (i : CoreInstr) : Option CoreInstr := if ok then some i else none

/-- The instruction of a word whose format is right, with the refusals of R148, R149, R151 and R154 to R163. With SUP set, "gpos must
be 0" is read as the GPOS field naming g0 (DEDUCED, log entry 90). -/
def decodeFields (x : DWord) : Option CoreInstr :=
  let tw := fld x 20 6
  let cw := bit1 x 19
  let ts := fld x 8 6
  match x.toNat / 2 ^ 56 with
  | 0x00 => some .nop
  | 0x01 => some .end_
  | 0x02 => some (.jmp (fld x 0 13))
  | 0x03 => keepIf (decide ((fld x 53 3).toNat ≤ 5)) (.br (fld x 53 3) (fld x 48 5) (fld x 43 5) (fld x 0 13))
  | 0x04 => some (.loop (fld x 48 5) (fld x 0 13))
  | 0x05 => some (.call (fld x 0 13))
  | 0x06 => some .ret
  | 0x10 => keepIf (decide ((fld x 0 4).toNat ≤ 12)) (.alu (fld x 48 5) (fld x 43 5) (fld x 38 5) (fld x 0 4))
  | 0x11 => keepIf (decide ((fld x 39 4).toNat ≤ 12)) (.alui (fld x 48 5) (fld x 43 5) (fld x 39 4) (fld x 0 32))
  | 0x12 => some (.li (fld x 48 5) (fld x 0 48))
  | 0x13 => some (.sld (fld x 48 5) (fld x 43 5) (fld x 0 20))
  | 0x14 => some (.sst (fld x 43 5) (fld x 38 5) (fld x 0 20))
  | 0x15 => some (.slds (fld x 48 5) (fld x 43 5) (fld x 0 20))
  | 0x16 => some (.ssts (fld x 43 5) (fld x 38 5) (fld x 0 20))
  | 0x17 => keepIf (decide ((fld x 0 12).toNat ≤ 3)) (.csrr (fld x 48 5) (fld x 0 12))
  | 0x20 => some (.tset (fld x 0 6))
  | 0x21 => some (.tclr (fld x 0 6))
  | 0x22 => some (.twait (bit1 x 6) (fld x 0 6))
  | 0x23 => some (.col (fld x 48 5) (fld x 43 5) (fld x 16 5) (fld x 8 6) (bit1 x 7) (fld x 0 6))
  | 0x24 => (unitOfCode (fld x 48 4)).map (fun u => .usig u (fld x 0 6))
  | 0x30 => some (.dma (fld x 48 5) tw cw ts)
  | 0x40 =>
    let opn := fld x 48 2
    let close := bit1 x 47
    let drain := bit1 x 46
    let drainOnly := !close && drain && fld x 41 5 = 0 && fld x 36 5 = 0 && fld x 20 6 = 0 && fld x 14 6 = 0 && fld x 0 2 = 0
    let unused := drain || (fld x 31 5 = 0 && fld x 8 6 = 0)
    keepIf (if opn = 3 then drainOnly else unused)
      (.mma (fld x 52 4) (fld x 50 2) opn close drain (fld x 41 5) (fld x 36 5) (fld x 31 5) (fld x 26 5)
        (fld x 20 6) (fld x 14 6) (fld x 8 6) (fld x 2 6) (bit1 x 1) (bit1 x 0))
  | 0x50 =>
    keepIf ((fld x 48 2).getLsbD 1 || fld x 12 6 = 0)
      (.mgl (fld x 48 2) (fld x 41 5) (fld x 32 6) (bit1 x 31) (fld x 25 6) (bit1 x 24) (fld x 18 6) (fld x 12 6)
        (fld x 6 6))
  | 0x60 =>
    let op := fld x 0 6
    keepIf (decide (op.toNat ≤ 0x1A) && decide ((fld x 16 4).toNat ≤ 9) && decide ((fld x 12 4).toNat ≤ 9) &&
        (op ≠ 0x17#6 || vcvtPair (fld x 16 4) (fld x 12 4)))
      (.vop op (fld x 50 6) (fld x 44 6) (fld x 38 6) (fld x 32 6) (fld x 27 5) (fld x 20 6) (fld x 16 4) (fld x 12 4))
  | 0x61 => vmem x tw cw ts true
  | 0x62 => vmem x tw cw ts false
  | 0x63 =>
    keepIf (gateActOk (fld x 25 7) && decide ((fld x 32 6).toNat ≤ 60))
      (.gate (fld x 50 6) (fld x 44 6) (fld x 38 6) (fld x 32 6) (fld x 25 7))
  | 0x64 =>
    let f := fld x 25 7
    keepIf (vsfFuncOk f && (fld x 38 6 = 0 || f = 0x10#7 || decide (0x40 ≤ f.toNat)))
      (.vsf (fld x 50 6) (fld x 44 6) (fld x 38 6) f (fld x 19 6))
  | 0x65 => some (.norm (fld x 48 5) tw cw ts)
  | 0x70 => keepIf (decide ((fld x 48 4).toNat ≤ 4))
      (.red (fld x 48 4) (fld x 43 5) (fld x 38 5) (fld x 33 5) (bit1 x 32) tw cw ts)
  | 0x71 => keepIf (!bit1 x 29 || (!bit1 x 28 && fld x 35 5 = 0))
      (.topk (fld x 50 6) (fld x 45 5) (fld x 40 5) (fld x 35 5) (fld x 30 5) (bit1 x 29) (bit1 x 28) tw cw ts)
  | 0x80 => some (.wcmp (fld x 48 5) (fld x 43 5) (fld x 38 5) (fld x 33 5) tw cw ts)
  | 0x81 => some (.wexp (fld x 48 5) (fld x 43 5) (fld x 38 5) (fld x 33 5) (bit1 x 32) tw cw ts)
  | _ => none
where
  /-- VLD and VST (R160). -/
  vmem (x : DWord) (tw : BitVec 6) (cw : Bool) (ts : BitVec 6) (load : Bool) : Option CoreInstr :=
    let fmt := fld x 36 4
    let lm1 := fld x 28 6
    let ok := decide (fmt.toNat ≤ 9) &&
      (if fmtScaled fmt then lm1 = 31 || lm1 = 63 else decide (fld x 40 5 = 0))
    keepIf ok (if load then .vld (fld x 50 6) (fld x 45 5) (fld x 40 5) fmt (fld x 34 2) lm1 tw cw ts
      else .vst (fld x 50 6) (fld x 45 5) (fld x 40 5) fmt (fld x 34 2) lm1 tw cw ts)

/-- A core instruction word, or none where it is refused (R148). -/
def decodeWord (x : DWord) : Option CoreInstr := if formatOk x then decodeFields x else none

end Sys2Proof.Machine
end

