-- ==== Sys2Proof/Machine/Crypto.lean ====
section
/-! DEFINITION. The published algorithms that the manual names: AES-256 and XTS (R313, R411, R417), AES-256-GCM (R413),
SHA-384 with HMAC and HKDF (R405), ECDSA P-384 (R346, R404, R472), and CRC-32C (R222). Numbers are naturals; a byte string is a list of bytes. -/

namespace Sys2Proof.Machine

/-! ### AES-256 (FIPS 197): the state is 16 bytes as numbers, column by column -/

/-- The S-box, entry 0 in the low byte. -/
def sboxTable : Nat :=
  0x16bb54b00f2d99416842e6bf0d89a18cdf2855cee9871e9b948ed9691198f8e19e1dc186b95735610ef6034866b53e708a8bbd4b1f74dde8c6b4a61c2e2578ba08ae7a65eaf4566ca94ed58d6d37c8e779e4959162acd3c25c2406490a3a32e0db0b5ede14b8ee4688902a22dc4f816073195d643d7ea7c41744975fec130ccdd2f3ff1021dab6bcf5389d928f40a351a89f3c507f02f94585334d43fbaaefd0cf584c4a39becb6a5bb1fc20ed00d153842fe329b3d63b52a05a6e1b1a2c830975b227ebe28012079a059618c323c7041531d871f1e5a534ccf73f362693fdb7c072a49cafa2d4adf04759fa7dc982ca76abd7fe2b670130c56f6bf27b777c63

/-- The inverse S-box. -/
def invSboxTable : Nat :=
  0x7d0c2155631469e126d677ba7e042b17619953833cbbebc8b0f52aae4d3be0a0ef9cc9939f7ae52d0d4ab519a97f51605fec8027591012b131c7078833a8dd1ff45acd78fec0db9a2079d2c64b3e56fc1bbe18aa0e62b76f89c5291d711af1476edf751ce837f9e28535ade72274ac9673e6b4f0cecff297eadc674f4111913a6b8a130103bdafc1020f3fca8f1e2cd00645b3b80558e4f70ad3bc8c00abd890849d8da75746155edab9edfd5048706c92b6655dcc5ca4d41698688664f6f87225d18b6d49a25b76b224d92866a12e084ec3fa420b954cee3d23c2a632947b54cbe9dec444438e3487ff2f9b8239e37cfbd7f3819ea340bf38a53630d56a0952

def tableByte (t i : Nat) : Nat := t / 2 ^ (8 * i) % 256
def sbox (x : Nat) : Nat := tableByte sboxTable x
def invSbox (x : Nat) : Nat := tableByte invSboxTable x
def xtime (x : Nat) : Nat := (2 * x % 256) ^^^ (if 128 ≤ x then 27 else 0)
/-- Multiplication in the field of AES by a constant below 16. -/
def gfMul (k x : Nat) : Nat :=
  (if k % 2 = 1 then x else 0) ^^^ (if k / 2 % 2 = 1 then xtime x else 0) ^^^
  (if k / 4 % 2 = 1 then xtime (xtime x) else 0) ^^^ (if k / 8 % 2 = 1 then xtime (xtime (xtime x)) else 0)

def xorLists : List Nat → List Nat → List Nat
  | a :: s, b :: t => (a ^^^ b) :: xorLists s t
  | _, _ => []

def shiftRows (st : List Nat) : List Nat := (List.range 16).map (fun i => st.getD ((i % 4 + 4 * ((i / 4 + i % 4) % 4))) 0)
def invShiftRows (st : List Nat) : List Nat := (List.range 16).map (fun i => st.getD ((i % 4 + 4 * ((i / 4 + 4 - i % 4) % 4))) 0)
/-- Each column times a circulant matrix with the given first row. -/
def mixWith (m : List Nat) (st : List Nat) : List Nat :=
  (List.range 16).map (fun i =>
    (List.range 4).foldl (fun acc j => acc ^^^ gfMul (m.getD ((j + 4 - i % 4) % 4) 0) (st.getD (4 * (i / 4) + j) 0)) 0)

/-- The words of the key schedule, newest first: each is four bytes. -/
def expandWords (fuel i rcon : Nat) (ws : List (List Nat)) : List (List Nat) :=
  match fuel with
  | 0 => ws
  | f + 1 =>
    let prev := ws.headD []
    let t := if i % 8 = 0 then
        (match prev.map sbox with | a :: r => r ++ [a] | [] => [])
      else if i % 8 = 4 then prev.map sbox else prev
    let t1 := if i % 8 = 0 then (match t with | a :: r => (a ^^^ rcon) :: r | [] => []) else t
    expandWords f (i + 1) (if i % 8 = 0 then xtime rcon else rcon) (xorLists (ws.getD 7 []) t1 :: ws)

def chunk4 : List Nat → List (List Nat)
  | a :: b :: c :: d :: t => [a, b, c, d] :: chunk4 t
  | _ => []
/-- The fifteen round keys of 16 bytes. -/
def roundKeys (key : List Nat) : List (List Nat) :=
  let ws := (expandWords 52 8 1 (chunk4 key).reverse).reverse
  (List.range 15).map (fun r => ((ws.drop (4 * r)).take 4).flatten)

def encRounds : List (List Nat) → List Nat → List Nat
  | [], st => st
  | [k], st => xorLists (shiftRows (st.map sbox)) k
  | k :: ks, st => encRounds ks (xorLists (mixWith [2, 3, 1, 1] (shiftRows (st.map sbox))) k)
def aesEncrypt (rks : List (List Nat)) (blk : List Nat) : List Nat :=
  match rks with
  | k :: ks => encRounds ks (xorLists blk k)
  | [] => blk

def decRounds : List (List Nat) → List Nat → List Nat
  | [], st => st
  | [k], st => xorLists ((invShiftRows st).map invSbox) k
  | k :: ks, st => decRounds ks (mixWith [14, 11, 13, 9] (xorLists ((invShiftRows st).map invSbox) k))
def aesDecrypt (rks : List (List Nat)) (blk : List Nat) : List Nat :=
  match rks.reverse with
  | k :: ks => decRounds ks (xorLists blk k)
  | [] => blk

/-! ### XTS (IEEE 1619): whole blocks only; the key is key 1 then key 2 -/

def natLE : Nat → Nat → List Nat
  | 0, _ => []
  | n + 1, v => v % 256 :: natLE n (v / 256)
def leNum : List Nat → Nat
  | [] => 0
  | b :: t => b + 256 * leNum t
/-- The next tweak: multiplication by alpha. -/
def nextTweak (t : Nat) : Nat := (2 * t % 2 ^ 128) ^^^ (if 2 ^ 127 ≤ t then 135 else 0)

def xtsBlocks (f : List Nat → List Nat) : Nat → Nat → List Nat → List Nat
  | 0, _, _ => []
  | n + 1, t, d =>
    let w := natLE 16 t
    xorLists (f (xorLists (d.take 16) w)) w ++ xtsBlocks f n (nextTweak t) (d.drop 16)

def xtsRun (decrypt : Bool) (key : List Byte) (tweak : Nat) (data : List Byte) : List Byte :=
  let k := key.map (·.toNat)
  let k1 := roundKeys (k.take 32)
  let t := leNum (aesEncrypt (roundKeys (k.drop 32)) (natLE 16 tweak))
  (xtsBlocks (if decrypt then aesDecrypt k1 else aesEncrypt k1) (data.length / 16) t (data.map (·.toNat))).map (BitVec.ofNat 8)

/-- AES-256-XTS of one data unit under a 64-byte key. -/
def xtsEncrypt (key : List Byte) (tweak : Nat) (data : List Byte) : List Byte := xtsRun false key tweak data
def xtsDecrypt (key : List Byte) (tweak : Nat) (data : List Byte) : List Byte := xtsRun true key tweak data

/-! ### SHA-384 (FIPS 180-4) -/

/-- The 80 round constants, the first in the low 64 bits. -/
def shaK : Nat :=
  0x6c44198c4a4758175fcb6fab3ad6faec597f299cfc657e2a4cc5d4becb3e42b6431d67c49c100d4c3c9ebe0a15c9bebc32caab7b40c7249328db77f523047d841b710b35131c471b113f9804bef90dae0a637dc5a2c898a606f067aa72176fbaf57d4f7fee6ed178eada7dd6cde0eb1ed186b8c721c0c207ca273eceea26619cc67178f2e372532bbef9a3f7b2c67915a4506cebde82bde990befffa23631e288cc702081a6439ec84c87814a1f0ab7278a5636f43172f60748f82ee5defb2fc682e6ff3d6b2b8a35b9cca4f7763e3734ed8aa4ae3418acb391c0cb3c5c95a6334b0bcb5e19b48a82748774cdf8eeb991e376c085141ab5319a4c116b8d2d0c8106aa07032bbd1b8f40e35855771202ad69906245565a910d192e819d6ef5218c76c51a30654be30c24b8b70d0f89791a81a664bbc423001a2bfe8a14cf1036492722c851482353b81c2c92e47edaee6766a0abb3c77b2a8650a73548baf63de53380d139d95b3df4d2c6dfc5ac42aed2e1b21385c26c92627b70a8546d22ffc142929670a0e6e7006ca6351e003826fd5a79147930aa725c6e00bf33da88fc2bf597fc7beef0ee4b00327c898fb213fa831c66d2db43210983e5152ee66dfab76f988da831153b55cb0a9dcbd41fbd44a7484aa6ea6e4832de92c6f592b0275240ca1cc77ac9c650fc19dc68b8cd5b5efbe4786384f25e3e49b69c19ef14ad2c19bf174cf6926949bdc06a725c7123580deb1fe3b1696b172be5d74f27b896f550c7dc3d5ffb4e2243185be4ee4b28c12835b0145706fbed807aa98a3030242ab1c5ed5da6d8118923f82a4af194f9b59f111f1b605d0193956c25bf348b538e9b5dba58189dbbcb5c0fbcfec4d3b2f7137449123ef65cd428a2f98d728ae22

/-- The eight initial words, the first in the low 64 bits. -/
def shaIv : Nat :=
  0x47b5481dbefa4fa4db0c2e0d64f98fa78eb44a876858151167332667ffc00b31152fecd8f70e59399159015a3070dd17629a292a367cd507cbbb9d5dc1059ed8

def sub64 (t i : Nat) : Nat := t / 2 ^ (64 * i) % 2 ^ 64
def ror64 (x n : Nat) : Nat := x / 2 ^ n + x % 2 ^ n * 2 ^ (64 - n)
def beNum (bs : List Byte) : Nat := bs.foldl (fun a b => 256 * a + b.toNat) 0
def natBE (n v : Nat) : List Byte := ((natLE n v).reverse).map (BitVec.ofNat 8)

/-- The message schedule, newest word first. -/
def shaExtend : Nat → List Nat → List Nat
  | 0, w => w
  | n + 1, w =>
    let a := w.getD 14 0
    let b := w.getD 1 0
    let s0 := ror64 a 1 ^^^ ror64 a 8 ^^^ (a / 2 ^ 7)
    let s1 := ror64 b 19 ^^^ ror64 b 61 ^^^ (b / 2 ^ 6)
    shaExtend n (((w.getD 15 0 + s0 + w.getD 6 0 + s1) % 2 ^ 64) :: w)

structure ShaRegs where
  a : Nat
  b : Nat
  c : Nat
  d : Nat
  e : Nat
  f : Nat
  g : Nat
  h : Nat
  deriving DecidableEq, Repr

def not64 (x : Nat) : Nat := 2 ^ 64 - 1 - x % 2 ^ 64
def shaRound (r : ShaRegs) (k w : Nat) : ShaRegs :=
  let s1 := ror64 r.e 14 ^^^ ror64 r.e 18 ^^^ ror64 r.e 41
  let ch := (r.e &&& r.f) ^^^ (not64 r.e &&& r.g)
  let t1 := r.h + s1 + ch + k + w
  let s0 := ror64 r.a 28 ^^^ ror64 r.a 34 ^^^ ror64 r.a 39
  let maj := (r.a &&& r.b) ^^^ (r.a &&& r.c) ^^^ (r.b &&& r.c)
  { a := (t1 + s0 + maj) % 2 ^ 64, b := r.a, c := r.b, d := r.c, e := (r.d + t1) % 2 ^ 64, f := r.e, g := r.f, h := r.g }

def shaRounds : Nat → List Nat → ShaRegs → ShaRegs
  | _, [], r => r
  | i, w :: t, r => shaRounds (i + 1) t (shaRound r (sub64 shaK i) w)

def ShaRegs.add (x y : ShaRegs) : ShaRegs :=
  let p := fun (m n : Nat) => (m + n) % 2 ^ 64
  { a := p x.a y.a, b := p x.b y.b, c := p x.c y.c, d := p x.d y.d, e := p x.e y.e, f := p x.f y.f, g := p x.g y.g, h := p x.h y.h }

def shaBlock (st : ShaRegs) (blk : List Byte) : ShaRegs :=
  let w := (List.range 16).map (fun i => beNum ((blk.drop (8 * i)).take 8))
  st.add (shaRounds 0 (shaExtend 64 w.reverse).reverse st)

def shaBlocks : Nat → List Byte → ShaRegs → ShaRegs
  | 0, _, st => st
  | n + 1, m, st => shaBlocks n (m.drop 128) (shaBlock st (m.take 128))

/-- The SHA-384 digest of a byte string, 48 bytes. -/
def sha384 (m : List Byte) : List Byte :=
  let z := (239 - m.length % 128) % 128
  let p := m ++ (0x80 : Byte) :: List.replicate z 0 ++ natBE 16 (8 * m.length)
  let iv : ShaRegs := { a := sub64 shaIv 0, b := sub64 shaIv 1, c := sub64 shaIv 2, d := sub64 shaIv 3, e := sub64 shaIv 4,
                        f := sub64 shaIv 5, g := sub64 shaIv 6, h := sub64 shaIv 7 }
  let r := shaBlocks (p.length / 128) p iv
  natBE 8 r.a ++ natBE 8 r.b ++ natBE 8 r.c ++ natBE 8 r.d ++ natBE 8 r.e ++ natBE 8 r.f

/-! ### ECDSA P-384 verification (FIPS 186-4) -/

def p384P : Nat := 0xfffffffffffffffffffffffffffffffffffffffffffffffffffffffffffffffeffffffff0000000000000000ffffffff
def p384N : Nat := 0xffffffffffffffffffffffffffffffffffffffffffffffffc7634d81f4372ddf581a0db248b0a77aecec196accc52973
def p384B : Nat := 0xb3312fa7e23ee7e4988e056be3f82d19181d9c6efe8141120314088f5013875ac656398d8a2ed19d2a85c8edd3ec2aef
def p384Gx : Nat := 0xaa87ca22be8b05378eb1c71ef320ad746e1d3b628ba79b9859f741e082542a385502f25dbf55296c3a545e3872760ab7
def p384Gy : Nat := 0x3617de4a96262c6f5d9e98bf9292dc29f8f41dbd289a147ce9da3113b5f0b8c00a60b1ce1d7e819d7a431d7c90ea0e5f

/-- `x ^ e` modulo `m`, by the low `fuel` bits of `e`. -/
def powMod (m : Nat) : Nat → Nat → Nat → Nat
  | 0, _, _ => 1
  | f + 1, x, e =>
    let r := powMod m f (x * x % m) (e / 2)
    if e % 2 = 1 then x * r % m else r
/-- The inverse modulo a prime of at most 384 bits. -/
def invMod (m x : Nat) : Nat := powMod m 384 (x % m) (m - 2)

def onCurve (x y : Nat) : Bool :=
  decide (x < p384P) && decide (y < p384P) && y * y % p384P = (x * x * x + (p384P - 3) * x + p384B) % p384P

/-- Points of the curve; `none` is the point at infinity. -/
abbrev Point := Option (Nat × Nat)
def ecAdd (u v : Point) : Point :=
  let p := p384P
  match u, v with
  | none, _ => v
  | _, none => u
  | some (x1, y1), some (x2, y2) =>
    if x1 = x2 ∧ (y1 + y2) % p = 0 then none
    else
      let l := if x1 = x2 then (3 * x1 * x1 + (p - 3)) % p * invMod p (2 * y1) % p
        else (y2 + p - y1) % p * invMod p (x2 + p - x1) % p
      let x := (l * l + 2 * p - x1 - x2) % p
      some (x, (l * (x1 + p - x) + p - y1) % p)
def ecMul : Nat → Nat → Point → Point
  | 0, _, _ => none
  | f + 1, k, q =>
    let r := ecMul f (k / 2) (ecAdd q q)
    if k % 2 = 1 then ecAdd q r else r

/-- A signature r then s verifies over a digest under a public key X then Y, each 48 bytes big-endian. -/
def ecdsaOk (pub digest sig : List Byte) : Bool :=
  let x := beNum (pub.take 48)
  let y := beNum (pub.drop 48)
  let r := beNum (sig.take 48)
  let s := beNum (sig.drop 48)
  if pub.length = 96 ∧ sig.length = 96 ∧ onCurve x y ∧ 0 < r ∧ r < p384N ∧ 0 < s ∧ s < p384N then
    let w := invMod p384N s
    match ecAdd (ecMul 384 (beNum digest * w % p384N) (some (p384Gx, p384Gy))) (ecMul 384 (r * w % p384N) (some (x, y))) with
    | none => false
    | some (rx, _) => rx % p384N = r
  else false

/-- A signature r then s of a digest under a private key, with a per-message secret. -/
def ecdsaSign (priv : Nat) (digest : List Byte) (secret : Nat) : List Byte :=
  let r := match ecMul 384 secret (some (p384Gx, p384Gy)) with
    | some (x, _) => x % p384N
    | none => 0
  let s := invMod p384N secret * (beNum digest + r * priv) % p384N
  natBE 48 r ++ natBE 48 s

/-- A private key from derived bytes, in 1 to n - 1. -/
def privOf (bs : List Byte) : Nat := beNum bs % (p384N - 1) + 1

/-! ### HMAC and HKDF with SHA-384 (RFC 2104, RFC 5869) -/

def xorByte (c : Byte) (bs : List Byte) : List Byte := bs.map (fun b => b ^^^ c)
def hmac384 (key msg : List Byte) : List Byte :=
  let k0 := if 128 < key.length then sha384 key else key
  let k := k0 ++ List.replicate (128 - k0.length) 0
  sha384 (xorByte 0x5C k ++ sha384 (xorByte 0x36 k ++ msg))

/-- The blocks of the expansion, each from the one before it. -/
def hkdfBlocks (prk info : List Byte) : Nat → Nat → List Byte → List Byte
  | 0, _, _ => []
  | n + 1, i, t =>
    let t1 := hmac384 prk (t ++ info ++ [BitVec.ofNat 8 i])
    t1 ++ hkdfBlocks prk info n (i + 1) t1

/-- Extract with an empty salt, and expand: the first `len` bytes. -/
def hkdf384 (ikm info : List Byte) (len : Nat) : List Byte :=
  (hkdfBlocks (hmac384 (List.replicate 48 0) ikm) info ((len + 47) / 48) 1 []).take len

/-! ### AES-256-GCM (SP 800-38D) -/

/-- The product of two blocks in the field of GHASH: bit 127 of a number is the first bit of its block. -/
def ghashMul : Nat → Nat → Nat → Nat → Nat
  | 0, _, _, z => z
  | n + 1, x, v, z =>
    ghashMul n x (if v % 2 = 1 then v / 2 ^^^ 225 * 2 ^ 120 else v / 2) (if x / 2 ^ n % 2 = 1 then z ^^^ v else z)

def ghashBlocks (h : Nat) : Nat → List Byte → Nat → Nat
  | 0, _, y => y
  | n + 1, bs, y => ghashBlocks h n (bs.drop 16) (ghashMul 128 (y ^^^ beNum (bs.take 16)) h 0)

/-- Bytes filled with zeros to whole blocks. -/
def padBlocks (bs : List Byte) : List Byte := bs ++ List.replicate ((16 - bs.length % 16) % 16) 0

def aesBlock (rks : List (List Nat)) (bs : List Byte) : List Byte := (aesEncrypt rks (bs.map (·.toNat))).map (BitVec.ofNat 8)

/-- Counter mode from a counter. -/
def gcmCtr (rks : List (List Nat)) (nonce : List Byte) : Nat → Nat → List Byte → List Byte
  | 0, _, _ => []
  | n + 1, c, bs =>
    (List.zipWith (fun a b => a ^^^ b) (bs.take 16) (aesBlock rks (nonce ++ natBE 4 c))) ++ gcmCtr rks nonce n (c + 1) (bs.drop 16)
def gcmStream (key nonce bs : List Byte) : List Byte := gcmCtr (roundKeys (key.map (·.toNat))) nonce ((bs.length + 15) / 16) 2 bs

/-- The tag over associated data and ciphertext, 16 bytes, under a 12-byte nonce. -/
def gcmTag (key nonce ad cipher : List Byte) : List Byte :=
  let rks := roundKeys (key.map (·.toNat))
  let h := beNum (aesBlock rks (List.replicate 16 0))
  let m := padBlocks ad ++ padBlocks cipher ++ natBE 8 (8 * ad.length) ++ natBE 8 (8 * cipher.length)
  natBE 16 (ghashBlocks h (m.length / 16) m 0 ^^^ beNum (aesBlock rks (nonce ++ natBE 4 1)))

/-! ### CRC-32C -/

def crcBits : Nat → Nat → Nat
  | 0, c => c
  | n + 1, c => crcBits n (if c % 2 = 1 then c / 2 ^^^ 0x82F63B78 else c / 2)
def crc32c (bs : List Byte) : Nat :=
  (bs.foldl (fun c b => crcBits 8 (c ^^^ b.toNat)) 0xFFFFFFFF) ^^^ 0xFFFFFFFF

end Sys2Proof.Machine
end

