-- ==== Sys2Proof/Config.lean ====
section
/-! DEFINITION. What the manual leaves open: constants without a body, so that nothing can be proved of their values. -/

namespace Sys2Proof.Config

/-- Free value of width `w` for the `n`-th draw. Log entry 1. -/
opaque freeBits (w : Nat) (n : Nat) : BitVec w
/-- Free number for the `n`-th draw. Log entry 1. -/
opaque freeNat (n : Nat) : Nat
/-- Free byte at position `i` of the `n`-th draw. Log entry 1. -/
opaque freeByte (n i : Nat) : Byte

/-- Byte `i` of the generated key with an identity (R401, R414). Log entry 1. -/
opaque keyByte (ident i : Nat) : Byte

/-- The limits of refresh management that the DRAM reports in MR27 (R304, R318). Log entry 1. -/
opaque raaImt : Nat
opaque raaMmt : Nat
opaque raaDec : Nat
/-- The nodes whose routes to a root pass through a node: the other devices' route tables, which this device does not hold
(R390). Log entry 1. -/
opaque routedThrough (node root : Nat) : BitVec 16
/-- Byte `i` of the public key that the fuses hold for slot 0 (R401). Log entry 17. -/
opaque fuseKeyByte (i : Nat) : Byte
/-- The provisioned identifier and the characteristics of the I3C target (R501), and the JEDEC identity of the TAP's IDCODE (R502).
Log entry 17. -/
opaque i3cPid : BitVec 48
opaque i3cBcr : Byte
opaque i3cDcr : Byte
opaque jedecId : BitVec 11
/-- Byte `i` of the 448 bytes of LDPC parity over data and record of a codeword (R222). Log entry 97. -/
opaque ldpcParity (message : List Byte) (i : Nat) : Byte
/-- Check byte `i` of a line of DRAM over its ciphertext (R308). Log entry 97. -/
opaque lineCheck (cipher : List Byte) (i : Nat) : Byte
/-- Byte `i` of the unique device secret in fuses (R405). Log entry 17. -/
opaque fuseSecretByte (i : Nat) : Byte
/-- Byte `i` of the key that the island derives into a slot from a seed, where the manual names no function (R405, R413), and of the nonce
under which it seals a slot's generation. Log entry 101. -/
opaque sealNonceByte (slot gen i : Nat) : Byte
opaque derivedKeyByte (slot : Nat) (seed : List Byte) (i : Nat) : Byte
/-- The length of the certificate chain of slot 0, and its byte `i`, by the identity key and the alias key that it certifies (R405).
Log entry 101. -/
opaque certLen : Nat
opaque certByte (identity alias_ : List Byte) (i : Nat) : Byte
/-- What a checker that locked with a draw has checked after some microseconds, on a lane whose rate the manual does not fix, and the
errors among some bits (R503). Log entry 103. -/
opaque testBits (draw us : Nat) : Nat
opaque testErrs (draw bits : Nat) : Nat
/-- The calibrated tables of the power estimate (R438): the weight in pJ of an event kind in an island, the island's nominal voltage in mV,
the fixed voltage of an island with a fixed point, its leakage in nW by voltage and temperature, and the fixed term in nW of the memory dies
by their rates. Log entry 105. -/
opaque powerWeight (island kind : Nat) : Nat
opaque nominalMv (island : Nat) : Nat
opaque islandMv (island : Nat) : Nat
opaque leakNw (island mv : Nat) (temp : Option Int) : Nat
opaque dieNw (dramRate flashRate : Nat) : Nat
/-- The vendor ID. Log entry 17. -/
opaque vendorId : BitVec 16
/-- Byte `i` of the measured digest of the security-island ROM, and of the images that the part ships with (R406). Log entry 17. -/
opaque romDigestByte (i : Nat) : Byte
opaque shippedDigestByte (target : Bool) (i : Nat) : Byte

end Sys2Proof.Config
end

