-- ==== Sys2Proof/Machine/RegTable.lean ====
section
/-! DEFINITION. The BAR0 registers that hold a value of their own: offset, copies, reset value, the bits each access
code covers (R11) and the reset domain (R15). Registers that only show other state are in Machine/View.lean. -/

namespace Sys2Proof.Machine

/-- Reset domains of R15, widest first; `kept` is reset by nothing. -/
inductive Dom where
  | kept
  | aon
  | por
  | perst
  | flr
  | core
  deriving DecidableEq, Repr

/-- One register or array of registers. `mgmt` marks a register that only the management controller writes. -/
structure RegInfo where
  base : Nat
  stride : Nat
  count : Nat
  reset : Word
  rw : Word
  w1c : Word
  w1s : Word
  rc : Word
  dom : Dom
  mgmt : Bool
  deriving DecidableEq, Repr

/-- A register that the device alone writes. -/
def roReg (base : Nat) (reset : Word) (dom : Dom) : RegInfo :=
  { base := base, stride := 4, count := 1, reset := reset, rw := 0, w1c := 0, w1s := 0, rc := 0, dom := dom, mgmt := false }

def rwReg (base : Nat) (reset rw : Word) (dom : Dom) : RegInfo := { roReg base reset dom with rw := rw }
def rcReg (base : Nat) (rc : Word) (dom : Dom) : RegInfo := { roReg base 0 dom with rc := rc }
/-- The same register in each of the sixteen core blocks. -/
def RegInfo.perCore (r : RegInfo) : RegInfo := { r with base := 0x100000 + r.base, stride := 0x10000, count := 16 }
def RegInfo.times (r : RegInfo) (stride count : Nat) : RegInfo := { r with stride := stride, count := count }
def RegInfo.byMgmt (r : RegInfo) : RegInfo := { r with mgmt := true }

/-- A fault record: VALID is W1C, the rest is read-only. -/
def recReg (base : Nat) (dom : Dom) : RegInfo := { roReg base 0 dom with w1c := 0x80000000#32 }

/-- Core blocks (R88, R113, R135, R170, R194). -/
def coreRegs : List RegInfo :=
  [ (rcReg 0x820 0xFFFFFFFF#32 .core).perCore, (recReg 0x824 .flr).perCore,
    (rcReg 0x90C 0xFFFFFFFF#32 .core).perCore, (recReg 0x910 .flr).perCore,
    (rcReg 0xA08 0xFFFFFFFF#32 .core).perCore, (recReg 0xA0C .flr).perCore,
    (recReg 0xB08 .flr).perCore, (roReg 0xB0C 0 .flr).perCore,
    (rwReg 0xB18 0x000186A0#32 0x00FFFFFF#32 .flr).perCore,
    (rcReg 0xC08 0xFFFFFFFF#32 .core).perCore, (recReg 0xC0C .flr).perCore, (roReg 0xC14 0 .core).perCore ]

/-- HIF and MGT (R378, R379). -/
def hostRegs : List RegInfo :=
  [ rwReg 0x10010 0 0x3F#32 .flr, rwReg 0x10020 0 0x1FF#32 .flr, recReg 0x10040 .flr,
    { roReg 0x20000 0 .perst with w1c := 0x20000000#32 }, roReg 0x20004 0 .perst,
    (rwReg 0x20100 0 0xFFFFFFFF#32 .perst).times 4 64, (roReg 0x20200 0 .perst).times 4 64 ]

/-- The MSI-X table (R375): 128 entries of 16 bytes, each masked after a function reset. -/
def msixRegs : List RegInfo :=
  [ (rwReg 0x18000 0 0xFFFFFFFC#32 .flr).times 16 128, (rwReg 0x18004 0 0xFFFFFFFF#32 .flr).times 16 128,
    (rwReg 0x18008 0 0xFFFFFFFF#32 .flr).times 16 128, (rwReg 0x1800C 1 1#32 .flr).times 16 128 ]

/-- RAS and EVT (R481, R482). -/
def rasRegs : List RegInfo :=
  [ { roReg 0xD0000 0 .flr with w1c := 0x7C000000#32 }, rcReg 0xD0008 0xFFFFFFFF#32 .flr,
    (rwReg 0xD000C 0x01000040#32 0xFFFFFFFF#32 .flr).byMgmt, rcReg 0xD0010 0xFF000000#32 .flr,
    rwReg 0xC0000 0x100 0xFFF#32 .flr, rwReg 0xC0010 0 0xFFFFFFFF#32 .flr, rcReg 0xC0014 0xFFFFFFFF#32 .flr ]

/-- WRG and the shared-memory registers of STR (R301, R195). -/
def wrgRegs : List RegInfo :=
  [ (rcReg 0x90000 0xFFFFFFFF#32 .flr).times 4 5, recReg 0x90018 .flr, rcReg 0x70F40 0xFFFFFFFF#32 .flr, recReg 0x70F44 .flr ]

/-- KVP (R216): controls, status, selectors, pools and budgets. -/
def kvpRegs : List RegInfo :=
  [ rwReg 0x80000 0 1#32 .flr, { roReg 0x80004 0 .flr with w1c := 0xC0000000#32 }, rwReg 0x80008 0 0x3F#32 .flr,
    rcReg 0x80010 0xFFFFFFFF#32 .flr, rwReg 0x80020 0 0x3FF#32 .flr,
    (rwReg 0x80100 0 0xFFFFF#32 .flr).times 0x20 4, (rwReg 0x80104 0 0x0FFFFFFF#32 .flr).times 0x20 4,
    (rwReg 0x80108 0 0x8000007F#32 .flr).times 0x20 4, (rwReg 0x8010C 0 0xFFFFF#32 .flr).times 0x20 4,
    (rwReg 0x80400 0 0xCFFFFFFF#32 .flr).times 8 64 ]

/-- FLS (R253, R254). Values that the system partition keeps are reset by nothing; their reset value is the first start's. -/
def flsRegs : List RegInfo :=
  [ (rwReg 0x60000 0x00190300#32 0x007F1F1F#32 .kept).byMgmt, { roReg 0x60004 0 .por with w1c := 0x1C000000#32 },
    rwReg 0x60008 0x0008060C#32 0x00FFFFFF#32 .por,
    (rwReg 0x60010 0x007A1200#32 0x00FFFFFF#32 .kept).byMgmt, (rwReg 0x60014 0x00B71B00#32 0x00FFFFFF#32 .kept).byMgmt,
    (rwReg 0x60018 0x00E4E1C0#32 0x00FFFFFF#32 .kept).byMgmt, (rwReg 0x6001C 0x0028005A#32 0x00FF00FF#32 .kept).byMgmt,
    (rwReg 0x60020 0x4E200064#32 0x3FF#32 .kept).byMgmt, (rwReg 0x60024 10 0x3F#32 .kept).byMgmt,
    (rwReg 0x60028 0x00800000#32 0x83FFFFFF#32 .kept).byMgmt, rwReg 0x60038 0 7#32 .flr, rwReg 0x60048 0 0x7FFFF#32 .flr,
    rcReg 0x60054 0xFFFFFFFF#32 .flr, rcReg 0x60058 0xFFFFFFFF#32 .flr, recReg 0x6005C .flr, recReg 0x60060 .flr,
    rwReg 0x60068 0 0x1F#32 .flr ]

/-- STR (R282): the mirror area is kept; STR_PATCH holds the model of the latest PATCH. -/
def strRegs : List RegInfo :=
  [ rwReg 0x70000 0 0x800FFFFF#32 .kept, rwReg 0x70004 0 0x000FFFFF#32 .kept, { roReg 0x7000C 0 .flr with w1c := 0x9C000000#32 },
    rwReg 0x70010 0 0x1F#32 .flr, rwReg 0x70040 0 0xF#32 .flr, (rcReg 0x70050 0xFFFFFFFF#32 .flr).times 4 4,
    rcReg 0x70060 0xFFFF#32 .flr, roReg 0x70070 0 .flr ]

/-- The bitstream registers of HIF (R353). -/
def bsRegs : List RegInfo :=
  [ (rwReg 0x10F00 0 0x800FFFFF#32 .kept).byMgmt, rwReg 0x10F04 0 7#32 .flr, recReg 0x10F14 .flr, rcReg 0x10F18 0xFFFFFFFF#32 .flr ]

/-- DRM (R328): the flags of DRM_STATUS, controls, counters and records. -/
def drmRegs : List RegInfo :=
  [ { roReg 0x50000 0 .perst with w1c := 0x00C00000#32 }, rwReg 0x50008 0x64 0xFFFF#32 .perst, (rwReg 0x50010 0 1#32 .perst).byMgmt,
    rwReg 0x50020 0 0x3FF#32 .perst, (rwReg 0x5002C 0x001003E8#32 0xFFFFFFFF#32 .perst).byMgmt, recReg 0x50030 .flr,
    (rwReg 0x50034 0 0x7FFFE000#32 .flr).byMgmt, roReg 0x50038 0 .flr, (rwReg 0x50040 0x01F41000#32 0xFFFFFFFF#32 .perst).byMgmt,
    recReg 0x50044 .flr, (rcReg 0x50048 0xFFFFFFFF#32 .flr).times 4 2, recReg 0x50050 .flr, rcReg 0x50054 0xFFFFFFFF#32 .flr,
    roReg 0x50058 0 .flr, roReg 0x5005C 0 .flr ]

/-- ULK (R398): node and routes are kept; routes, members and queue bases are banked by their selectors. -/
def ulkRegs : List RegInfo :=
  [ (rwReg 0xB0000 0 0xF#32 .kept).byMgmt, rwReg 0xB0004 0 0xF#32 .perst, (rwReg 0x1100000 0 0xFF#32 .kept).times 4 16,
    (rcReg 0xB0108 0xFFFFFFFF#32 .flr).times 0x20 4, (rcReg 0xB010C 0xFFFFFFFF#32 .flr).times 0x20 4, rwReg 0xB0180 0 0xF#32 .flr,
    (rwReg 0x1100100 0 0xFFFF#32 .flr).times 4 16, rwReg 0xB0200 0 7#32 .flr, (rwReg 0x1100200 0 0x8007FFFF#32 .flr).times 4 8,
    rwReg 0xB0208 0x64 0x00FFFFFF#32 .flr, recReg 0xB0210 .flr, (rwReg 0xB0214 0 0x001FFFF0#32 .perst).byMgmt ]

/-- SEC (R429): CFG_ERR and the selectors; the windows of each context are banked beyond BAR0. -/
def secRegs : List RegInfo :=
  [ { roReg 0xA0000 0 .por with w1c := 0x01000000#32 }, rwReg 0xA0008 0 0x7F#32 .flr, rwReg 0xA0010 0 0x3F#32 .flr,
    (rwReg 0x1000000 0 0x000FFFFF#32 .flr).times 16 256, (rwReg 0x1000004 0 0x000FFFFF#32 .flr).times 16 256,
    (rwReg 0x1000008 0 0xFC000000#32 .flr).times 16 256 ]

/-- PWR and CLK (R457, R458): limits and levels are kept; CLK_STRETCH is banked by core. -/
def pwrRegs : List RegInfo :=
  [ rwReg 0x30004 0x80000032#32 0x8000FFFF#32 .flr,
    (rwReg 0x30008 0x27101F40#32 0xFFFFFFFF#32 .kept).byMgmt, (rwReg 0x3000C 0x7D0061A8#32 0xFFFFFFFF#32 .kept).byMgmt,
    (rwReg 0x30010 0xD6D8AFC8#32 0xFFFFFFFF#32 .kept).byMgmt, (rwReg 0x30014 0x0FA00BB8#32 0xFFFFFFFF#32 .kept).byMgmt,
    (rwReg 0x30018 8 0x1F#32 .kept).byMgmt, (rwReg 0x30028 0x645F#32 0xFFFF#32 .kept).byMgmt,
    { roReg 0x3002C 0 .flr with w1c := 0x7F#32 }, rwReg 0x30030 0 0x7F#32 .flr, rcReg 0x30034 0xFFFFFFFF#32 .flr,
    rwReg 0x40000 0 0xF#32 .flr, (rcReg 0x1100300 0xFFFFFFFF#32 .flr).times 4 16, (rcReg 0x40020 0xFFFFFFFF#32 .flr).times 4 4 ]

/-- TST (R505). -/
def tstRegs : List RegInfo :=
  [ rwReg 0xE0000 0 0x7FFFF#32 .flr, { rwReg 0xE0004 0 0x1F00FFFF#32 .flr with w1c := 0x20400000#32 } ]

/-- Every register with a stored value. -/
def regTable : List RegInfo := coreRegs ++ hostRegs ++ msixRegs ++ rasRegs ++ wrgRegs ++ kvpRegs ++ flsRegs ++ strRegs ++
  bsRegs ++ drmRegs ++ ulkRegs ++ secRegs ++ pwrRegs ++ tstRegs

/-- Whether an offset is one of the registers of a row. -/
def RegInfo.covers (r : RegInfo) (off : Nat) : Bool :=
  decide (r.base ≤ off) && decide ((off - r.base) % r.stride = 0) && decide ((off - r.base) / r.stride < r.count)

def regInfo (off : Nat) : Option RegInfo := regTable.find? (fun r => r.covers off)

/-- The reset value of a register; 0 where no row names the offset (R10). -/
def resetOf (off : Nat) : Word := match regInfo off with | some r => r.reset | none => 0

end Sys2Proof.Machine
end

