-- ==== Sys2Proof/Machine/Sparse.lean ====
section
/-! DEFINITION. Reading and writing a sparse table: a list of keys strictly rising with no entry at the default. -/

namespace Sys2Proof.Machine

/-- What the table holds under a key; `d` where no entry stands. -/
def nget {α : Type} (d : α) (m : NMap α) (k : Nat) : α :=
  match m with
  | [] => d
  | (k', v) :: t => if k' = k then v else nget d t k

/-- The table without a key. -/
def nerase {α : Type} (m : NMap α) (k : Nat) : NMap α :=
  match m with
  | [] => []
  | (k', v) :: t => if k' = k then nerase t k else (k', v) :: nerase t k

/-- The table with an entry put in its place by key. -/
def ninsert {α : Type} (m : NMap α) (k : Nat) (v : α) : NMap α :=
  match m with
  | [] => [(k, v)]
  | (k', v') :: t => if k < k' then (k, v) :: (k', v') :: t else (k', v') :: ninsert t k v

/-- The table after a write; writing the default removes the entry. -/
def nset {α : Type} [DecidableEq α] (d : α) (m : NMap α) (k : Nat) (v : α) : NMap α :=
  if v = d then nerase m k else ninsert (nerase m k) k v

/-- Change what a key holds by a function. -/
def nmod {α : Type} [DecidableEq α] (d : α) (m : NMap α) (k : Nat) (f : α → α) : NMap α :=
  nset d m k (f (nget d m k))

/-- Keys strictly above a bound and rising, no entry at the default. -/
def nwfFrom {α : Type} [DecidableEq α] (d : α) : Option Nat → NMap α → Bool
  | _, [] => true
  | lo, (k, v) :: t => (match lo with | none => true | some b => decide (b < k)) && decide (v ≠ d) && nwfFrom d (some k) t

/-- The canonical form of a sparse table. -/
def nwf {α : Type} [DecidableEq α] (d : α) (m : NMap α) : Bool := nwfFrom d none m

/-- The keys whose entry meets a test, rising. -/
def nkeys {α : Type} (m : NMap α) (p : α → Bool) : List Nat :=
  (m.filter (fun e => p e.2)).map (·.1)

end Sys2Proof.Machine
end

