-- ==== Sys2Proof/Machine/State.lean ====
section
/-! DEFINITION. The state of the whole device as plain data, the reasons a command can stop, and the state
after reset. Sparse tables (`NMap`) hold an entry only where it differs from the table's default; the defaults
stand in Machine/Sparse.lean and beside the accessors of Machine/Ops.lean. -/

namespace Sys2Proof.Machine

/-- A memory with granule check bits and poison (R188): bytes not listed are 0, granules not listed are clean. -/
structure Ram where
  cells : List Host.Cell
  poison : NMap Bool
  ecc : NMap Ecc
  deriving DecidableEq, Repr

/-- One accumulator slot of one cell: running value or INT32 sum, cascade stack by level, saturation flag (R57, R55). -/
structure AccCell where
  a : Word
  stack : List (Option Word)
  sat : Bool
  deriving DecidableEq, Repr

inductive TileSt where
  | idle
  | open_
  | closed
  deriving DecidableEq, Repr

/-- An accumulator tile: its state, the type of its last accumulation, and the M and N of the open one (R68, R69). -/
structure Tile where
  st : TileSt
  f32 : Bool
  m : Nat
  n : Nat
  deriving DecidableEq, Repr

/-- A dispatched instruction with the g registers it named, read at dispatch (R145). `sn` is its place in program order. -/
structure Disp where
  sn : Nat
  pc : BitVec 13
  ins : CoreInstr
  x0 : DWord
  x1 : DWord
  x2 : DWord
  x3 : DWord
  deriving DecidableEq, Repr

/-- An issued instruction. `desc` is the descriptor read at issue; `phase` counts the events it has passed;
`blk` the blocks a Wringer instruction has finished; `reading` is true while operand bytes are still protected (R80), but for the
ranges `fed` that have been read: of buffer A (0), of buffer B (1), or of core memory (2). `seen` holds core memory as it stood when a
Mangle instruction first read bytes into which a write then went on (R110). -/
structure Flight where
  d : Disp
  desc : List Byte
  phase : Nat
  blk : Nat
  reading : Bool
  fed : List (Nat × Nat × Nat)
  seen : Option Ram
  /-- map ranges that others have written since the issue of a Wringer instruction (R290) -/
  hits : List (Nat × Nat)
  /-- a read of the controller found a source line of the transfer uncorrectable (R189, R308) -/
  ue : Bool
  deriving DecidableEq, Repr

/-- One unit of a core: pending buffer, waiting USIGs and issued instructions, oldest first (R144, R146).
`wait` is true while a write or read is held by protection. -/
structure UnitSt where
  pend : List Disp
  usigs : List (Nat × BitVec 6)
  flights : List Flight
  wait : Bool
  deriving DecidableEq, Repr

/-- What the front end does (R145): handles words, waits for a tack, waits at a Col channel, or has stopped. -/
inductive Front where
  | running
  | tack (tk : BitVec 6) (consume : Bool)
  | col (node : BitVec 3) (ch : BitVec 4) (gaddr : DWord) (gstat : BitVec 5) (ts : BitVec 6)
  | stopped
  deriving DecidableEq, Repr

/-- R463. -/
inductive Fence where
  | inService
  | testing
  | retired
  deriving DecidableEq, Repr

/-- A micro-program (R131): code, TWO flag, override bits and values, step words. -/
structure Micro where
  code : BitVec 8
  flags : BitVec 8
  pinf : Word
  ninf : Word
  pzero : Word
  nzero : Word
  steps : List Word
  deriving DecidableEq, Repr

/-- One core (R139 to R171). -/
structure Core where
  run : Bool
  cmd : Option CmdRef
  pc : BitVec 14
  /-- stopped as a peer under R166: the core contributes no code -/
  peer : Bool
  front : Front
  g : NMap DWord
  pendingG : List (BitVec 5)
  /-- shared-memory loads under way: register, offset and the instruction's PC -/
  slds : List (BitVec 5 × Nat × BitVec 13)
  tacks : BitVec 64
  sat : Bool
  v : NMap Word
  tiles : NMap Tile
  acc : NMap AccCell
  cmem : Ram
  bufA : Ram
  bufB : Ram
  bufD : Ram
  imem : NMap DWord
  imemLen : Nat
  slot : Option (BitVec 3)
  packing : BitVec 2
  bind : Word
  micro : List Micro
  mtable : NMap Word
  mat : UnitSt
  mgl : UnitSt
  vec : UnitSt
  dma : UnitSt
  wrg : UnitSt
  nextSn : Nat
  owner : Option (BitVec 6)
  code : Option (BitVec 16)
  beats : DWord
  blocks : DWord
  fence : Fence
  /-- step of R464 that a fault in hand has reached: 0 none, 1 named, 2 fenced, 3 discarded and under test -/
  faultStep : Nat
  faultTimes : List Nat
  retest : Bool
  gated : Bool
  point : Nat
  stretch : Bool
  ceWindow : Nat
  ceActed : Bool
  orphans : Nat
  /-- the lane of its group that each special-function unit's grant pointer names (R127) -/
  grants : List Nat
  /-- map ranges that the core's part of its command has written (R19) -/
  wrote : List (Nat × Nat)
  /-- the granule that patrol reads next, counted through core memory and buffers A, B and D (R191) -/
  patrol : Nat
  deriving DecidableEq, Repr

/-- A Col channel (R32, R340). `arrived` holds the logical cores that have arrived, `sys` the member devices
whose arrival has reached this device, `data` the broadcast bytes read at the source's arrival. -/
structure Chan where
  slot : Option (BitVec 3)
  kind : BitVec 8
  scope : BitVec 8
  mask : BitVec 16
  src : BitVec 8
  len : BitVec 8
  arrived : BitVec 16
  sys : BitVec 16
  /-- nodes whose arrival flits came straight to this device, each with the port that its flit came by: the release goes back there -/
  from_ : NMap (Option (BitVec 2))
  sysSent : Bool
  cancelled : Bool
  data : List Byte
  deriving DecidableEq, Repr

inductive Stage where
  /-- fetched, checks not yet made -/
  | fetched
  /-- checks passed, waiting before its start -/
  | waiting
  /-- a RUN whose KV start is made and whose argument data is being read (R367 stage 5) -/
  | placing
  | started
  /-- status decided, record not yet written -/
  | ended
  deriving DecidableEq, Repr

/-- A page of a pool, named by pool and first unit, with its class. -/
structure PageId where
  pool : BitVec 2
  unit : Nat
  cls : Nat
  deriving DecidableEq, Repr

/-- A command that the host interface has fetched (R363 to R374). -/
structure Cmd where
  ref : CmdRef
  bytes : List Byte
  phase : Bool
  order : Nat
  door : Nat
  stage : Stage
  status : BitVec 16
  begin_ : Nat
  end_ : Nat
  cores : BitVec 16
  codes : List (BitVec 4 × BitVec 16)
  pass : Word
  result : DWord
  host : Option HostRead
  pins : List PageId
  appends : List PageId
  /-- named sequences with V at the start and T -/
  seqs : List (BitVec 10 × Nat × Nat)
  /-- statuses that do not come from a core: an abort, a failure of the pass -/
  forced : List (BitVec 16)
  /-- a sequence that the started RUN names has been dropped or truncated (R213) -/
  cut : Bool
  /-- bitstream slot of a RUN or switch, once its checks have passed -/
  slot : BitVec 3
  /-- codewords that an MWRITE has had accepted -/
  done : Nat
  deriving DecidableEq, Repr

/-- A context's enable state (R378). -/
structure Ctx where
  en : Bool
  cls : Bool
  admin : Bool
  sealed_ : Bool
  hostrw : Bool
  idereq : Bool
  ulink : Bool
  deriving DecidableEq, Repr

/-- A spool (R360, R361, R378). `halted` is set by a fetch error until the spool is disabled; `fetchErr` is its flag. -/
structure Spool where
  en : Bool
  halted : Bool
  fetchErr : Bool
  log2 : BitVec 4
  cmdLo : Word
  cmdHi : Word
  cplLo : Word
  cplHi : Word
  head : BitVec 12
  tail : BitVec 12
  phase : Bool
  /-- the entries not yet fetched, by tail write: how many, when, and the doorbell order of the first -/
  doors : List (Nat × Nat × Nat)
  deriving DecidableEq, Repr

inductive SeqSt where
  | free
  | live
  | evicted
  deriving DecidableEq, Repr

/-- One page of a row: its first unit and its DIRTY bit. -/
structure Page where
  unit : Nat
  dirty : Bool
  deriving DecidableEq, Repr

/-- One row of a sequence (R202). -/
structure Row where
  start : Nat
  z : Nat
  pages : List Page
  deriving DecidableEq, Repr

/-- One sequence slot (R203, R210). -/
structure Seq where
  st : SeqSt
  ctx : BitVec 6
  pool : BitVec 2
  v : Nat
  streams : Nat
  pref : Nat
  maxrows : Nat
  table : Nat
  rows : List Row
  /-- host address of an EVICTED sequence's image, and the bytes of the image's pages -/
  host : Nat
  img : Nat
  /-- the command that holds the sequence busy (R205) -/
  busy : Option CmdRef
  deriving DecidableEq, Repr

/-- An allocated page: class, references, read pins by command, charged context (R201, R211). -/
structure PageInfo where
  cls : Nat
  refs : Nat
  pins : List CmdRef
  ctx : BitVec 6
  deriving DecidableEq, Repr

inductive ModelSt where
  | free
  | installing
  | stored
  | loading
  | ready
  deriving DecidableEq, Repr

/-- An old version of a model that earlier passes still read (R279 step 4). -/
structure OldVersion where
  gen : Word
  layers : List (List Byte)
  mir : List Nat
  deriving DecidableEq, Repr

/-- A PATCH between its start and its flip (R279). -/
structure Patch where
  ref : CmdRef
  first : Nat
  layers : List (List Byte)
  mir : List Nat
  /-- codewords of each layer's variant streams -/
  diffs : List Nat
  deriving DecidableEq, Repr

/-- A model or variant (R255, R256). Each layer is its 64-byte descriptor; `mir` is the DRAM offset of each
layer's first DRAM granule in the mirror, empty without a mirror; `diffs` the codewords of each layer's variant streams
(R294). `hbase` and `hsize` are the host region. -/
structure Model where
  st : ModelSt
  evicted : Bool
  variant : Bool
  base : BitVec 5
  layers : List (List Byte)
  gen : Word
  use : Int
  mir : List Nat
  diffs : List Nat
  hbase : Nat
  hsize : Nat
  old : List OldVersion
  patch : Option Patch
  loader : Option CmdRef
  deriving DecidableEq, Repr

inductive ExtSt where
  | free
  | open_
  | sealing
  | sealed_
  deriving DecidableEq, Repr

/-- An extent of the directory (R228). `stripes` are (row, wordline) pairs in order. -/
structure Extent where
  st : ExtSt
  model : BitVec 5
  stripes : List (Nat × Nat)
  lastRead : Int
  deriving DecidableEq, Repr

/-- One codeword of an extent (R222, R229): data, PAD, and whether its unit is programmed. -/
structure Codeword where
  data : List Byte
  pad : Bool
  programmed : Bool
  bad : Bool
  seq : Nat
  deriving DecidableEq, Repr

inductive BlkSt where
  | free
  | mapped
  | erasing
  | retired
  | system
  /-- the destination of a copy under way, which the block map does not name yet (R242) -/
  | dest
  deriving DecidableEq, Repr

/-- A page read under way: the physical block, what it held when the read began, and when the read is over at the latest (R236). -/
structure FlashRead where
  key : Nat
  row : Nat
  slot : Nat
  wl : Nat
  /-- the extent and the stripe of it that the wordline held -/
  ext : Option (Nat × Nat)
  /-- the codewords of the unit that have been decoded: a page has four (R227) -/
  got : List Nat
  until_ : Nat
  deriving DecidableEq, Repr

/-- A physical flash block (R224, R226, R240, R246). `wl` is the next wordline to program. -/
structure Blk where
  st : BlkSt
  row : Nat
  slot : Nat
  wl : Nat
  pe : Nat
  pulses : Nat
  born : Nat
  segs : NMap Nat
  copyTo : Option Nat
  /-- the cause of a retirement that follows the block's copy (Table 7 of R475) -/
  retire : Option Nat
  deriving DecidableEq, Repr

inductive RowSt where
  | empty
  | open_
  | full
  deriving DecidableEq, Repr

/-- A row of the store: its state, the stripes handed out, and its map from slot to physical block. -/
structure FRow where
  st : RowSt
  next : Nat
  map : NMap Nat
  deriving DecidableEq, Repr

/-- Darner classes in descending priority (R245). -/
inductive Mark where
  | urgent
  | queued
  | retention
  | compact
  | wear
  deriving DecidableEq, Repr

/-- The weight store (chapter 9). Blocks are keyed by (die, bank, block), die first. -/
structure Store where
  ready : Bool
  /-- the counters were checkpointed when the supplies went (R243) -/
  saved : Bool
  blks : NMap Blk
  rows : NMap FRow
  exts : NMap Extent
  cws : NMap Codeword
  nextSeq : Nat
  dataRow : Option Nat
  compRow : Option Nat
  capRows : Nat
  marks : List (Mark × Nat)
  /-- unit programs under way: handle (0 once the extent is freed), stripe, unit and physical block -/
  programming : List (Nat × Nat × Nat × Nat)
  compacting : Option Nat
  cands : NMap (List (Nat × List Nat))
  colmap : NMap (List Nat)
  shrink : Bool
  forced : Bool
  candidate : BitVec 5
  need : Nat
  ckpt : NMap Nat
  rate : BitVec 2
  held : Bool
  lowv : Bool
  /-- the supply's band asks for wait states that FLS_WAIT does not hold (R235) -/
  bandHeld : Bool
  /-- the flash interface supply as last sampled, in mV (R491) -/
  vccq : Nat
  /-- page reads under way (R231, R234, R242) -/
  reads : List FlashRead
  /-- reads that a bank has served since its last erase pulse (R233) -/
  gapReads : NMap Nat
  /-- blocks whose erase pulse in flight at PWRFAIL_N has completed (R251) -/
  lastPulse : List Nat
  /-- the always-on domain has lost the calendar time since the store last loaded (R244) -/
  timeLost : Bool
  deriving DecidableEq, Repr

/-- A staged or in-flight piece (R267, R268). -/
structure Piece where
  pass : Word
  core : BitVec 4
  /-- where its bytes stand in the ring's partition of shared memory, and how many they are -/
  at_ : Nat
  len : Nat
  taken : Bool
  deriving DecidableEq, Repr

/-- Where the engine stands on one ring of a pass: entry, expert within it, piece within that. -/
structure RingPos where
  entry : Nat
  expert : Nat
  piece : Nat
  deriving DecidableEq, Repr

/-- A pass of a schedule (R264 to R270). `cmd` is none for the run-ahead of the next pass. -/
structure Pass where
  no : Word
  slot : BitVec 3
  sched : BitVec 8
  model : BitVec 5
  gen : Word
  cmd : Option CmdRef
  pos : NMap RingPos
  /-- route records taken, by schedule entry -/
  routes : NMap (List Byte)
  /-- the pass has ended with a status of its own (R508) -/
  failed : Bool
  deriving DecidableEq, Repr

inductive BsSt where
  | empty
  | loading
  | resident
  | active
  deriving DecidableEq, Repr

/-- A bitstream slot (R347 to R354). `copy` says that the system-partition copy is complete. -/
structure Bs where
  st : BsSt
  persist : Bool
  copy : Bool
  model : BitVec 5
  image : List Byte
  /-- pass checks that have held: model, its generation and schedule (R266) -/
  checked : List (BitVec 5 × Word × BitVec 8)
  lastCtx : Option (BitVec 6)
  cqOk : Bool
  /-- step 3 of a switch to this slot: the command it is made for, its place in doorbell order, and the mask of the old slots (R348) -/
  switched : Option (CmdRef × Nat × BitVec 8)
  deriving DecidableEq, Repr

/-- A shared-memory partition in STR_SHM_PARTn (R338, R193). -/
structure Part where
  slot : Option (BitVec 3)
  kind : BitVec 8
  ring : BitVec 8
  base : Nat
  size : Nat
  owner : Option (BitVec 6)
  deriving DecidableEq, Repr

/-- A DRAM request in a channel queue (R314), with the key slot of its access and its arrival in microseconds. Accesses to a
line take effect in the order of their acceptance (R315): a read holds the line as it stood then, `data` with its poison `bad`;
`full` is a read that an entry of the write queue answers, or a write that covers its whole line; `merge` a read that waits for the merge
read of an entry. -/
structure DReq where
  req : Requester
  line : Nat
  key : BitVec 7
  wr : Bool
  us : Nat
  data : List Byte
  bad : Bool
  full : Bool
  merge : Bool
  deriving DecidableEq, Repr

/-- A timing set (R321). -/
structure TSet where
  mode : Word
  lat : Word
  row : Word
  deriving DecidableEq, Repr

/-- The DRAM controller (chapter 12). `fresh` until the first initialisation after a POR; `flip` tells which of the two banks
of lane delays is the active one; `openRow` holds each bank's open row plus one; `lastReq` the time of each channel's last request (R320). -/
structure Dram where
  mem : Ram
  fresh : Bool
  openRow : NMap Nat
  keys : NMap Nat
  ready : Bool
  clearing : Bool
  cleared : NMap Bool
  switching : Bool
  initing : Bool
  mrwDone : Bool
  active : TSet
  shadow : TSet
  flip : Bool
  lanes : NMap Word
  selfRef : BitVec 16
  rq : NMap (List DReq)
  wq : NMap (List DReq)
  drain : BitVec 16
  raa : NMap Nat
  owed : NMap Nat
  mr4 : Nat
  rowCount : NMap Nat
  throttled : List (Nat × Requester)
  laneTotal : NMap Nat
  laneWin : NMap Nat
  lastReq : NMap Nat
  probing : Bool
  /-- lines that patrol has read of each channel since its controller's reset (R312) -/
  patrol : NMap Nat
  /-- the last activation in a bank by a throttled requester, in microseconds (R319) -/
  lastAct : NMap Nat
  /-- the temperature stands outside the active set's band (R325) -/
  bandOut : Bool
  /-- the channels have been READY since power-good (R449, R496) -/
  seen : Bool
  deriving DecidableEq, Repr

/-- Key slot kinds of R429. -/
inductive KeyKind where
  | empty
  | verify
  | context
  | weight
  | ide
  | internal
  deriving DecidableEq, Repr

/-- A key slot (R401, R402). The key is its bytes for a delivered key, and a free identity `ident` for a generated one.
`held` while the session that filled a WEIGHT slot lasts. -/
structure KeySlot where
  kind : KeyKind
  gen : BitVec 16
  key : List Byte
  ident : Nat
  sealed_ : Bool
  session : BitVec 3
  held : Bool
  use : DWord
  keymask : BitVec 8
  deriving DecidableEq, Repr

/-- A sealed blob of the system partition: the ciphertext of a slot's content with its tag, the generation in its associated data, and the
SVN whose sealing key it is under (R413). -/
structure Blob where
  gen : BitVec 16
  svn : Word
  cipher : List Byte
  tag : List Byte
  deriving DecidableEq, Repr

inductive SessSt where
  | none
  | handshake
  | established
  deriving DecidableEq, Repr

/-- The SPDM responder's negotiation state (R404). -/
structure Spdm where
  version : Bool
  caps : Bool
  algs : Bool
  sess : NMap SessSt
  phases : NMap Nat
  deriving DecidableEq, Repr

/-- The security island (chapter 16). `blobs` are the sealed blobs by slot, the first copy at
`slot` and the second at `128 + slot` (R413). -/
structure Sec where
  ready : Bool
  quarantine : Bool
  alarm : Bool
  latched : Bool
  kind : BitVec 3
  erased : Bool
  zeroing : Bool
  sensors : BitVec 5
  slots : NMap KeySlot
  blobs : NMap (Option Blob)
  spdm : Spdm
  ideSecure : Bool
  ideSet : Bool
  destroyWait : Option (BitVec 7)
  idents : Nat
  deriving DecidableEq, Repr

inductive SeqState where
  | off
  | rampUp
  | starting
  | on
  | down
  | emergency
  deriving DecidableEq, Repr

inductive DevState where
  | active
  | background
  | enteringIdle
  | idle
  deriving DecidableEq, Repr

/-- The sequencer and always-on domain (R449 to R456). `groups` is the number of rail groups that are good; `posted` the writes
not yet in effect; `shadow` the management island's copy: PWR_AON_STATUS, CTRL and ALARM, then the calendar's registers. -/
structure Aon where
  supply : Bool
  seq : SeqState
  groups : Nat
  trip : Bool
  clean : Bool
  ext32k : Bool
  wake : Bool
  busy : Bool
  autoOn : Bool
  alarmEn : Bool
  alarm : Word
  shadow : List Word
  onLatched : Bool
  offLatched : Bool
  minOff : Bool
  calSec : BitVec 48
  calFrac : BitVec 15
  calAcc : Nat
  calValid : Bool
  i3cAddr : Option (BitVec 7)
  /-- I3C_ADDR as sampled when VDD_AON became good (R489) -/
  i3cStrap : Bool
  /-- the levels at PG_G1 to PG_G5, bit g of group g (R493) -/
  pg : BitVec 6
  posted : List (Nat × Word)
  /-- the power switches of the DRAM and flash dies are closed (R492) -/
  dramSwitch : Bool
  flashSwitch : Bool
  deriving DecidableEq, Repr

/-- The power governor (R432 to R447). `samples` holds the last 5,000 estimates in mW, newest first; `long` the long average in
2⁻³² mW; `ridgeMw` the last estimates of the ridges; `rampTo` the point a ridge's voltage ramps to; `hot` the pairs of
sensors of neighbouring islands that R435 acts on, hotter first; `heatGated` the logical cores that it gates. -/
structure Pwr where
  dev : DevState
  mode : BitVec 2
  fixed : BitVec 2
  samples : List Nat
  ticks : Nat
  long : Nat
  ridgeMw : List Nat
  temps : NMap (Option Int)
  tempTicks : Nat
  flashTemp : Nat
  crit : Bool
  ctrlHold : Bool
  hot : List (Nat × Nat)
  heatGated : BitVec 16
  ridgePoint : NMap Nat
  rampTo : NMap Nat
  segStretch : BitVec 4
  segGated : BitVec 4
  otherGated : BitVec 16
  /-- an exit event has come in Idle (R445) -/
  exiting : Bool
  deriving DecidableEq, Repr

/-- An Ulirvo port (R382 to R388). -/
structure Port where
  en : Bool
  st : BitVec 3
  width : BitVec 2
  rate16 : Bool
  peer : BitVec 4
  lanes : BitVec 8
  txSeq : BitVec 12
  rxSeq : BitVec 12
  replay : List Flit
  /-- flits that wait for a credit, for room in the replay buffer, or for the end of training -/
  outq : List Waiting
  credits : NMap Nat
  nakSent : Bool
  fails : Nat
  retrain : Bool
  deriving DecidableEq, Repr

/-- A collective (R394, R395): queue slot and record index, the record's bytes, whether it has been matched and whether this
device's own chunk has been sent on, and what has come from each member with its poison: inputs for this device's chunk
under the member's node number (this device's own among them), results under 16 more. `peers` is each member's transfer number, and
`poison` tells that this device's input held poison (R396). -/
structure Coll where
  slot : BitVec 3
  idx : Nat
  record : List Byte
  started : Bool
  sent : Bool
  data : NMap (List Byte)
  flags : NMap (List Bool)
  peers : NMap Nat
  poison : Bool
  deriving DecidableEq, Repr

/-- One event record (R475), kept as its fields. -/
structure EvRec where
  /-- model microseconds at the first occurrence -/
  at_ : Nat
  firstS : Word
  firstF : BitVec 16
  lastD : BitVec 16
  count : BitVec 16
  code : BitVec 16
  source : BitVec 8
  cls : BitVec 8
  status : BitVec 16
  data : List Byte
  seq : Word
  deriving DecidableEq, Repr

/-- The event recorder (R475 to R482): records newest first. -/
structure Evt where
  ring : List EvRec
  head : Word
  ack : Word
  flushed : Word
  log : List EvRec
  logAck : Word
  gone : Bool
  below : Bool
  flushGo : Bool
  deriving DecidableEq, Repr

/-- A firmware image by its header (R471). -/
structure Fw where
  target : Bool
  svn : Word
  version : Word
  bytes : List Byte
  deriving DecidableEq, Repr

/-- Error handling outside the cores (R461 to R473). -/
structure Ras where
  deviceFault : Bool
  /-- the self-test of an FLR after a DEVICE fault has failed (R470) -/
  flrFailed : Bool
  shmCe : Nat
  shmActed : Bool
  tags : List (BitVec 16 × BitVec 4)
  orphans : List (BitVec 16)
  mcRun : Fw
  mcPrev : Option Fw
  siRun : Fw
  siPrev : Option Fw
  /-- the staging areas, the image staged last first; at most one of each target (R472) -/
  staged : List Fw
  pendingSi : Option Fw
  mcRestarts : List Nat
  fwData : Option HostRead
  deriving DecidableEq, Repr

/-- The TAP and the straps (R489, R502): TEST_MODE as sampled and at its ball, I3C_ADDR tied high, the instruction, the boundary
register's update cells, and the TST register that the last TST_ACCESS named. -/
structure Tap where
  testMode : Bool
  strap : Bool
  i3cHigh : Bool
  ir : BitVec 8
  preload : List Bool
  last : BitVec 16
  deriving DecidableEq, Repr

/-- One lane's checker (R503): what it had counted before it locked last, when that was, in microseconds, and the draw by which its free
values go. -/
structure Checker where
  lock : Bool
  bits : Nat
  errs : Nat
  since : Nat
  draw : Nat
  deriving DecidableEq, Repr

/-- The pattern generators and checkers (R503 to R505). The duration counts from microsecond `countAt` while `counting`. -/
structure Tst where
  running : Bool
  counting : Bool
  countAt : Nat
  iface : BitVec 3
  group : BitVec 8
  all : Bool
  lanes : NMap Checker
  deriving DecidableEq, Repr

/-- The PCI Express function outside BAR0 (R355, R380, R496): the link, the level of PERST_N (`perst` while it is asserted), the
sticky AER bit of an uncorrectable internal error, and the pending bits of MSI-X. -/
structure Pcie where
  linkUp : Bool
  perst : Bool
  /-- the device asserts CLKREQ_N (R497) -/
  clkreq : Bool
  aer : Bool
  rate : BitVec 4
  width : BitVec 4
  pba : NMap Bool
  /-- what configuration writes have set, by offset: the BARs, Command, Device Control (R355, R356); no row of the table writes them -/
  cfg : NMap Word
  deriving DecidableEq, Repr

/-- The work of a Wringer unit: nothing, the current block of a core's port, or a granule for a ring of a bitstream slot (R297,
R298). -/
inductive WrgJob where
  | idle
  | port (core : BitVec 4)
  | stream (slot : BitVec 3) (ring : BitVec 4) (granule : Nat)
  deriving DecidableEq, Repr

/-- The Wringer units (R297, R298). -/
structure Wrg where
  /-- the core last served, from which the round-robin goes on -/
  lastCore : BitVec 4
  /-- what each of the 8 units holds (R297) -/
  units : NMap WrgJob
  deriving DecidableEq, Repr

/-- What the device sends out of itself, newest first: completion data of a read, posted writes to host memory,
MSI-X messages, answers on the sideband buses, bits on TDO, flits; `balls` is what the TAP makes of the boundary cells. -/
inductive Out where
  | read (data : List Byte) (poisoned : Bool)
  | hostWrite (addr : Nat) (data : List Byte)
  | hostRead (addr : Nat) (len : Nat)
  | msix (vec : Nat)
  | aerInternal
  | alert (on : Bool)
  | thermtrip
  | spdm (code : Nat) (data : List Byte)
  | i3c (data : List Byte)
  | tdo (bits : List Bool)
  | flit (port : BitVec 2) (f : Flit)
  | railEnable (group : Nat) (on : Bool)
  /-- a power switch on the compute die, of the rails of a group, closes or opens (R492) -/
  | powerSwitch (group : Nat) (closed : Bool)
  /-- a signal to the management controller, by the code of the event that it goes with (R325, R326) -/
  | mgmtSignal (code : Nat)
  | balls (mode : BitVec 8) (cells : List Bool)
  /-- a transmit lane sends a pattern from a register (R503) -/
  | prbs (lane pattern : Nat) (start : BitVec 31)
  /-- CLKREQ_N is asserted or let go (R489, R497) -/
  | clkreq (on : Bool)
  deriving DecidableEq, Repr

/-- The part's fuses (R4, R23 to R25). `mask` is the enabled positions, `verifyKey` the public key of slot 0 (R401);
`badBlocks` lists, without repeats, the flash blocks that production test retired (R225), by die, bank and block. -/
structure Fuses where
  grade : BitVec 2
  mask : BitVec 16
  stepping : BitVec 8
  verifyKey : List Byte
  /-- the unique device secret, which the ROM locks (R405) -/
  secret : List Byte
  badBlocks : List Nat
  deriving DecidableEq, Repr

/-- Why the device stops. No command of this model faults: every happening of the manual leaves a next state. -/
inductive Fault where
  /-- Raised by no meaning: kept so that the type is inhabited. Safe. -/
  | impossible
  deriving DecidableEq, Repr

/-- Why a command has no meaning. -/
inductive Refusal where
  /-- Raised by exec for a row without a meaning. Safe: nothing can be proved of its effect. -/
  | notModelled (mnemonic : String)
  deriving DecidableEq, Repr

/-- The whole device. `regs` holds every BAR0 register whose value is not a view of another field, by offset and bank;
`latch` the registers of R510; `us` the model's elapsed microseconds; `draws` the free values drawn so far. -/
structure State where
  pending : List Instr
  fuses : Fuses
  regs : NMap Word
  latch : NMap Word
  us : Nat
  draws : Nat
  cores : NMap Core
  chans : NMap Chan
  shm : Ram
  /-- the granule of shared memory that patrol reads next (R191) -/
  shmPatrol : Nat
  parts : NMap Part
  cmds : List Cmd
  orders : Nat
  ctxs : NMap Ctx
  spools : NMap Spool
  seqs : NMap Seq
  pages : NMap PageInfo
  used : NMap Nat
  models : NMap Model
  /-- granules of host regions: asked for (`some []`) or here -/
  hostGran : NMap (Option (List Byte))
  store : Store
  passes : List Pass
  passNo : Word
  rings : NMap (List Piece)
  bs : NMap Bs
  dram : Dram
  sec : Sec
  aon : Aon
  pwr : Pwr
  ports : NMap Port
  colls : List Coll
  evt : Evt
  ras : Ras
  tap : Tap
  tst : Tst
  pcie : Pcie
  wrg : Wrg
  outbox : List Out
  deriving DecidableEq, Repr

def Ram.zero : Ram := { cells := [], poison := [], ecc := [] }
def UnitSt.none : UnitSt := { pend := [], usigs := [], flights := [], wait := false }
def AccCell.zero : AccCell := { a := 0, stack := [], sat := false }
def Tile.idle : Tile := { st := .idle, f32 := false, m := 0, n := 0 }

/-- Every unit is free (R302). -/
def Wrg.reset : Wrg := { lastCore := 0, units := [] }

/-- A core with every field at the value of R66, R115, R137, R171 and R196. -/
def Core.reset : Core :=
  { run := false, cmd := none, pc := 0, peer := false, front := .stopped, g := [], pendingG := [], slds := [], tacks := 1, sat := false,
    v := [], tiles := [], acc := [], cmem := .zero, bufA := .zero, bufB := .zero, bufD := .zero,
    imem := [], imemLen := 0, slot := none, packing := 0, bind := 0, micro := [], mtable := [],
    mat := .none, mgl := .none, vec := .none, dma := .none, wrg := .none, nextSn := 0, owner := none, code := none,
    beats := 0, blocks := 0, fence := .inService, faultStep := 0, faultTimes := [], retest := false, gated := false,
    point := 0, stretch := false, ceWindow := 0, ceActed := false, orphans := 0, grants := [0, 0, 0, 0], wrote := [], patrol := 0 }

def Chan.reset : Chan :=
  { slot := none, kind := 0, scope := 0, mask := 0, src := 0, len := 0, arrived := 0, sys := 0, from_ := [],
    sysSent := false, cancelled := false, data := [] }

def Ctx.reset : Ctx :=
  { en := false, cls := false, admin := false, sealed_ := false, hostrw := false, idereq := false,
    ulink := false }

def Spool.reset : Spool :=
  { en := false, halted := false, fetchErr := false, log2 := 0, cmdLo := 0, cmdHi := 0, cplLo := 0, cplHi := 0,
    head := 0, tail := 0, phase := true, doors := [] }

def Seq.free : Seq :=
  { st := .free, ctx := 0, pool := 0, v := 0, streams := 0, pref := 0, maxrows := 0, table := 0, rows := [], host := 0, img := 0,
    busy := none }

def PageInfo.none : PageInfo := { cls := 0, refs := 0, pins := [], ctx := 0 }

def Model.free : Model :=
  { st := .free, evicted := false, variant := false, base := 0, layers := [], gen := 0, use := 0,
    mir := [], diffs := [], hbase := 0, hsize := 0, old := [], patch := none, loader := none }

def Extent.none : Extent := { st := .free, model := 0, stripes := [], lastRead := 0 }
def Codeword.none : Codeword := { data := [], pad := false, programmed := false, bad := false, seq := 0 }
def Blk.fresh : Blk :=
  { st := .free, row := 0, slot := 0, wl := 0, pe := 0, pulses := 0, born := 0, segs := [],
    copyTo := none, retire := none }
def FRow.empty : FRow := { st := .empty, next := 0, map := [] }

/-- The weight store of a new part (R224, R225, R252); blocks at their fresh state are not listed. -/
def Store.fresh : Store :=
  { ready := false, saved := true, blks := [], rows := [], exts := [], cws := [], nextSeq := 0, dataRow := none, compRow := none,
    capRows := 192, marks := [], programming := [], compacting := none, cands := [], colmap := [], shrink := false,
    forced := false, candidate := 0, need := 0, ckpt := [], rate := 0, held := false, lowv := false,
    bandHeld := false, vccq := 900, reads := [], gapReads := [], lastPulse := [], timeLost := false }

def Pass.none : Pass :=
  { no := 0, slot := 0, sched := 0, model := 0, gen := 0, cmd := Option.none, pos := [], routes := [], failed := false }

def Bs.empty : Bs :=
  { st := .empty, persist := false, copy := false, model := 0, image := [], checked := [], lastCtx := none, cqOk := false,
    switched := none }

def Part.free : Part := { slot := none, kind := 0, ring := 0, base := 0, size := 0, owner := none }

/-- RATE resets to 0b100 in bits [30:28] (R328). -/
def TSet.reset : TSet := { mode := 0x4000_0000#32, lat := 0, row := 0 }

def Dram.reset : Dram :=
  { mem := .zero, fresh := true, openRow := [], keys := [], ready := false, clearing := false, cleared := [], switching := false, initing := false,
    mrwDone := false, active := .reset, shadow := .reset, flip := false, lanes := [], selfRef := 0, rq := [], wq := [],
    drain := 0, raa := [], owed := [], mr4 := 1, rowCount := [], throttled := [], laneTotal := [], laneWin := [],
    lastReq := [], probing := false, patrol := [], lastAct := [], bandOut := false, seen := false }

def KeySlot.empty : KeySlot :=
  { kind := .empty, gen := 0, key := [], ident := 0, sealed_ := false, session := 0, held := false, use := 0, keymask := 0 }

def Spdm.reset : Spdm := { version := false, caps := false, algs := false, sess := [], phases := [] }

/-- Slot 0 holds Aelsal's verification key from fuses (R401). -/
def Sec.reset : Sec :=
  { ready := false, quarantine := false, alarm := false, latched := false, kind := 0, erased := false, zeroing := false,
    sensors := 0, slots := [(0, { KeySlot.empty with kind := .verify, session := 7 })], blobs := [], spdm := .reset,
    ideSecure := false, ideSet := false, destroyWait := none, idents := 2 }

/-- The always-on domain when its supply is good: sequencer OFF, AUTO_ON 1, calendar at 0 and not valid (R457, R478). -/
def Aon.reset : Aon :=
  { supply := true, seq := .off, groups := 0, trip := false, clean := false, ext32k := false, wake := false, busy := false,
    autoOn := true, alarmEn := false, alarm := 0, shadow := [], onLatched := false, offLatched := false, minOff := false,
    calSec := 0, calFrac := 0, calAcc := 0, calValid := false, i3cAddr := none, i3cStrap := false, pg := 0, posted := [], dramSwitch := false,
    flashSwitch := false }

def Pwr.reset : Pwr :=
  { dev := .active, mode := 1, fixed := 0, samples := [], ticks := 0, long := 0, ridgeMw := [], temps := [], tempTicks := 0,
    flashTemp := 0, crit := false, ctrlHold := false, hot := [], heatGated := 0, ridgePoint := [], rampTo := [], segStretch := 0,
    segGated := 0, otherGated := 0, exiting := false }

def Port.reset : Port :=
  { en := false, st := 0, width := 0, rate16 := false, peer := 0, lanes := 0, txSeq := 0, rxSeq := 0, replay := [], outq := [],
    credits := [], nakSent := false, fails := 0, retrain := false }

def Evt.empty : Evt :=
  { ring := [], head := 0, ack := 0, flushed := 0, log := [], logAck := 0, gone := false, below := true, flushGo := false }

def Fw.shipped (target : Bool) : Fw := { target := target, svn := 0, version := 0, bytes := [] }

def Ras.reset : Ras :=
  { deviceFault := false, flrFailed := false, shmCe := 0, shmActed := false, tags := [], orphans := [], mcRun := .shipped false, mcPrev := none,
    siRun := .shipped true, siPrev := none, staged := [], pendingSi := none, mcRestarts := [], fwData := none }

/-- IDCODE is the instruction after a TAP reset, as IEEE 1149.1 has it for a part with an identity register (R502). -/
def Tap.reset : Tap := { testMode := false, strap := false, i3cHigh := false, ir := 1, preload := [], last := 0 }

def Tst.reset : Tst := { running := false, counting := false, countAt := 0, iface := 0, group := 0, all := false, lanes := [] }
def Checker.reset : Checker := { lock := false, bits := 0, errs := 0, since := 0, draw := 0 }

def Pcie.reset : Pcie :=
  { linkUp := false, perst := true, clkreq := false, aer := false, rate := 0, width := 0, pba := [], cfg := [] }

/-- The device with every register at its Reset column: the always-on supply good, the main rails off. -/
def State.reset : State :=
  { pending := [],
    fuses := { grade := 0, mask := 0xFFFF, stepping := 0, verifyKey := (List.range 96).map Config.fuseKeyByte,
               secret := (List.range 32).map Config.fuseSecretByte, badBlocks := [] },
    regs := [], latch := [], us := 0, draws := 0,
    cores := [], chans := [], shm := .zero, shmPatrol := 0, parts := [], cmds := [], orders := 0,
    ctxs := [(0, { Ctx.reset with admin := true })], spools := [], seqs := [], pages := [], used := [], models := [],
    hostGran := [], store := .fresh, passes := [], passNo := 0, rings := [], bs := [], dram := .reset, sec := .reset,
    aon := .reset, pwr := .reset, ports := [], colls := [], evt := .empty, ras := .reset, tap := .reset, tst := .reset,
    pcie := .reset, wrg := .reset, outbox := [] }

end Sys2Proof.Machine
end

