-- ==== Sys2Proof/Machine/Ops.lean ====
section
/-! DEFINITION. Named operations over the state: bit fields and bytes, the tables, registers, free values, interrupt
vectors and the event recorder. -/

namespace Sys2Proof.Machine

/-! ### Bits and bytes (R7) -/

/-- Bits `lo` to `lo + n - 1` of a word as a number. -/
def getBits (w : Word) (lo n : Nat) : Nat := w.toNat / 2 ^ lo % 2 ^ n
def bitOf (w : Word) (i : Nat) : Bool := w.getLsbD i
/-- The word with bits `lo` to `lo + n - 1` replaced. -/
def putBits (w : Word) (lo n : Nat) (v : Nat) : Word :=
  let m := BitVec.ofNat 32 ((2 ^ n - 1) * 2 ^ lo)
  (w &&& ~~~m) ||| (BitVec.ofNat 32 (v * 2 ^ lo) &&& m)
def w32 (n : Nat) : Word := BitVec.ofNat 32 n
def boolNat (b : Bool) : Nat := if b then 1 else 0

/-- Little-endian bytes as a number. -/
def leNat : List Byte → Nat
  | [] => 0
  | b :: t => b.toNat + 256 * leNat t

/-- The low `n` bytes of a number, little-endian. -/
def toLE : Nat → Nat → List Byte
  | 0, _ => []
  | n + 1, v => BitVec.ofNat 8 v :: toLE n (v / 256)

/-- The `len` bytes at `off` of a byte string, zero beyond its end. -/
def bytesAt (bs : List Byte) (off len : Nat) : List Byte :=
  let x := (bs.drop off).take len
  x ++ List.replicate (len - x.length) 0

/-- The number at `off` of a byte string. -/
def leAt (bs : List Byte) (off len : Nat) : Nat := leNat (bytesAt bs off len)
def byteAt (bs : List Byte) (off : Nat) : Nat := (bs.getD off 0).toNat
def allZero (bs : List Byte) : Bool := bs.all (fun b => b = 0#8)
def padTo (n : Nat) (bs : List Byte) : List Byte := bytesAt bs 0 n

/-! ### Tables of the state -/

def State.core (s : State) (n : Nat) : Core := nget Core.reset s.cores n
def State.setCore (s : State) (n : Nat) (k : Core) : State := { s with cores := nset Core.reset s.cores n k }
def State.modCore (s : State) (n : Nat) (f : Core → Core) : State := s.setCore n (f (s.core n))
def State.chan (s : State) (n : Nat) : Chan := nget Chan.reset s.chans n
def State.setChan (s : State) (n : Nat) (k : Chan) : State := { s with chans := nset Chan.reset s.chans n k }
def State.part (s : State) (n : Nat) : Part := nget Part.free s.parts n
def State.setPart (s : State) (n : Nat) (k : Part) : State := { s with parts := nset Part.free s.parts n k }
def State.ctx (s : State) (n : Nat) : Ctx := nget Ctx.reset s.ctxs n
def State.setCtx (s : State) (n : Nat) (k : Ctx) : State := { s with ctxs := nset Ctx.reset s.ctxs n k }
def State.spool (s : State) (c p : Nat) : Spool := nget Spool.reset s.spools (8 * c + p)
def State.setSpool (s : State) (c p : Nat) (k : Spool) : State :=
  { s with spools := nset Spool.reset s.spools (8 * c + p) k }
def State.seq (s : State) (n : Nat) : Seq := nget Seq.free s.seqs n
def State.setSeq (s : State) (n : Nat) (k : Seq) : State := { s with seqs := nset Seq.free s.seqs n k }
def State.model (s : State) (n : Nat) : Model := nget Model.free s.models n
def State.setModel (s : State) (n : Nat) (k : Model) : State := { s with models := nset Model.free s.models n k }
def State.bsSlot (s : State) (n : Nat) : Bs := nget Bs.empty s.bs n
def State.setBs (s : State) (n : Nat) (k : Bs) : State := { s with bs := nset Bs.empty s.bs n k }
def State.port (s : State) (n : Nat) : Port := nget Port.reset s.ports n
def State.setPort (s : State) (n : Nat) (k : Port) : State := { s with ports := nset Port.reset s.ports n k }
def State.keySlot (s : State) (n : Nat) : KeySlot := nget KeySlot.empty s.sec.slots n
def State.setKeySlot (s : State) (n : Nat) (k : KeySlot) : State :=
  { s with sec := { s.sec with slots := nset KeySlot.empty s.sec.slots n k } }
def State.emit (s : State) (o : Out) : State := { s with outbox := o :: s.outbox }

/-! ### Registers -/

def State.reg (s : State) (off : Nat) : Word := nget (resetOf off) s.regs off
def State.setReg (s : State) (off : Nat) (v : Word) : State := { s with regs := nset (resetOf off) s.regs off v }
def State.latched (s : State) (off : Nat) : Word := nget 0 s.latch off
def State.setLatch (s : State) (off : Nat) (v : Word) : State := { s with latch := nset 0 s.latch off v }
/-- A counter field that rises by `n` and stays at its top. -/
def satField (w : Word) (lo n add : Nat) : Word := putBits w lo n (min (2 ^ n - 1) (getBits w lo n + add))
def State.bump (s : State) (off lo n add : Nat) : State := s.setReg off (satField (s.reg off) lo n add)
/-- BAR0 offset of a register in a core's block (R3). -/
def coreOff (c off : Nat) : Nat := 0x100000 + c * 0x10000 + off

/-- What a write does to a register's bits (R11, R10). -/
def RegInfo.written (r : RegInfo) (old val : Word) : Word :=
  let a := (old &&& ~~~r.rw) ||| (val &&& r.rw)
  (a &&& ~~~(val &&& r.w1c)) ||| (val &&& r.w1s)

/-! ### Free values (log entry 1) -/

/-- A free value of a width, and the state that has drawn it. -/
def State.drawBits (s : State) (w : Nat) : BitVec w × State :=
  (Config.freeBits w s.draws, { s with draws := s.draws + 1 })
def State.drawBytes (s : State) (n : Nat) : List Byte × State :=
  ((List.range n).map (Config.freeByte s.draws), { s with draws := s.draws + 1 })

/-! ### Cores of the part (R2, R23, R24) -/

/-- The enabled physical positions, rising. -/
def State.positions (s : State) : List Nat := (List.range 16).filter (fun p => s.fuses.mask.getLsbD p)
def State.coreCount (s : State) : Nat := s.positions.length
/-- The ridge of a logical core. -/
def State.ridge (s : State) (n : Nat) : Nat := (s.positions.getD n 0) / 4
def State.ridgeCores (s : State) (r : Nat) : List Nat := (List.range s.coreCount).filter (fun n => s.ridge n = r)

/-! ### Vectors (R375) -/

def msixCtl (v : Nat) : Nat := 0x1800C + 16 * v
/-- Signal a vector: a masked one sets its pending bit, an unmasked one is sent. -/
def State.signal (s : State) (v : Nat) : State :=
  if bitOf (s.reg (msixCtl v)) 0 then { s with pcie := { s.pcie with pba := nset false s.pcie.pba v true } }
  else s.emit (.msix v)

/-! ### Status codes (R17, R18) -/

def stOk : Nat := 0
def stDiscarded : Nat := 1
def stPoisoned : Nat := 2
def stUncorrectable : Nat := 3
def stWriteOnce : Nat := 4
def stBounds : Nat := 5
def stKey : Nat := 6
def stFenced : Nat := 7
def stTimeout : Nat := 8
def stSaturated : Nat := 9
def stCapacity : Nat := 10
def stTamper : Nat := 11
def stBitstream : Nat := 12
def stAborted : Nat := 13
def stClass : Nat := 14

/-- The precedence number of a code. -/
def precedence (code : Nat) : Nat := [15, 3, 12, 11, 9, 8, 7, 2, 13, 14, 10, 1, 6, 4, 5].getD code 0

/-- The code with the lower precedence number. -/
def worse (a b : Nat) : Nat := if precedence b < precedence a then b else a

/-- The code that several conditions of one operation report (R18). -/
def worst (codes : List Nat) : Nat := codes.foldl worse stOk

/-- The codes of Table 5 that do not mean that results are valid (R17, R19). -/
def failCodes : List Nat :=
  [stDiscarded, stPoisoned, stUncorrectable, stWriteOnce, stBounds, stKey, stFenced, stTimeout, stCapacity, stTamper, stBitstream,
   stAborted, stClass]

/-- A failure whose code the spec does not give: a free one among those of Table 5. -/
def State.drawFail (s : State) : Nat × State :=
  let d := s.drawBits 16
  (failCodes.getD (d.1.toNat % failCodes.length) stAborted, d.2)

/-! ### The event recorder (R460, R461, R475, R476, R479) -/

def srcHif : Nat := 0x10
def srcMgt : Nat := 0x11
def srcPwr : Nat := 0x12
def srcDrm : Nat := 0x14
def srcFls : Nat := 0x15
def srcStr : Nat := 0x16
def srcKvp : Nat := 0x17
def srcSec : Nat := 0x19
def srcUlk : Nat := 0x1A
def srcEvt : Nat := 0x1B
def srcRas : Nat := 0x1C
def srcAon : Nat := 0x1D

/-- A register copy in the data of a record. -/
def regCopy (value : Word) (off : Nat) : List Byte := toLE 4 value.toNat ++ toLE 4 off

def EvRec.same (r : EvRec) (code src status : Nat) (data : List Byte) : Bool :=
  r.code.toNat = code && r.source.toNat = src && r.status.toNat = status && r.data = data

/-- The nearest of the newest `k` records that equals an event has its count and time raised; none where none equals it. -/
def mergeEvent (ring : List EvRec) (k : Nat) (us : Nat) (code src status : Nat) (data : List Byte) : Option (List EvRec) :=
  match k, ring with
  | 0, _ => none
  | _, [] => none
  | k + 1, r :: t =>
    if r.same code src status data then
      some ({ r with count := BitVec.ofNat 16 (min 0xFFFF (r.count.toNat + 1)),
                     lastD := BitVec.ofNat 16 (min 65535 ((us - r.at_) / 1000000)) } :: t)
    else (mergeEvent t k us code src status data).map (r :: ·)

/-- Whether a sequence number lies after the acknowledged one and at or before the newest. -/
def Evt.unacked (e : Evt) (seq : Word) : Bool :=
  decide (1 ≤ (seq - e.ack).toNat) && decide ((seq - e.ack).toNat ≤ (e.head - e.ack).toNat)

/-- HEAD - ACK has reached THRESH. -/
def State.evtFull (s : State) : Bool := decide (getBits (s.reg 0xC0000) 0 12 ≤ (s.evt.head - s.evt.ack).toNat)

/-- Vector 2 when HEAD - ACK reaches THRESH, once until an acknowledgement brings it below (R479). -/
def State.evtThreshold (s : State) : State :=
  if s.evtFull && s.evt.below then ({ s with evt := { s.evt with below := false } }).signal 2
  else s

/-- A new record, over the oldest of 2,048 (R476). -/
def State.pushRecord (s : State) (code src cls status : Nat) (data : List Byte) : State :=
  let e := s.evt
  let lost := decide (2048 ≤ e.ring.length) && (match e.ring.getLast? with | some r => e.unacked r.seq | none => false)
  let seq := e.head + 1
  let r : EvRec :=
    { at_ := s.us, firstS := BitVec.ofNat 32 s.aon.calSec.toNat,
      firstF := BitVec.ofNat 16 (s.aon.calFrac.toNat + (if s.aon.calValid then 0x8000 else 0)),
      lastD := 0, count := 1, code := BitVec.ofNat 16 code, source := BitVec.ofNat 8 src, cls := BitVec.ofNat 8 cls,
      status := BitVec.ofNat 16 status, data := data, seq := seq }
  let s1 := { s with evt := { e with ring := r :: e.ring.take 2047, head := seq } }
  let s2 := if lost then s1.bump 0xC0014 0 32 1 else s1
  s2.evtThreshold

/-- The bit of RAS_STATUS for a class (R461). -/
def classBit (cls : Nat) : Word :=
  match cls with
  | 1 => 0x08000000#32
  | 2 => 0x10000000#32
  | 3 => 0x20000000#32
  | 4 => 0x40000000#32
  | _ => 0

/-- Write an event record: merged into one of the 8 newest or new, with the class's bit of RAS_STATUS and vector 1
for classes 2 to 5 (R461, R476). -/
def State.record (s : State) (code src cls status : Nat) (data : List Byte) : State :=
  let d := padTo 12 data
  let s1 := match mergeEvent s.evt.ring 8 s.us code src status d with
    | some ring => { s with evt := { s.evt with ring := ring } }
    | none => s.pushRecord code src cls status d
  let s2 := s1.setReg 0xD0000 (s1.reg 0xD0000 ||| classBit cls)
  let s3 := if cls = 5 then { s2 with ras := { s2.ras with deviceFault := true } } else s2
  if 2 ≤ cls ∧ cls ≤ 5 then s3.signal 1 else s3

/-- Set a fault record register unless it is VALID already (R11). -/
def State.setRecord (s : State) (off : Nat) (v : Word) : State :=
  if bitOf (s.reg off) 31 then s else s.setReg off (v ||| 0x80000000#32)

/-! ### Commands -/

/-- The point whose voltage a ridge holds; a ramp that was under way ends (R433, R434). -/
def State.modPwrPoint (s : State) (r p : Nat) : State :=
  { s with pwr := { s.pwr with ridgePoint := nset 0 s.pwr.ridgePoint r p, rampTo := nset 0 s.pwr.rampTo r 0 } }

/-- The counter of a core's stretched cycles (R437, R458). -/
def clkStretch (c : Nat) : Nat := 0x1100300 + 4 * c

/-- A core takes a point. Stretching is off at P0 (R437): a stretch ends there, after a free number of cycles. -/
def State.movePoint (s : State) (n p : Nat) : State :=
  let k := s.core n
  let s1 := s.setCore n { k with point := p, stretch := k.stretch && decide (0 < p) }
  if k.stretch && p = 0 then ({ s1 with draws := s1.draws + 1 }).bump (clkStretch n) 0 32 (Config.freeNat s.draws) else s1

/-- The device drives CLKREQ_N (R497). -/
def State.driveClkreq (s : State) (on : Bool) : State :=
  if s.pcie.clkreq = on then s else ({ s with pcie := { s.pcie with clkreq := on } }).emit (.clkreq on)

/-- An exit event of R445: it stops an entry to Idle at once, and in Idle the way out begins with CLKREQ_N (R444, R497). -/
def State.exitIdle (s : State) : State :=
  match s.pwr.dev with
  | .enteringIdle => { s with pwr := { s.pwr with dev := .active } }
  | .idle => ({ s with pwr := { s.pwr with exiting := true } }).driveClkreq true
  | _ => s

/-- ALERT_N is asserted: an unmasked bit of PWR_EVT is set (R457). -/
def State.alertOn (s : State) : Bool := (s.reg 0x3002C &&& ~~~(s.reg 0x30030) &&& 0x7F#32) ≠ 0
/-- ALERT_N follows PWR_EVT and its mask. -/
def State.alertEdge (before after : State) : State :=
  if before.alertOn = after.alertOn then after else after.emit (.alert after.alertOn)

def State.cmd? (s : State) (r : CmdRef) : Option Cmd := s.cmds.find? (fun k => k.ref = r)
/-- The earliest fetched of the commands with an identity: a driver that breaks R361 can have one index fetched twice. -/
def modFirst (r : CmdRef) (f : Cmd → Cmd) : List Cmd → List Cmd
  | [] => []
  | k :: t => if k.ref = r then f k :: t else k :: modFirst r f t
def State.modCmd (s : State) (r : CmdRef) (f : Cmd → Cmd) : State := { s with cmds := modFirst r f s.cmds }

/-- One microsecond of model time on an empty queue: the calendar runs at 32,768 counts a second (R455; log entry 2). -/
def calTick (a : Aon) : Aon :=
  let acc := a.calAcc + 32768
  if acc < 1000000 then { a with calAcc := acc }
  else if a.calFrac.toNat = 32767 then { a with calAcc := acc - 1000000, calFrac := 0, calSec := a.calSec + 1 }
  else { a with calAcc := acc - 1000000, calFrac := a.calFrac + 1 }

def idleTick (s : State) : State :=
  { s with us := s.us + 1, aon := if s.aon.supply then calTick s.aon else s.aon }

end Sys2Proof.Machine
end

