-- ==== Sys2Proof/Machine/Flits.lean ====
section
/-! DEFINITION. Sending over Ulirvo Link (R382 to R385, R389): nodes and routes, flits, credits and the replay buffer, and the COL flits of
a system channel (R390). -/

namespace Sys2Proof.Machine

def maskCores (m : BitVec 16) : List Nat := (List.range 16).filter (fun n => m.getLsbD n)

/-! ### Nodes and routes (R389) -/

def State.node (s : State) : Nat := getBits (s.reg 0xB0000) 0 4
def State.routeReg (s : State) (dst : Nat) : Word := s.reg (0x1100000 + 4 * dst)
/-- The first-hop ports toward a node, rising, and the dateline ports. -/
def State.hops (s : State) (dst : Nat) : List Nat := (List.range 4).filter (fun p => bitOf (s.routeReg dst) p)
def State.dateline (s : State) (dst p : Nat) : Bool := bitOf (s.routeReg dst) (4 + p)
def State.members (s : State) (ch : Nat) : BitVec 16 := BitVec.ofNat 16 (s.reg (0x1100100 + 4 * ch)).toNat
def nodesOf (m : BitVec 16) : List Nat := maskCores m
/-- The root of a channel's members: the lowest node (R390). -/
def rootOf (m : BitVec 16) : Nat := (nodesOf m).headD 0
def nodeBit (n : Nat) : BitVec 16 := BitVec.ofNat 16 (2 ^ n)

/-! ### Sending (R383 to R385) -/

def Flit.zero : Flit :=
  { seq := 0, ack := 0, crvc := 0, credits := 0, typ := 0, vc := 0, dst := 0, src := 0, len := 0, xfer := 0, poison := false, offset := 0,
    payload := List.replicate 112 0 }

/-- The 128 bytes of a flit on the wire (Table 2 of R382): the link word, the header, the payload and the CRC over bytes 0 to 123. -/
def Flit.bytes (f : Flit) : List Byte :=
  let body := toLE 4 (f.seq.toNat + 2 ^ 12 * f.ack.toNat + 2 ^ 24 * f.crvc.toNat + 2 ^ 26 * f.credits.toNat) ++
    toLE 8 (f.typ.toNat + 2 ^ 4 * f.vc.toNat + 2 ^ 6 * f.dst.toNat + 2 ^ 10 * f.src.toNat + 2 ^ 14 * f.len.toNat +
      2 ^ 21 * f.xfer.toNat + 2 ^ 31 * boolNat f.poison + 2 ^ 32 * f.offset.toNat) ++ (padTo 112 f.payload).take 112
  body ++ toLE 4 (crc32c body)

/-- The link word of a port's next flit acknowledges the last flit received in order. -/
def Port.acked (p : Port) (f : Flit) : Flit := { f with ack := p.rxSeq - 1 }

/-- The IDLE flit that acknowledges and returns credits of a pool. -/
def ackFlit (p : Port) (pool credits : Nat) : Flit :=
  p.acked { Flit.zero with crvc := BitVec.ofNat 2 pool, credits := BitVec.ofNat 6 credits }

/-- A flit leaves the buffer place that it held: its credit goes back to the peer that sent it (R385). -/
def State.creditBack (s : State) : Option (BitVec 2 × BitVec 2) → State
  | none => s
  | some (q, pool) => if (s.port q.toNat).st = 2 then s.emit (.flit q (ackFlit (s.port q.toNat) pool.toNat 1)) else s

/-- The places of a port's receive buffers that flits in hand still hold (R385). -/
def State.rxHeld (s : State) (q pool : Nat) : Nat :=
  ((List.range 4).map (fun n => ((s.port n).outq.filter (fun w => w.holds = some (BitVec.ofNat 2 q, BitVec.ofNat 2 pool))).length)).foldl (· + ·) 0

/-- The buffer pool that a flit takes: CRVC's numbering. -/
def poolOfFlit (f : Flit) : Nat := if f.typ = 2 then 3 else if f.vc.toNat = 0 then 0 else f.vc.toNat
def Port.creditsOf (p : Port) (pool : Nat) : Nat := nget 0 p.credits pool
/-- Credits set by training: the peer's buffers. -/
def fullCredits : NMap Nat := [(0, 16), (1, 128), (2, 128), (3, 16)]

/-- One waiting flit is sent where its credit and the replay buffer permit; the rest of its pool waits behind it. -/
def sendOne (n : Nat) (acc : State × Port × List Waiting) (w : Waiting) : State × Port × List Waiting :=
  let (s, p, left) := acc
  let pool := poolOfFlit w.flit
  if p.creditsOf pool = 0 || decide (256 ≤ p.replay.length) || left.any (fun g => poolOfFlit g.flit = pool) then (s, p, left ++ [w])
  else
    let g := p.acked { w.flit with seq := p.txSeq }
    ((s.emit (.flit (BitVec.ofNat 2 n) g)).creditBack w.holds,
     { p with txSeq := p.txSeq + 1, replay := p.replay ++ [g], credits := nset 0 p.credits pool (p.creditsOf pool - 1) }, left)

/-- Everything that can be sent is sent, VC0 first. -/
def State.pump (s : State) (n : Nat) : State :=
  let p := s.port n
  let order := p.outq.filter (fun w => w.flit.vc = 0) ++ p.outq.filter (fun w => w.flit.vc ≠ 0)
  let r := order.foldl (sendOne n) (s, p, [])
  r.1.setPort n { r.2.1 with outq := r.2.2 }

/-- A flit for a port: it waits for the end of training; a port that is DISABLED, DOWN or MISWIRED carries none. -/
def State.sendOn (s : State) (n : Nat) (w : Waiting) : State :=
  let p := s.port n
  let s1 := s.setPort n { p with outq := p.outq ++ [w] }
  if p.st = 2 then s1.pump n else if p.st = 1 then s1 else s.creditBack w.holds

/-- A flit leaves by its route entry: VC0 by the lowest port, DATA of chunk k by the (k mod c)-th, over the dateline on VC2. -/
def State.sendFrom (s : State) (f : Flit) (k : Nat) (holds : Option (BitVec 2 × BitVec 2)) : State :=
  let hs := s.hops f.dst.toNat
  match hs[if f.typ = 1 then k % hs.length else 0]? with
  | none => s.creditBack holds
  | some p => s.sendOn p { flit := if f.typ = 1 && s.dateline f.dst.toNat p then { f with vc := 2 } else f, holds := holds }
/-- A flit of this device's own. -/
def State.sendTo (s : State) (f : Flit) (k : Nat) : State := s.sendFrom f k none
/-- A flit for another device is forwarded; until it goes on it keeps its place in the buffers of the port it came by. -/
def State.forward (s : State) (n : Nat) (f : Flit) (k : Nat) : State :=
  s.sendFrom f k (some (BitVec.ofNat 2 n, BitVec.ofNat 2 (poolOfFlit f)))

/-! ### COL flits: the channel in OFFSET bits [3:0], release in bit 4, cancellation in bit 5, withdrawal in bit 6, and the members that have
arrived in bits [31:16] (log entry 46) -/

def colFlit (src dst ch : Nat) (release : Bool) (arrived : BitVec 16) (data : List Byte) : Flit :=
  { Flit.zero with typ := 2, src := BitVec.ofNat 4 src, dst := BitVec.ofNat 4 dst, len := BitVec.ofNat 7 data.length,
                   offset := w32 (ch + boolNat release * 16 + arrived.toNat * 65536), payload := padTo 112 data }

/-- The flit by which a member gives up a channel's operation (R399). -/
def colCancel (src dst ch : Nat) : Flit := { colFlit src dst ch false 0 [] with offset := w32 (ch + 32) }

/-- The flit by which a member takes back arrivals whose operation was cancelled here (R166; log entry 107). -/
def colWithdraw (src dst ch : Nat) (gone : BitVec 16) : Flit :=
  { colFlit src dst ch false gone [] with offset := w32 (ch + 64 + gone.toNat * 65536) }

/-- The arrivals that this member has sent toward the root of a system channel are taken back: its own, and those of the members behind it
that went in the same flit, which keep theirs here (R166). -/
def State.withdraw (s : State) (key : Nat) : State :=
  let c := s.chan key
  let root := rootOf (s.members (key % 16))
  if c.scope = 2 && c.sysSent && s.node ≠ root then
    (s.setChan key { c with sysSent := false }).sendTo (colWithdraw s.node root (key % 16) (nodeBit s.node ||| c.sys)) 0
  else s

end Sys2Proof.Machine
end

