-- ==== Sys2Proof/Machine/CoreOps.lean ====
section
/-! DEFINITION. Shared operations on a core: registers, tacks, units and their queues, exceptions and peer stops
(R164 to R166), Col channels (R36, R152) and the opening steps of a core fault (R464). -/

namespace Sys2Proof.Machine

/-! ### Micro-programs at decode (R161) -/

/-- A program of two inputs (R130). -/
def Micro.two (p : Micro) : Bool := p.flags.getLsbD 0

/-- VB of a VSF that names a loaded program without TWO is 0 (R161). -/
def vbOk (micro : List Micro) : CoreInstr → Bool
  | .vsf _ _ vb func _ =>
    (match micro.find? (fun p => p.code.toNat = func.toNat) with | some p => p.two || vb = 0 | none => true)
  | _ => true

/-! ### g registers and tacks (R139, R141) -/

def Core.gr (k : Core) (n : BitVec 5) : DWord := if n = 0 then 0 else nget 0 k.g n.toNat
/-- g0 discards writes. -/
def Core.setG (k : Core) (n : BitVec 5) (v : DWord) : Core := if n = 0 then k else { k with g := nset 0 k.g n.toNat v }
/-- tk0 is always set. -/
def Core.tack (k : Core) (t : BitVec 6) : Bool := t = 0 || k.tacks.getLsbD t.toNat
def tackBit (t : BitVec 6) : DWord := (1#64) <<< t.toNat
def Core.setTack (k : Core) (t : BitVec 6) : Core := { k with tacks := k.tacks ||| tackBit t }
def Core.clrTack (k : Core) (t : BitVec 6) : Core := if t = 0 then k else { k with tacks := k.tacks &&& ~~~tackBit t }
def Core.consume (k : Core) (c : Bool) (t : BitVec 6) : Core := if c then k.clrTack t else k

/-! ### Vector registers (R117): lane i of register v is entry 64 v + i -/

def Core.lane (k : Core) (v : BitVec 6) (i : Nat) : Word := nget 0 k.v (64 * v.toNat + i)
def Core.setLane (k : Core) (v : BitVec 6) (i : Nat) (x : Word) : Core := { k with v := nset 0 k.v (64 * v.toNat + i) x }
def Core.vreg (k : Core) (v : BitVec 6) : List Word := (List.range 64).map (k.lane v)
/-- Write the first lanes of a register; lanes beyond the list keep their contents. -/
def Core.setLanes (k : Core) (v : BitVec 6) (xs : List Word) : Core :=
  let lo := 64 * v.toNat
  let new := (xs.zipIdx.map (fun p => (lo + p.2, p.1))).filter (fun e => e.2 ≠ 0)
  { k with v := k.v.filter (fun e => decide (e.1 < lo)) ++ new ++ k.v.filter (fun e => decide (lo + xs.length ≤ e.1)) }

/-! ### Units -/

def Core.unit (k : Core) : CoreUnit → UnitSt
  | .matrix => k.mat
  | .mangle => k.mgl
  | .vector => k.vec
  | .dma => k.dma
  | .wringer => k.wrg

def Core.setUnit (k : Core) (u : CoreUnit) (x : UnitSt) : Core :=
  match u with
  | .matrix => { k with mat := x }
  | .mangle => { k with mgl := x }
  | .vector => { k with vec := x }
  | .dma => { k with dma := x }
  | .wringer => { k with wrg := x }

def allUnits : List CoreUnit := [.matrix, .mangle, .vector, .dma, .wringer]

/-- Entries of the pending buffer (R146). -/
def pendDepth : Nat := 4
/-- Entries of the issue queue (R146); the vector unit has none. -/
def queueDepth : CoreUnit → Nat
  | .matrix => 16
  | .mangle => 4
  | .vector => 4
  | .dma => 16
  | .wringer => 4

/-- The opcode of Table 4 of R148. -/
def opcodeOf : CoreInstr → Nat
  | .nop => 0x00
  | .end_ => 0x01
  | .jmp _ => 0x02
  | .br _ _ _ _ => 0x03
  | .loop _ _ => 0x04
  | .call _ => 0x05
  | .ret => 0x06
  | .alu _ _ _ _ => 0x10
  | .alui _ _ _ _ => 0x11
  | .li _ _ => 0x12
  | .sld _ _ _ => 0x13
  | .sst _ _ _ => 0x14
  | .slds _ _ _ => 0x15
  | .ssts _ _ _ => 0x16
  | .csrr _ _ => 0x17
  | .tset _ => 0x20
  | .tclr _ => 0x21
  | .twait _ _ => 0x22
  | .col _ _ _ _ _ _ => 0x23
  | .usig _ _ => 0x24
  | .dma _ _ _ _ => 0x30
  | .mma _ _ _ _ _ _ _ _ _ _ _ _ _ _ _ => 0x40
  | .mgl _ _ _ _ _ _ _ _ _ => 0x50
  | .vop _ _ _ _ _ _ _ _ _ => 0x60
  | .vld _ _ _ _ _ _ _ _ _ => 0x61
  | .vst _ _ _ _ _ _ _ _ _ => 0x62
  | .gate _ _ _ _ _ => 0x63
  | .vsf _ _ _ _ _ => 0x64
  | .norm _ _ _ _ => 0x65
  | .red _ _ _ _ _ _ _ _ => 0x70
  | .topk _ _ _ _ _ _ _ _ _ _ => 0x71
  | .wcmp _ _ _ _ _ _ _ => 0x80
  | .wexp _ _ _ _ _ _ _ _ => 0x81

/-- The unit that an instruction is dispatched to; none for the front end's own. -/
def unitOf : CoreInstr → Option CoreUnit
  | .usig u _ => some u
  | .dma _ _ _ _ => some .dma
  | .mma _ _ _ _ _ _ _ _ _ _ _ _ _ _ _ => some .matrix
  | .mgl _ _ _ _ _ _ _ _ _ => some .mangle
  | .vop _ _ _ _ _ _ _ _ _ => some .vector
  | .vld _ _ _ _ _ _ _ _ _ => some .vector
  | .vst _ _ _ _ _ _ _ _ _ => some .vector
  | .gate _ _ _ _ _ => some .vector
  | .vsf _ _ _ _ _ => some .vector
  | .norm _ _ _ _ => some .vector
  | .red _ _ _ _ _ _ _ _ => some .vector
  | .topk _ _ _ _ _ _ _ _ _ _ => some .vector
  | .wcmp _ _ _ _ _ _ _ => some .wringer
  | .wexp _ _ _ _ _ _ _ _ => some .wringer
  | _ => none

/-! ### What a part of a command has written (R19) -/

/-- Shared memory in the core address map (R173). -/
def shmBase : Nat := 0x1000000

/-- The core's part has written map ranges. -/
def Core.note (k : Core) (rs : List (Nat × Nat)) : Core :=
  { k with wrote := k.wrote ++ (rs.eraseDups.filter (fun r => decide (0 < r.2) && !k.wrote.contains r)) }

/-- Writes by others than the core's own Wringer port, for its issued Wringer instructions to see (R290). -/
def Core.disturb (k : Core) (rs : List (Nat × Nat)) : Core :=
  { k with wrg := { k.wrg with flights := k.wrg.flights.map (fun (f : Flight) => { f with hits := f.hits ++ rs }) } }

/-- A unit of core `n` has written map ranges: they belong to its command's results, and they disturb the Wringer instructions that
the core has issued and, in shared memory, those of the other cores. `own` is false for the Wringer port itself. -/
def State.note (s : State) (n : Nat) (own : Bool) (rs : List (Nat × Nat)) : State :=
  let shared := rs.filter (fun r => decide (shmBase ≤ r.1))
  let s1 := s.modCore n (fun k => (if own then k.disturb rs else k).note rs)
  if shared = [] then s1
  else (List.range 16).foldl (fun s m => if m ≠ n ∧ (s.core m).wrg.flights ≠ [] then s.modCore m (fun k => k.disturb shared) else s) s1

/-! ### Ends of waits and of dispatch -/

/-- Dispatch stops and what has not issued is dropped (R165 steps 1 and 2); issued instructions stay (step 3). A USIG that has come to
the head of its unit and waits for earlier instructions is dropped with them, of which R165 says nothing (DESIGN CHOICE, log
entry 89). -/
def UnitSt.dropPending (u : UnitSt) : UnitSt := { u with pend := [], usigs := [], wait := false }
def Core.stopFront (k : Core) : Core :=
  { k with front := .stopped, mat := k.mat.dropPending, mgl := k.mgl.dropPending, vec := k.vec.dropPending,
           dma := k.dma.dropPending, wrg := k.wrg.dropPending }

def Core.stopped (k : Core) : Bool := k.front = .stopped

/-- Whether a core runs a part of the command. -/
def Core.runs (k : Core) (r : CmdRef) : Bool := k.run && k.cmd = some r

/-- The logical cores that run parts of a command. -/
def State.coresOf (s : State) (r : CmdRef) : List Nat := (List.range 16).filter (fun n => (s.core n).runs r)

/-- A channel whose operation is given up: nobody has arrived, here or at another member. -/
def Chan.noOp (c : Chan) : Chan :=
  { c with arrived := 0, sys := 0, from_ := [], sysSent := false, data := [] }

/-- A channel that some cores leave: their unreleased operation on it is given up (R166). -/
def Chan.left (c : Chan) (gone : List Nat) : Chan :=
  let rest := gone.foldl (fun m n => m &&& ~~~((1#16) <<< n)) c.arrived
  if rest = c.arrived then c
  else { c with arrived := rest, sysSent := false, data := if gone.contains c.src.toNat then [] else c.data }

/-- Arrivals of some cores leave every channel, and a system channel takes back the arrival it has sent (R166). -/
def State.leaveChannels (s : State) (gone : List Nat) : State :=
  let t := (nkeys s.chans (fun c => decide (c.left gone ≠ c))).foldl State.withdraw s
  { t with chans := t.chans.map (fun e => (e.1, e.2.left gone)) }

/-- A core stops as a peer (R166): steps 1 to 3 of R165, and a PEER record unless one is VALID. -/
def State.peerStopCore (s : State) (n : Nat) : State :=
  let k := s.core n
  let s1 := s.setCore n { k.stopFront with peer := true }
  if k.peer || k.code.isSome then s
  else if bitOf (s.reg (coreOff n 0xB08)) 31 then s1
  else (s1.setReg (coreOff n 0xB08) 0xC0000000#32).setReg (coreOff n 0xB0C) (w32 (k.pc.toNat % 8192))

/-- Every core of a command but `skip` stops as a peer, and its unreleased Col operations are cancelled (R166). -/
def State.peerStop (s : State) (r : CmdRef) (skip : List Nat) : State :=
  let all := s.coresOf r
  ((all.filter (fun n => !skip.contains n)).foldl State.peerStopCore s).leaveChannels all

/-- CORE_EXC's value for an exception (Table 17 of R170). -/
def excValue (status opcode : Nat) : Word := 0x80000000#32 ||| w32 (opcode * 65536 + status)

/-- What an exception does at its own core (R165): dispatch stops, CORE_EXC and CORE_EXC_PC hold the first record, a CORE_EXC
event is written, and the core's own code is kept by precedence. -/
def State.raiseOwn (s : State) (n : Nat) (status opcode pc : Nat) : State :=
  let k := s.core n
  let code := match k.code with | none => status | some c => worse c.toNat status
  let s1 := s.setCore n { k.stopFront with code := some (BitVec.ofNat 16 code) }
  let off := coreOff n 0xB08
  let s2 := if bitOf (s1.reg off) 31 then s1
    else (s1.setReg off (excValue status opcode)).setReg (coreOff n 0xB0C) (w32 (pc % 8192))
  s2.record 0x0102 n 3 status (regCopy (excValue status opcode) off ++ toLE 2 (pc % 8192))

/-- The other cores of a core's command stop (R166). -/
def State.stopOthers (s : State) (n : Nat) : State :=
  match (s.core n).cmd with
  | some r => s.peerStop r [n]
  | none => s

/-- Taking an exception (R165, R166): the core's own stop and record, and the stop of its command's other cores. A core that is
not running, or that stopped as a peer, raises none. -/
def State.exception (s : State) (n : Nat) (status opcode pc : Nat) : State :=
  let k := s.core n
  if !k.run || k.peer then s else (s.raiseOwn n status opcode pc).stopOthers n

/-- An exception of a dispatched instruction. -/
def State.excDisp (s : State) (n : Nat) (status : Nat) (d : Disp) : State :=
  s.exception n status (opcodeOf d.ins) d.pc.toNat

/-! ### Col channels (R32, R36): channels 16 r + c of ridge node r, and 64 + c of the root -/

def chanKey (node : Nat) (ch : Nat) : Nat := 16 * node + ch

/-- The node and channel that a CH field names for a core (R152). -/
def State.chanOf (s : State) (n : Nat) (ch : BitVec 5) : Nat :=
  chanKey (if ch.getLsbD 4 then 4 else s.ridge n) (ch.toNat % 16)

/-- A core waiting at a cancelled channel is released with ST_FENCED and stops (R36, R152). -/
def State.colFenced (s : State) (n : Nat) : State :=
  let k := s.core n
  match k.front with
  | .col _ _ _ gstat _ => (s.setCore n (k.setG gstat 7)).exception n stFenced 0x23 k.pc.toNat
  | _ => s

def waitsAt (k : Core) (key : Nat) : Bool :=
  match k.front with
  | .col node ch _ _ _ => chanKey node.toNat ch.toNat = key
  | _ => false

/-- A core that a cancelled channel releases takes a code in gstat and raises it as its own. -/
def State.colRaise (s : State) (code n : Nat) : State :=
  let k := s.core n
  match k.front with
  | .col _ _ _ gstat _ =>
    let s1 := s.setCore n (k.setG gstat (BitVec.ofNat 64 code))
    if !k.run || k.peer then s1 else s1.raiseOwn n code 0x23 k.pc.toNat
  | _ => s

/-- Channels give up their operations: every core that waits at one takes the code; only then do the other cores of their commands
stop as peers (R166), so that each participant has its own code. -/
def State.endWaits (s : State) (keys : List Nat) (code : Nat) (f : Chan → Chan) : State :=
  let waiting := (List.range 16).filter (fun n => keys.any (waitsAt (s.core n)))
  let s1 := keys.foldl (fun s key => s.setChan key (f (s.chan key))) s
  waiting.foldl State.stopOthers (waiting.foldl (fun s n => s.colRaise code n) s1)

/-- Cancel channels (R36): every core that waits at one is released with ST_FENCED. R36 gives no flit that tells other members of a
system channel: none is sent, and the arrivals recorded from them are dropped (DESIGN CHOICE, log entry 107). -/
def State.cancelChannels (s : State) (keys : List Nat) : State :=
  s.endWaits keys stFenced (fun c => { c.noOp with cancelled := true })

/-- The channels in which a core takes part. -/
def State.channelsOf (s : State) (n : Nat) : List Nat :=
  nkeys s.chans (fun c => c.slot.isSome && c.mask.getLsbD n)

/-! ### Core faults (R463, R464 steps 1 to 3, R466, R467) -/

/-- The data of a CORE_FAULT record: a register copy, or the forms for parity and for the error rate (Table 7 of R475). -/
def faultData (n : Nat) : CoreCheck → Word → Nat → List Byte
  | .imem word, _, _ => toLE 2 word.toNat ++ [0, 0] ++ toLE 4 (coreOff n 0xB04) ++ [1]
  | .ceRate count, _, _ => toLE 4 count ++ toLE 4 (coreOff n 0xC08) ++ [2]
  | _, v, off => regCopy v (coreOff n off)

/-- The fault register of a check and the value it records. -/
def faultReg : CoreCheck → Option (Nat × Word)
  | .array kind sub slot row col =>
    some (0x824, w32 (kind.toNat * 2 ^ 29 + sub.toNat * 2 ^ 14 + (if kind = 0 then slot.toNat else 0) * 2 ^ 12
      + row.toNat * 2 ^ 5 + col.toNat))
  | .mangle kind row col =>
    some (0x910, w32 (kind.toNat * 2 ^ 29 + row.toNat * 2 ^ 5 + (if kind = 2 then 0 else col.toNat)))
  | .vector kind reg unit lane =>
    some (0xA0C, w32 (kind.toNat * 2 ^ 29 + (if kind = 2 then reg.toNat else 0) * 2 ^ 8
      + (if kind = 1 then unit.toNat else 0) * 2 ^ 6 + lane.toNat))
  | .imem _ => none
  | .ceRate _ => none

/-- KIND 0b11 is never read (R88, R113, R135): such a check does not come about. -/
def checkOk : CoreCheck → Bool
  | .array kind _ _ _ _ => kind ≠ 3
  | .mangle kind _ _ => kind ≠ 3
  | .vector kind _ _ _ => kind ≠ 3
  | _ => true

def recordFaultReg (s : State) (n : Nat) (check : CoreCheck) : State :=
  match faultReg check with
  | some (off, v) => s.setRecord (coreOff n off) v
  | none => s

/-- Core faults of the last 24 h (R467), by elapsed time, newest first. -/
def recentFaults (s : State) (k : Core) : List Nat := k.faultTimes.filter (fun t => decide (s.us < t + 86400000000))

/-- RETIRED, with its record (R467). -/
def State.retireCore (s : State) (n : Nat) : State :=
  let k := s.core n
  let s1 := s.setCore n { k with fence := .retired, faultStep := 0, retest := false }
  (s1.record 0x0105 n 0 0 (toLE 1 (min 255 (recentFaults s k).length))).signal 1

/-- The core's tags are orphaned (R466). -/
def State.orphanTags (s : State) (n : Nat) : State :=
  let mine := s.ras.tags.filter (fun t => t.2.toNat = n)
  let s1 := s.modCore n (fun k => { k with orphans := mine.length })
  { s1 with ras := { s1.ras with tags := s1.ras.tags.filter (fun t => t.2.toNat ≠ n),
                                 orphans := s1.ras.orphans ++ mine.map (·.1) } }

/-- A core fault is counted, in RAS_FAULTS and among those of the last 24 h (R467). -/
def State.countFault (s : State) (n : Nat) : State :=
  (s.bump 0xD0008 0 16 1).modCore n (fun k => { k with faultTimes := s.us :: recentFaults s k })

/-- A check names a core as failed (R464 steps 1 to 3), and its record is copied to the recorder (R89). A further failure in steps
1 to 5 belongs to the fault in hand and has no record of its own; one in step 6 retires the core, and in the step 6 of a CORE_RETEST
leaves it RETIRED (Table 3 of R469): that test has failed. -/
def State.beginCoreFault (s : State) (n : Nat) (check : CoreCheck) : State :=
  let k := s.core n
  let s0 := recordFaultReg s n check
  if k.faultStep = 1 ∨ k.faultStep = 2 then s0 else
  let v := match faultReg check with | some (off, _) => s0.reg (coreOff n off) | none => 0
  let off := match faultReg check with | some (off, _) => off | none => 0
  let s2 := s0.record 0x0101 n 4 0 (faultData n check v off)
  if k.fence = .retired then
    (if k.retest then (s2.countFault n).modCore n (fun k => { k with faultStep := 0 }) else s2)
  else if k.faultStep = 3 then (s2.countFault n).retireCore n
  else
    let s3 := (s2.countFault n).modCore n (fun k => { k.stopFront with fence := .testing, faultStep := 2 })
    (s3.cancelChannels (s3.channelsOf n)).orphanTags n

/-- Fields of a command: OP in its first byte (R366); a RUN is 0x01. -/
def Cmd.u (k : Cmd) (off len : Nat) : Nat := leAt k.bytes off len
def Cmd.op (k : Cmd) : Nat := k.u 0 1
def Cmd.isRun (k : Cmd) : Bool := k.op = 1

/-- Started RUNs that run on a core. -/
def State.runsOn (s : State) (n : Nat) : List Cmd :=
  s.cmds.filter (fun k => k.isRun && k.stage = .started && k.cores.getLsbD n)

/-- The other cores of a core's commands stop (R464 step 4). -/
def State.stopPeers (s : State) (n : Nat) : State := (s.runsOn n).foldl (fun s k => s.peerStop k.ref [n]) s

/-- New records are copied to the log in the system partition (R480). -/
def State.flushLog (s : State) : State :=
  { s with evt := { s.evt with log := s.evt.ring, logAck := s.evt.ack, flushed := s.evt.head, flushGo := false } }

/-- A core fault, of a check or of the rate alarm of R462: steps 1 to 4 of R464, with its record flushed (R480). -/
def State.coreFault (s : State) (n : Nat) (check : CoreCheck) : State := ((s.beginCoreFault n check).stopPeers n).flushLog

end Sys2Proof.Machine
end

