-- ==== Sys2Proof/Machine/Bitstream.lean ====
section
/-! DEFINITION. The configuration bitstream (R332 to R346): its header, directory and sections, the records a section
holds, and the checks of Table 9 with the section index and byte offset of the first failure. -/

namespace Sys2Proof.Machine

/-! ### Sections -/

def secTopology : Nat := 1
def secMemory : Nat := 2
def secRoutes : Nat := 3
def secCols : Nat := 4
def secMicro : Nat := 5
def secCodec : Nat := 6
def secSchedule : Nat := 7
def secProgram : Nat := 8
def secSignature : Nat := 15

/-- A directory entry: its index, TYPE, OFFSET and SIZE (R333). -/
structure BsSec where
  idx : Nat
  typ : Nat
  off : Nat
  size : Nat
  deriving DecidableEq, Repr

def bsSectionCount (b : List Byte) : Nat := leAt b 6 2
def bsDir (b : List Byte) : List BsSec :=
  (List.range (min 31 (bsSectionCount b))).map (fun i =>
    let e := 0x40 + 16 * i
    { idx := i, typ := leAt b e 2, off := leAt b (e + 4) 4, size := leAt b (e + 8) 4 })
def bsOf (b : List Byte) (t : Nat) : List BsSec := (bsDir b).filter (fun s => s.typ = t)

/-- STEPS bytes of consecutive micro-programs from an offset: the end of the last. -/
def microEnd (b : List Byte) : Nat → Nat → Nat
  | 0, o => o
  | n + 1, o => microEnd b n (o + 24 + 4 * byteAt b o)

/-- The SIZE that a section's contents give (Table 2). -/
def secSize (b : List Byte) (t o : Nat) : Nat :=
  match t with
  | 1 => 16 + 8 * (byteAt b o + byteAt b (o + 1))
  | 5 => microEnd b (byteAt b o) (o + 16 + 4 * leAt b (o + 2) 2) - o
  | 7 => 16 + 16 * leAt b (o + 4) 4
  | 8 => 128 + 8 * leAt b (o + 2) 2
  | 15 => 112
  | _ => 16 + 8 * byteAt b o

/-! ### Records -/

structure Gang where
  cores : BitVec 16
  image : Nat
  packing : Nat
  bind : Word
  deriving DecidableEq, Repr

structure Entry where
  gangs : BitVec 16
  sched : Nat
  flags : Nat
  deriving DecidableEq, Repr

structure PartRec where
  base : Nat
  size : Nat
  kind : Nat
  ring : Nat
  deriving DecidableEq, Repr

structure RouteRec where
  seg : Nat
  dir : Nat
  share : Nat
  deriving DecidableEq, Repr

structure ChanRec where
  node : Nat
  ch : Nat
  kind : Nat
  scope : Nat
  mask : BitVec 16
  src : Nat
  len : Nat
  deriving DecidableEq, Repr

structure CodecRec where
  part : Nat
  wmask : BitVec 16
  rmask : BitVec 16
  deriving DecidableEq, Repr

/-- A schedule entry (Table 5 of R264). -/
structure SEntry where
  kind : Nat
  ring : Nat
  layer : Nat
  seg : Nat
  off : Nat
  piece : Nat
  count : Nat
  cores : BitVec 16
  deriving DecidableEq, Repr

def bv16 (b : List Byte) (o : Nat) : BitVec 16 := BitVec.ofNat 16 (leAt b o 2)
def gangAt (b : List Byte) (o : Nat) : Gang :=
  { cores := bv16 b o, image := byteAt b (o + 2), packing := byteAt b (o + 3), bind := w32 (leAt b (o + 4) 4) }
def entryAt (b : List Byte) (o : Nat) : Entry :=
  { gangs := bv16 b o, sched := byteAt b (o + 2), flags := byteAt b (o + 3) }
def partAt (b : List Byte) (o : Nat) : PartRec :=
  { base := leAt b o 2, size := leAt b (o + 2) 2, kind := byteAt b (o + 4), ring := byteAt b (o + 5) }
def routeAt (b : List Byte) (o : Nat) : RouteRec :=
  { seg := byteAt b o, dir := byteAt b (o + 1), share := byteAt b (o + 2) }
def chanAt (b : List Byte) (o : Nat) : ChanRec :=
  { node := byteAt b o, ch := byteAt b (o + 1), kind := byteAt b (o + 2), scope := byteAt b (o + 3), mask := bv16 b (o + 4),
    src := byteAt b (o + 6), len := byteAt b (o + 7) }
def codecAt (b : List Byte) (o : Nat) : CodecRec :=
  { part := byteAt b o, wmask := bv16 b (o + 2), rmask := bv16 b (o + 4) }
def sentryAt (b : List Byte) (o : Nat) : SEntry :=
  { kind := byteAt b o, ring := byteAt b (o + 1), layer := byteAt b (o + 2), seg := byteAt b (o + 3), off := leAt b (o + 4) 4,
    piece := leAt b (o + 8) 4, count := leAt b (o + 12) 2, cores := bv16 b (o + 14) }

/-- The records of a section at a stride. -/
def recsAt {α : Type} (f : List Byte → Nat → α) (b : List Byte) (o stride n : Nat) : List α :=
  (List.range n).map (fun i => f b (o + stride * i))

/-- The records of the section of a type, empty where the bitstream has none. -/
def secRecs {α : Type} (f : List Byte → Nat → α) (b : List Byte) (t : Nat) : List α :=
  match bsOf b t with
  | [] => []
  | s :: _ => recsAt f b (s.off + 16) 8 (byteAt b s.off)

def bsCores (b : List Byte) : BitVec 16 := bv16 b 0x0C
def bsLayers (b : List Byte) : Nat := leAt b 0x0E 2
def bsId (b : List Byte) : Nat := leAt b 0x10 8
def bsGangs (b : List Byte) : List Gang := secRecs gangAt b secTopology
def bsParts (b : List Byte) : List PartRec := secRecs partAt b secMemory
def bsRoutes (b : List Byte) : List RouteRec := secRecs routeAt b secRoutes
def bsChans (b : List Byte) : List ChanRec := secRecs chanAt b secCols
def bsCodec (b : List Byte) : List CodecRec := secRecs codecAt b secCodec
def bsEntries (b : List Byte) : List Entry :=
  match bsOf b secTopology with
  | [] => []
  | s :: _ => recsAt entryAt b (s.off + 16 + 8 * byteAt b s.off) 8 (byteAt b (s.off + 1))

/-- The section of a schedule by INDEX, and its entries. -/
def bsSchedule (b : List Byte) (i : Nat) : List SEntry :=
  match (bsOf b secSchedule).find? (fun s => byteAt b s.off = i) with
  | none => []
  | some s => recsAt sentryAt b (s.off + 16) 16 (leAt b (s.off + 4) 4)

def bsImage (b : List Byte) (im : Nat) : Option BsSec := (bsOf b secProgram).find? (fun s => byteAt b s.off = im)
def bsWords (b : List Byte) (s : BsSec) : Nat := leAt b (s.off + 2) 2
def bsWord (b : List Byte) (s : BsSec) (j : Nat) : DWord := BitVec.ofNat 64 (leAt b (s.off + 0x80 + 8 * j) 8)
/-- ENTRY[e] of an image. -/
def bsStart (b : List Byte) (s : BsSec) (e : Nat) : Nat := leAt b (s.off + 0x40 + 2 * e) 2

/-- A micro-program with its header at an offset (Table 6 of R131). -/
def microAt (b : List Byte) (o : Nat) : Micro :=
  { code := BitVec.ofNat 8 (byteAt b (o + 1)), flags := BitVec.ofNat 8 (byteAt b (o + 2)), pinf := w32 (leAt b (o + 4) 4),
    ninf := w32 (leAt b (o + 8) 4), pzero := w32 (leAt b (o + 12) 4), nzero := w32 (leAt b (o + 16) 4),
    steps := (List.range (byteAt b o)).map (fun i => w32 (leAt b (o + 24 + 4 * i) 4)) }

/-- The offsets of the headers of consecutive programs. -/
def microOffs (b : List Byte) : Nat → Nat → List Nat
  | 0, _ => []
  | n + 1, o => o :: microOffs b n (o + 24 + 4 * byteAt b o)

def bsMicroOffs (b : List Byte) : List Nat :=
  match bsOf b secMicro with
  | [] => []
  | s :: _ => microOffs b (byteAt b s.off) (s.off + 16 + 4 * leAt b (s.off + 2) 2)
def bsMicros (b : List Byte) : List Micro := (bsMicroOffs b).map (microAt b)
def bsTable (b : List Byte) : List Word :=
  match bsOf b secMicro with
  | [] => []
  | s :: _ => (List.range (leAt b (s.off + 2) 2)).map (fun i => w32 (leAt b (s.off + 16 + 4 * i) 4))

/-! ### Checks: each gives its outcome, the section index and the byte offset of its field -/

/-- One check of a field. -/
structure Chk where
  ok : Bool
  sec : Nat
  off : Nat
  deriving DecidableEq, Repr

def hdrSec : Nat := 0x1F
def firstFail (cs : List Chk) : Option (Nat × Nat) := (cs.find? (fun c => !c.ok)).map (fun c => (c.sec, c.off))
/-- Bytes that must be zero, one check each. -/
def zeroChk (b : List Byte) (sec off len : Nat) : List Chk :=
  ((bytesAt b off len).zipIdx).map (fun p => ({ ok := p.1 = 0#8, sec := sec, off := off + p.2 } : Chk))
/-- No earlier element equals this one under a key. -/
def freshAt {α β : Type} [DecidableEq β] (key : α → β) (xs : List α) (i : Nat) : Bool :=
  match xs[i]? with
  | none => true
  | some x => (xs.take i).all (fun y => key y ≠ key x)

def maskSub (a b : BitVec 16) : Bool := a &&& ~~~b = 0
def indexed {α : Type} (xs : List α) : List (Nat × α) := xs.zipIdx.map (fun p => (p.2, p.1))

/-- The number of sections of a type that Table 2 allows. -/
def secCount (t : Nat) : Option (Nat × Nat) :=
  match t with
  | 1 => some (1, 1)
  | 2 => some (1, 1)
  | 3 => some (0, 1)
  | 4 => some (0, 1)
  | 5 => some (0, 1)
  | 6 => some (0, 1)
  | 7 => some (0, 8)
  | 8 => some (1, 16)
  | 15 => some (1, 1)
  | _ => none

/-- The end of the sections before directory entry i: the directory's end for the first. -/
def prevEnd (b : List Byte) (i : Nat) : Nat :=
  match (bsDir b)[i - 1]? with
  | some s => if i = 0 then 0x40 + 16 * bsSectionCount b else s.off + s.size
  | none => 0x40 + 16 * bsSectionCount b

/-- Check 1: header, directory and section placement (R332, R333, Table 1); `len` is the length given by BSLOAD. Where HIF_BS_ERR points
for a section count outside Table 2 or a directory past the length (OFFSET 6) and for gap bytes that are not zero is the model's choice,
SECTION 0x1F (DESIGN CHOICE, log entry 110). -/
def chkFrame (b : List Byte) (len : Nat) : List Chk :=
  let h := fun (ok : Bool) (off : Nat) => ({ ok := ok, sec := hdrSec, off := off } : Chk)
  let n := bsSectionCount b
  let dir := bsDir b
  let last := 0x40 + 16 * (n - 1)
  [ h (leAt b 0 4 = 0x4C434257) 0, h (leAt b 4 2 = 1) 4, h (decide (4 ≤ n) && decide (n ≤ 31)) 6,
    h (decide (256 ≤ leAt b 8 4) && decide (leAt b 8 4 ≤ 4194304) && leAt b 8 4 = len) 8,
    h (decide (1 ≤ bsLayers b) && decide (bsLayers b ≤ 256)) 0x0E ] ++
  zeroChk b hdrSec 0x1C 36 ++ [ h (decide (0x40 + 16 * n ≤ len)) 6 ] ++
  (dir.map (fun s =>
    let e := 0x40 + 16 * s.idx
    let p := prevEnd b s.idx
    [ h (secCount s.typ).isSome e, h (leAt b (e + 2) 2 = 0) (e + 2),
      h (s.off % 64 = 0 && decide (p ≤ s.off)) (e + 4),
      h (decide (s.off + s.size ≤ len) && s.size = secSize b s.typ s.off) (e + 8) ] ++
    zeroChk b hdrSec (e + 12) 4 ++ zeroChk b hdrSec p (s.off - p))).flatten ++
  ([1, 2, 3, 4, 5, 6, 7, 8, 15].map (fun t =>
    let c := (bsOf b t).length
    match secCount t with
    | some (lo, hi) => h (decide (lo ≤ c) && decide (c ≤ hi)) 6
    | none => h true 6)) ++
  [ h ((bsDir b).getLast?.any (fun s => s.typ = 15)) last,
    h ((bsDir b).getLast?.any (fun s => s.off + s.size = len)) (last + 8) ]

/-- KEYID and the signed part of check 2 (R346). -/
def bsSig (b : List Byte) : Option BsSec := (bsOf b secSignature).head?
def bsKeyId (b : List Byte) : Nat := match bsSig b with | some s => byteAt b s.off | none => 0
def bsSigned (b : List Byte) : List Byte := match bsSig b with | some s => b.take (s.off + 16) | none => []
def bsSigBytes (b : List Byte) : List Byte := match bsSig b with | some s => bytesAt b (s.off + 16) 96 | none => []

/-- Check 2: `known` tells whether KEYID names a key, `verified` whether the signature verifies under it. -/
def chkSig (b : List Byte) (known verified : Bool) : List Chk :=
  match bsSig b with
  | none => []
  | some s => zeroChk b s.idx (s.off + 1) 15 ++
      [{ ok := known, sec := s.idx, off := s.off }, { ok := verified, sec := s.idx, off := s.off + 16 }]

/-- Check 3: CORES lies within the grade (R2). -/
def chkCores (b : List Byte) (n : Nat) : List Chk :=
  [{ ok := decide ((bsCores b).toNat < 2 ^ n), sec := hdrSec, off := 0x0C }]

/-- Headers of the PROGRAM sections (Table 7). -/
def chkPrograms (b : List Byte) : List Chk :=
  ((indexed (bsOf b secProgram)).map (fun p =>
    let s := p.2
    let w := bsWords b s
    let c := fun (ok : Bool) (off : Nat) => ({ ok := ok, sec := s.idx, off := s.off + off } : Chk)
    [ c (decide (byteAt b s.off ≤ 15) && freshAt (fun (x : BsSec) => byteAt b x.off) (bsOf b secProgram) p.1) 0,
      c (byteAt b (s.off + 1) = 0) 1, c (decide (1 ≤ w) && decide (w ≤ 8192)) 2 ] ++
    zeroChk b s.idx (s.off + 4) 60 ++
    (List.range 32).map (fun e => c (bsStart b s e = 0xFFFF || decide (bsStart b s e < w)) (0x40 + 2 * e)) ++
    [ c ((bsGangs b).any (fun g => g.image = byteAt b s.off)) 0 ])).flatten

/-- Gang and entry records (R334), and the relation of images, gangs and entries (R345). -/
def chkTopology (b : List Byte) : List Chk :=
  match (bsOf b secTopology).head? with
  | none => []
  | some s =>
    let c := fun (ok : Bool) (off : Nat) => ({ ok := ok, sec := s.idx, off := s.off + off } : Chk)
    let gs := bsGangs b
    let ng := byteAt b s.off
    let ne := byteAt b (s.off + 1)
    let union := gs.foldl (fun m g => m ||| g.cores) 0
    [ c (decide (1 ≤ ng) && decide (ng ≤ 16)) 0, c (decide (1 ≤ ne) && decide (ne ≤ 32)) 1 ] ++ zeroChk b s.idx (s.off + 2) 14 ++
    ((indexed gs).map (fun p =>
      let o := 16 + 8 * p.1
      [ c (p.2.cores ≠ 0 && (gs.take p.1).all (fun g => g.cores &&& p.2.cores = 0)) o,
        c (bsImage b p.2.image).isSome (o + 2), c (decide (p.2.packing < 3)) (o + 3) ])).flatten ++
    [ c (union = bsCores b) 16 ] ++
    ((indexed (bsEntries b)).map (fun p =>
      let o := 16 + 8 * ng + 8 * p.1
      [ c (p.2.gangs ≠ 0#16 && decide (p.2.gangs.toNat < 2 ^ ng) &&
          (maskCores p.2.gangs).all (fun g => match gs[g]? with
            | some x => (match bsImage b x.image with | some im => bsStart b im p.1 ≠ 0xFFFF | none => false)
            | none => false)) o,
        c (decide (p.2.sched ≤ 7) || p.2.sched = 0xFF) (o + 2), c (decide (p.2.flags ≤ 1)) (o + 3) ] ++
      zeroChk b s.idx (s.off + o + 4) 4)).flatten

/-- Partition records (R338, R181). -/
def chkMemory (b : List Byte) : List Chk :=
  match (bsOf b secMemory).head? with
  | none => []
  | some s =>
    let c := fun (ok : Bool) (off : Nat) => ({ ok := ok, sec := s.idx, off := s.off + off } : Chk)
    let ps := bsParts b
    [ c (decide (1 ≤ byteAt b s.off) && decide (byteAt b s.off ≤ 16)) 0 ] ++ zeroChk b s.idx (s.off + 1) 15 ++
    ((indexed ps).map (fun e =>
      let o := 16 + 8 * e.1
      let p := e.2
      let before := ps.take e.1
      [ c (decide (p.base ≤ 511) && before.all (fun q => decide (p.base + p.size ≤ q.base) || decide (q.base + q.size ≤ p.base))) o,
        c (decide (1 ≤ p.size) && decide (p.size ≤ 512) && decide (p.base + p.size ≤ 512)) (o + 2),
        c (decide (1 ≤ p.kind) && decide (p.kind ≤ 4)) (o + 4),
        c (if p.kind = 2 then decide (p.ring ≤ 15) && before.all (fun q => q.kind ≠ 2 || q.ring ≠ p.ring) else p.ring = 0) (o + 5) ] ++
      zeroChk b s.idx (s.off + o + 6) 2)).flatten

def chkRoutes (b : List Byte) : List Chk :=
  match (bsOf b secRoutes).head? with
  | none => []
  | some s =>
    let c := fun (ok : Bool) (off : Nat) => ({ ok := ok, sec := s.idx, off := s.off + off } : Chk)
    let rs := bsRoutes b
    [ c (decide (1 ≤ byteAt b s.off) && decide (byteAt b s.off ≤ 8)) 0 ] ++ zeroChk b s.idx (s.off + 1) 15 ++
    ((indexed rs).map (fun e =>
      let o := 16 + 8 * e.1
      [ c (decide (e.2.seg ≤ 3) && freshAt (fun (r : RouteRec) => (r.seg, r.dir)) rs e.1) o, c (decide (e.2.dir ≤ 1)) (o + 1),
        c (decide (1 ≤ e.2.share) && decide (e.2.share ≤ 16)) (o + 2) ] ++ zeroChk b s.idx (s.off + o + 3) 5)).flatten

/-- Channel records (R340); `ridge` gives a core's ridge. -/
def chkCols (b : List Byte) (ridge : Nat → Nat) : List Chk :=
  match (bsOf b secCols).head? with
  | none => []
  | some s =>
    let c := fun (ok : Bool) (off : Nat) => ({ ok := ok, sec := s.idx, off := s.off + off } : Chk)
    let cs := bsChans b
    [ c (decide (1 ≤ byteAt b s.off) && decide (byteAt b s.off ≤ 80)) 0 ] ++ zeroChk b s.idx (s.off + 1) 15 ++
    ((indexed cs).map (fun e =>
      let o := 16 + 8 * e.1
      let r := e.2
      [ c (decide (r.node ≤ 4)) o, c (decide (r.ch ≤ 15) && freshAt (fun (x : ChanRec) => (x.node, x.ch)) cs e.1) (o + 1),
        c (decide (r.kind ≤ 2)) (o + 2),
        c ((r.scope = 0 && decide (r.node ≤ 3)) || ((r.scope = 1 || r.scope = 2) && r.node = 4)) (o + 3),
        c (maskSub r.mask (bsCores b) && decide ((if r.scope = 2 then 1 else 2) ≤ (maskCores r.mask).length) &&
          (r.scope ≠ 0 || (maskCores r.mask).all (fun n => ridge n = r.node))) (o + 4),
        c (if r.kind = 1 then decide (r.src ≤ 15) && r.mask.getLsbD r.src
           else if r.kind = 2 then decide (1 ≤ r.src) && decide (r.src ≤ 7) else r.src = 0) (o + 6),
        c (if r.kind = 1 then decide (1 ≤ r.len) && decide (r.len ≤ 64) else r.len = 0) (o + 7) ])).flatten

def chkCodec (b : List Byte) : List Chk :=
  match (bsOf b secCodec).head? with
  | none => []
  | some s =>
    let c := fun (ok : Bool) (off : Nat) => ({ ok := ok, sec := s.idx, off := s.off + off } : Chk)
    let cs := bsCodec b
    [ c (decide (1 ≤ byteAt b s.off) && decide (byteAt b s.off ≤ 16)) 0 ] ++ zeroChk b s.idx (s.off + 1) 15 ++
    ((indexed cs).map (fun e =>
      let o := 16 + 8 * e.1
      [ c (((bsParts b)[e.2.part]?).any (fun p => p.kind = 3) && freshAt (fun (x : CodecRec) => x.part) cs e.1) o,
        c (byteAt b (s.off + o + 1) = 0) (o + 1), c (maskSub e.2.wmask (bsCores b)) (o + 2),
        c (maskSub e.2.rmask (bsCores b)) (o + 4) ] ++ zeroChk b s.idx (s.off + o + 6) 2)).flatten

/-- Whether a step uses its d, a, b, c and imm fields (Table 7 of R132). -/
def stepUses (op : Nat) : Bool × Bool × Bool × Bool × Bool :=
  match op with
  | 0x00 => (false, false, false, false, false)
  | 0x04 => (true, true, true, true, false)
  | 0x07 => (true, true, false, false, false)
  | 0x08 => (true, true, false, false, false)
  | 0x0A => (true, true, false, false, false)
  | 0x0B => (true, true, false, false, false)
  | 0x0C => (true, true, false, false, false)
  | 0x0E => (true, false, false, false, true)
  | 0x0F => (true, true, false, false, true)
  | 0x10 => (false, true, true, false, false)
  | 0x11 => (false, true, true, false, false)
  | 0x12 => (false, true, true, false, false)
  | 0x14 => (true, true, false, false, true)
  | 0x15 => (true, true, true, false, true)
  | _ => (true, true, true, false, false)

/-- R134 for one step word; `lastStep` tells whether it is the last. -/
def stepOk (w : Word) (lastStep : Bool) : Bool :=
  let op := getBits w 26 6
  let u := stepUses op
  let imm := getBits w 0 14
  decide (op ≤ 0x15) && (decide (op = 0) == lastStep) && (u.1 || getBits w 23 3 = 0) && (u.2.1 || getBits w 20 3 = 0) &&
  (u.2.2.1 || getBits w 17 3 = 0) && (u.2.2.2.1 || getBits w 14 3 = 0) && (u.2.2.2.2 || imm = 0) &&
  (op ≠ 0x0E || decide (imm ≤ 1023)) && (op ≠ 0x14 || (decide (1 ≤ imm) && decide (imm ≤ 0x0E))) && (op ≠ 0x15 || imm = 0x10)

/-- Check 7 (R342, R134, R130). -/
def chkMicro (b : List Byte) : List Chk :=
  match (bsOf b secMicro).head? with
  | none => []
  | some s =>
    let c := fun (ok : Bool) (off : Nat) => ({ ok := ok, sec := s.idx, off := off } : Chk)
    let offs := bsMicroOffs b
    [ c (decide (1 ≤ byteAt b s.off) && decide (byteAt b s.off ≤ 16)) s.off, c (byteAt b (s.off + 1) = 0) (s.off + 1),
      c (decide (leAt b (s.off + 2) 2 ≤ 1024)) (s.off + 2) ] ++ zeroChk b s.idx (s.off + 4) 12 ++
    ((indexed offs).map (fun e =>
      let o := e.2
      let n := byteAt b o
      let code := byteAt b (o + 1)
      let total := ((offs.take (e.1 + 1)).map (byteAt b)).foldl (· + ·) 0
      [ c (decide (1 ≤ n) && decide (n ≤ 64) && decide (total ≤ 512)) o,
        c (decide (0x40 ≤ code) && decide (code ≤ 0x4F) && freshAt (fun (x : Nat) => byteAt b (x + 1)) offs e.1) (o + 1),
        c (decide (byteAt b (o + 2) < 32)) (o + 2), c (byteAt b (o + 3) = 0) (o + 3) ] ++ zeroChk b s.idx (o + 20) 4 ++
      (List.range n).map (fun i => c (stepOk (w32 (leAt b (o + 24 + 4 * i) 4)) (decide (i + 1 = n))) (o + 24 + 4 * i)))).flatten

/-- The bytes of the RING partition of a ring. -/
def ringBytes (ps : List PartRec) (r : Nat) : Option Nat :=
  (ps.find? (fun p => p.kind = 2 && p.ring = r)).map (fun p => p.size * 65536)

/-- One schedule entry (R264, Table 5). -/
def chkSEntry (b : List Byte) (sec o : Nat) (lastEntry : Bool) : List Chk :=
  let c := fun (ok : Bool) (off : Nat) => ({ ok := ok, sec := sec, off := o + off } : Chk)
  let e := sentryAt b o
  [ c (decide (e.kind ≤ 2) && (decide (e.kind = 0) == lastEntry)) 0 ] ++
  (if e.kind = 0 then zeroChk b sec (o + 1) 15
   else
    [ c (ringBytes (bsParts b) e.ring).isSome 1, c (decide (e.seg ≤ 2)) 3, c (e.off % 64 = 0) 4,
      c (e.piece % 64 = 0 && decide (64 ≤ e.piece) && decide (e.piece ≤ 1048576) &&
        (ringBytes (bsParts b) e.ring).any (fun n => decide (e.piece ≤ n))) 8,
      c (decide (1 ≤ e.count)) 12, c (e.cores ≠ 0 && maskSub e.cores (bsCores b)) 14 ])

/-- Check 8 (R344, R264). -/
def chkSchedules (b : List Byte) : List Chk :=
  ((indexed (bsOf b secSchedule)).map (fun p =>
    let s := p.2
    let c := fun (ok : Bool) (off : Nat) => ({ ok := ok, sec := s.idx, off := s.off + off } : Chk)
    let n := leAt b (s.off + 4) 4
    [ c (decide (byteAt b s.off ≤ 7) && freshAt (fun (x : BsSec) => byteAt b x.off) (bsOf b secSchedule) p.1) 0 ] ++
    zeroChk b s.idx (s.off + 1) 3 ++ [ c (decide (1 ≤ n) && decide (n ≤ 8192)) 4 ] ++ zeroChk b s.idx (s.off + 8) 8 ++
    ((List.range n).map (fun i => chkSEntry b s.idx (s.off + 16 + 16 * i) (decide (i + 1 = n)))).flatten)).flatten ++
  (match (bsOf b secTopology).head? with
  | none => []
  | some s => (indexed (bsEntries b)).map (fun e =>
      { ok := e.2.sched = 0xFF || (bsOf b secSchedule).any (fun x => byteAt b x.off = e.2.sched), sec := s.idx,
        off := s.off + 16 + 8 * byteAt b s.off + 8 * e.1 + 2 }))

/-- The TARGET of a control word (R345). -/
def targetOf : CoreInstr → Option (BitVec 13)
  | .jmp t => some t
  | .br _ _ _ t => some t
  | .loop _ t => some t
  | .call t => some t
  | _ => none

def bindsDma (w : Word) : Bool := (List.range 16).any (fun i => getBits w (2 * i) 2 = 3)

/-- Check 9: the words and the DMA binding (R345, R337). -/
def chkWords (b : List Byte) : List Chk :=
  ((bsOf b secProgram).map (fun s =>
    (List.range (bsWords b s)).map (fun j =>
      let ok := match decodeWord (bsWord b s j) with
        | none => false
        | some i => vbOk (bsMicros b) i && (match targetOf i with | some t => decide (t.toNat < bsWords b s) | none => true)
      ({ ok := ok, sec := s.idx, off := s.off + 0x80 + 8 * j } : Chk)))).flatten ++
  (match (bsOf b secTopology).head? with
  | none => []
  | some s => (indexed (bsGangs b)).map (fun g =>
      let uses := match bsImage b g.2.image with
        | some im => (List.range (bsWords b im)).any (fun j => (bsWord b im j).toNat / 2 ^ 56 = 0x30)
        | none => false
      { ok := !uses || bindsDma g.2.bind, sec := s.idx, off := s.off + 16 + 8 * g.1 + 4 }))

/-- The first failure of Table 9, checks in order; a check is made only when the earlier ones pass. -/
def bsCheck (b : List Byte) (len cores : Nat) (ridge : Nat → Nat) (known verified : Bool) : Option (Nat × Nat) :=
  let stages : List (Unit → List Chk) :=
    [ fun _ => chkFrame b len, fun _ => chkSig b known verified, fun _ => chkCores b cores,
      fun _ => chkTopology b ++ chkPrograms b, fun _ => chkMemory b,
      fun _ => chkRoutes b ++ chkCols b ridge ++ chkCodec b, fun _ => chkMicro b, fun _ => chkSchedules b,
      fun _ => chkWords b ]
  stages.foldl (fun acc f => match acc with | some x => some x | none => firstFail (f ())) none

/-- The record of a CODEC section for a partition, by the partition's base; none where the partition is open (R343). -/
def bsCodecFor (b : List Byte) (base : Nat) : Option CodecRec :=
  (bsCodec b).find? (fun r => ((bsParts b)[r.part]?).any (fun p => p.base = base))

end Sys2Proof.Machine
end

