-- ==== Sys2Proof/Machine/Mem.lean ====
section
/-! DEFINITION. Memories of bytes with granule check bits and poison (R188 to R190): bytes not listed read 0, granules
not listed are clean. The canonical form keeps addresses strictly rising and lists no zero byte. -/

namespace Sys2Proof.Machine

/-- What a byte that nothing has written reads as: memory is zero after reset (R196). -/
def unlistedByte : Byte := 0

/-- The canonical form of a memory's cells. -/
def Memory.wf (m : List Host.Cell) : Bool := nwf unlistedByte m

/-- One byte. -/
def Ram.byte (m : Ram) (a : Nat) : Byte := nget unlistedByte m.cells a

def Ram.bytes (m : Ram) (a len : Nat) : List Byte := (List.range len).map (fun i => m.byte (a + i))

/-- The listed cells of a run of bytes. -/
def runCells (a : Nat) (bs : List Byte) : List Host.Cell :=
  match bs with
  | [] => []
  | b :: t => if b = unlistedByte then runCells (a + 1) t else (a, b) :: runCells (a + 1) t

/-- The cells after a run of bytes is written at an address. -/
def putCells (m : List Host.Cell) (a : Nat) (bs : List Byte) : List Host.Cell :=
  m.filter (fun e => decide (e.1 < a)) ++ runCells a bs ++ m.filter (fun e => decide (a + bs.length ≤ e.1))

/-- The granules that a range touches. -/
def granules (a len : Nat) : List Nat :=
  if len = 0 then [] else (List.range ((a + len - 1) / 8 - a / 8 + 1)).map (fun i => a / 8 + i)

/-- Whether any granule of a range is marked in a table. -/
def anyIn {α : Type} (t : NMap α) (a len : Nat) (p : α → Bool) : Bool :=
  decide (0 < len) && t.any (fun e => decide (a / 8 ≤ e.1) && decide (e.1 ≤ (a + len - 1) / 8) && p e.2)

def Ram.poisoned (m : Ram) (a len : Nat) : Bool := anyIn m.poison a len id

/-- A write of bytes that carry poison flags (R189, R190): a granule covered whole takes the new flags and valid check
bits; one covered in part keeps the poison it had, and a failed check becomes poison. -/
def Ram.put (m : Ram) (a : Nat) (bs : List Byte) (flags : List Bool) : Ram :=
  let len := bs.length
  let step := fun (acc : NMap Bool × NMap Ecc) (g : Nat) =>
    let lo := 8 * g
    let whole := decide (a ≤ lo) && decide (lo + 8 ≤ a + len)
    let got := ((List.range 8).any (fun i => decide (a ≤ lo + i) && decide (lo + i < a + len) && flags.getD (lo + i - a) false))
    let old := !whole && (nget false acc.1 g || nget Ecc.clean acc.2 g = .ue)
    (nset false acc.1 g (got || old), nset Ecc.clean acc.2 g .clean)
  let r := if m.poison = [] ∧ m.ecc = [] ∧ flags.all (fun f => !f) then (m.poison, m.ecc)
    else (granules a len).foldl step (m.poison, m.ecc)
  { cells := putCells m.cells a bs, poison := r.1, ecc := r.2 }

/-- A write of clean data. -/
def Ram.write (m : Ram) (a : Nat) (bs : List Byte) : Ram := m.put a bs []

/-- A range is zeroed with the poison clear (R192, R193). -/
def Ram.clear (m : Ram) (a len : Nat) : Ram :=
  { cells := m.cells.filter (fun e => decide (e.1 < a) || decide (a + len ≤ e.1)),
    poison := m.poison.filter (fun e => decide (8 * e.1 < a) || decide (a + len ≤ 8 * e.1)),
    ecc := m.ecc.filter (fun e => decide (8 * e.1 < a) || decide (a + len ≤ 8 * e.1)) }

/-- A memory takes over what a read of it at an earlier moment has found: a granule of `before` that the read corrected or poisoned in
`after`, where its check bits stand as they did. -/
def Ram.takeFixes (m before after : Ram) : Ram :=
  before.ecc.foldl (fun (m : Ram) e =>
    if nget Ecc.clean after.ecc e.1 = nget Ecc.clean before.ecc e.1 || nget Ecc.clean m.ecc e.1 ≠ nget Ecc.clean before.ecc e.1 then m
    else { m with ecc := nset Ecc.clean m.ecc e.1 .clean, poison := nset false m.poison e.1 (nget false m.poison e.1 || nget false after.poison e.1) }) m

/-! ### The on-chip memories of the state -/

def State.ram (s : State) : MemSel → Ram
  | .cmem c => (s.core c.toNat).cmem
  | .bufA c => (s.core c.toNat).bufA
  | .bufB c => (s.core c.toNat).bufB
  | .bufD c => (s.core c.toNat).bufD
  | .shm => s.shm

def State.setRam (s : State) (m : MemSel) (r : Ram) : State :=
  match m with
  | .cmem c => s.modCore c.toNat (fun k => { k with cmem := r })
  | .bufA c => s.modCore c.toNat (fun k => { k with bufA := r })
  | .bufB c => s.modCore c.toNat (fun k => { k with bufB := r })
  | .bufD c => s.modCore c.toNat (fun k => { k with bufD := r })
  | .shm => { s with shm := r }

/-- Bytes of each memory (Table 1 of R172). -/
def memSize : MemSel → Nat
  | .cmem _ => 0x400000
  | .bufA _ => 0x10000
  | .bufB _ => 0x20000
  | .bufD _ => 0x10000
  | .shm => 0x2000000

/-- WHERE of CORE_MEM_UE (Table 11 of R194). -/
def memWhere : MemSel → Nat
  | .cmem _ => 0
  | .bufA _ => 1
  | .bufB _ => 2
  | .bufD _ => 3
  | .shm => 0

/-- The core that owns a memory; none for shared memory. -/
def memCore : MemSel → Option Nat
  | .cmem c => some c.toNat
  | .bufA c => some c.toNat
  | .bufB c => some c.toNat
  | .bufD c => some c.toNat
  | .shm => none

/-- One corrected error is counted, with the rate limits of R462. -/
def State.countCe (s : State) (m : MemSel) : State :=
  match memCore m with
  | some c =>
    let lo := match m with | .cmem _ => 16 | _ => 0
    let s1 := s.bump (coreOff c 0xC08) lo 16 1
    let k := s1.core c
    let n := k.ceWindow + 1
    let s2 := s1.setCore c { k with ceWindow := n }
    if n = getBits (s.reg 0xD000C) 0 16 ∧ !k.ceActed then
      let s3 := (s2.modCore c (fun k => { k with ceActed := true })).record 0x0107 c 1 0 (toLE 4 n)
      (s3.signal 1).coreFault c (.ceRate n)
    else s2
  | none =>
    let s1 := s.bump 0x70F40 0 32 1
    let n := s1.ras.shmCe + 1
    let s2 := { s1 with ras := { s1.ras with shmCe := n } }
    if n = getBits (s.reg 0xD000C) 16 16 ∧ !s1.ras.shmActed then
      let s3 := ({ s2 with ras := { s2.ras with shmActed := true } }).record 0x0107 srcRas 1 0 (toLE 4 n)
      s3.signal 1
    else s2

/-- An uncorrectable granule is recorded and poisoned (R188). -/
def State.noteUe (s : State) (m : MemSel) (g : Nat) (patrol : Bool) : State :=
  let r := s.ram m
  let s1 := s.setRam m { r with poison := nset false r.poison g true, ecc := nset .clean r.ecc g .clean }
  match memCore m with
  | some c =>
    let v := 0x80000000#32 ||| w32 (memWhere m * 2 ^ 29 + boolNat patrol * 2 ^ 28 + g)
    let s2 := s1.setRecord (coreOff c 0xC0C) v
    s2.record 0x0201 c 2 stUncorrectable (regCopy (s2.reg (coreOff c 0xC0C)) (coreOff c 0xC0C))
  | none =>
    let v := 0x80000000#32 ||| w32 (boolNat patrol * 2 ^ 30 + g)
    let s2 := s1.setRecord 0x70F44 v
    s2.record 0x0201 srcStr 2 stUncorrectable (regCopy (s2.reg 0x70F44) 0x70F44)

/-- A granule with a single-bit error is rewritten with corrected data and counted (R188). -/
def State.fixCe (s : State) (m : MemSel) (g : Nat) : State :=
  let r := s.ram m
  (s.setRam m { r with ecc := nset .clean r.ecc g .clean }).countCe m

/-- The check bits of one granule as a read finds them (R188). -/
def State.checkGranule (s : State) (m : MemSel) (patrol : Bool) (g : Nat) : State :=
  match nget Ecc.clean (s.ram m).ecc g with
  | .clean => s
  | .ce => s.fixCe m g
  | .ue => s.noteUe m g patrol

/-- What a read finds besides its bytes. -/
inductive Taint where
  | clean
  | poison
  | ue
  deriving DecidableEq, Repr

/-- The status of a read that consumes its data (R189, R164). -/
def Taint.status : Taint → Nat
  | .clean => stOk
  | .poison => stPoisoned
  | .ue => stUncorrectable

def Taint.join (a b : Taint) : Taint :=
  match a, b with
  | .ue, _ => .ue
  | _, .ue => .ue
  | .poison, _ => .poison
  | _, .poison => .poison
  | _, _ => .clean

/-- The errors of a range are found, corrected or recorded, and its taint told. -/
def State.touch (s : State) (m : MemSel) (a len : Nat) : State × Taint :=
  let r := s.ram m
  let bad := (r.ecc.filter (fun e => decide (0 < len) && decide (a / 8 ≤ e.1) && decide (e.1 ≤ (a + len - 1) / 8))).map (·.1)
  let ue := anyIn r.ecc a len (fun e => e = .ue)
  let s1 := bad.foldl (fun s g => s.checkGranule m false g) s
  (s1, if ue then .ue else if r.poisoned a len then .poison else .clean)

/-- Several ranges of one memory. -/
def State.touchAll (s : State) (rs : List (MemSel × Nat × Nat)) : State × Taint :=
  rs.foldl (fun acc r => let t := acc.1.touch r.1 r.2.1 r.2.2; (t.1, acc.2.join t.2)) (s, .clean)

/-- The granules that a write covers only in part: the merge reads them (R190). -/
def partGranules (a len : Nat) : List Nat := (granules a len).filter (fun g => decide (8 * g < a) || decide (a + len < 8 * g + 8))

/-- The reads of a write's merges: an error found there is corrected or recorded, as by every read (R188, R190). -/
def State.mergeCheck (s : State) (m : MemSel) (a len : Nat) : State :=
  if (s.ram m).ecc = [] then s else (partGranules a len).foldl (fun s g => s.checkGranule m false g) s

/-- The merges of several writes into one memory. -/
def State.mergeAll (s : State) (m : MemSel) (rs : List (Nat × Nat)) : State := rs.foldl (fun s r => s.mergeCheck m r.1 r.2) s

/-- A write of bytes with their poison flags. -/
def State.putRam (s : State) (m : MemSel) (a : Nat) (bs : List Byte) (flags : List Bool) : State :=
  let s1 := s.mergeCheck m a bs.length
  s1.setRam m ((s1.ram m).put a bs flags)

def State.writeRam (s : State) (m : MemSel) (a : Nat) (bs : List Byte) : State := s.putRam m a bs []

/-- Writes to bytes that become undefined: a free value each (R115, R137, R171). -/
def State.scramble (s : State) (m : MemSel) (a len : Nat) : State :=
  let d := s.drawBytes len
  d.2.writeRam m a d.1

/-! ### Ports and bindings (R175, R176) -/

/-- The port of a bank: 0 matrix feed, 1 vector, 2 Mangle, 3 DMA. -/
def Core.bankPort (k : Core) (bank : Nat) : Nat := getBits k.bind (2 * bank) 2

/-- A range of core memory lies in banks bound to a port (R176); a core without an active bitstream has none. -/
def Core.inPort (k : Core) (port a len : Nat) : Bool :=
  k.slot.isSome && decide (0 < len) && decide (a + len ≤ 0x400000) &&
  (List.range ((a + len - 1) / 0x40000 - a / 0x40000 + 1)).all (fun i => k.bankPort (a / 0x40000 + i) = port)

end Sys2Proof.Machine
end

