-- ==== Sys2Proof/Machine/MangleDesc.lean ====
section
/-! DEFINITION. What a Mangle descriptor names (R92, R93, R95, R96, R102): its fields, the pages of its list, the key blocks
of an operation, and the byte ranges that the instruction reads and writes. -/

namespace Sys2Proof.Machine

/-! ### The descriptor (Tables 2 and 3 of R92) -/

structure MglDesc where
  raw : List Byte
  qbase : Nat
  qsbase : Nat
  plist : Nat
  obase : Nat
  osbase : Nat
  stbase : Nat
  biasbase : Nat
  maskbase : Nat
  sigma : Word
  klen : Nat
  qpos0 : Nat
  window : Nat
  qpitch : Nat
  opitch : Nat
  biaspitch : Nat
  maskpitch : Nat
  m : Nat
  g : Nat
  dblk : Nat
  flags : Word
  dobase : Nat
  dosbase : Nat
  deltabase : Nat
  gscale : Word
  gqbase : Nat
  gkbase : Nat
  gvbase : Nat
  gpitch : Nat
  dopitch : Nat
  kblk : Nat
  bflags : Word
  deriving DecidableEq, Repr

def mglDesc (b : List Byte) : MglDesc :=
  { raw := b, qbase := leAt b 0 4, qsbase := leAt b 4 4, plist := leAt b 8 4, obase := leAt b 0xC 4, osbase := leAt b 0x10 4,
    stbase := leAt b 0x14 4, biasbase := leAt b 0x18 4, maskbase := leAt b 0x1C 4, sigma := w32 (leAt b 0x20 4),
    klen := leAt b 0x24 4, qpos0 := leAt b 0x28 4, window := leAt b 0x2C 4, qpitch := leAt b 0x30 2, opitch := leAt b 0x32 2,
    biaspitch := leAt b 0x34 2, maskpitch := leAt b 0x36 2, m := byteAt b 0x38, g := byteAt b 0x39, dblk := byteAt b 0x3A,
    flags := w32 (leAt b 0x3C 4), dobase := leAt b 0x40 4, dosbase := leAt b 0x44 4, deltabase := leAt b 0x48 4,
    gscale := w32 (leAt b 0x4C 4), gqbase := leAt b 0x50 4, gkbase := leAt b 0x54 4, gvbase := leAt b 0x58 4,
    gpitch := leAt b 0x5C 2, dopitch := leAt b 0x5E 2, kblk := leAt b 0x60 4, bflags := w32 (leAt b 0x64 4) }

namespace MglDesc

def dim (d : MglDesc) : Nat := 32 * d.dblk
def qfmt (d : MglDesc) : Nat := getBits d.flags 0 1
def kfmt (d : MglDesc) : Nat := getBits d.flags 1 2
def vfmt (d : MglDesc) : Nat := getBits d.flags 3 2
def ofmt (d : MglDesc) : Nat := getBits d.flags 5 3
def causal (d : MglDesc) : Bool := bitOf d.flags 8
def bitmask (d : MglDesc) : Bool := bitOf d.flags 9
def bias (d : MglDesc) : Bool := bitOf d.flags 10
def resume (d : MglDesc) : Bool := bitOf d.flags 11
def rawOut (d : MglDesc) : Bool := bitOf d.flags 12
def save (d : MglDesc) : Bool := bitOf d.flags 13
def acc (d : MglDesc) : Bool := bitOf d.bflags 0
def dofmt (d : MglDesc) : Nat := getBits d.bflags 1 2
/-- Query position of row r (R95). -/
def qp (d : MglDesc) (r : Nat) : Nat := d.qpos0 + r / d.g
/-- Element bytes of one key or value row, and the scale stride (R197). -/
def ek (d : MglDesc) : Nat := if d.kfmt = 2 then d.dim / 2 else d.dim
def ev (d : MglDesc) : Nat := if d.vfmt = 2 then d.dim / 2 else d.dim
def ss (d : MglDesc) : Nat := if d.dblk ≤ 4 then 4 else 8

end MglDesc

/-! ### Pages (R96) -/

/-- A page of the page list: first position, size code, core-memory base. -/
structure MglPage where
  start : Nat
  z : Nat
  base : Nat
  deriving DecidableEq, Repr

def MglPage.has (p : MglPage) (kp : Nat) : Bool := decide (p.start ≤ kp) && decide (kp < p.start + 2 ^ p.z)

/-- Entries of the page list until they cover `upto` positions; the flag tells a size code or bits that R93 refuses. -/
def readPages : Nat → Ram → Nat → Nat → Nat → List MglPage × Bool
  | 0, _, _, _, _ => ([], true)
  | fuel + 1, m, at_, pos, upto =>
    if upto ≤ pos then ([], true)
    else
      let e := leNat (m.bytes at_ 4)
      let z := e % 16
      if z < 4 ∨ 10 < z ∨ e / 16 % 4 ≠ 0 then ([], false)
      else
        let r := readPages fuel m (at_ + 4) (pos + 2 ^ z) upto
        ({ start := pos, z := z, base := e / 64 * 64 } :: r.1, r.2)

/-- The pages of the list: every entry up to KLEN is read, on BWDKV too (R102). -/
def MglDesc.pages (d : MglDesc) (op : BitVec 2) (m : Ram) : List MglPage × Bool :=
  if op = 1 then ([], true) else readPages 65537 m d.plist 0 d.klen

/-- The bytes of the page list that the walk reads: an entry that R93 refuses is the last. -/
def MglDesc.listBytes (d : MglDesc) (r : List MglPage × Bool) : List (Nat × Nat) :=
  let n := r.1.length + (if r.2 then 0 else 1)
  if n = 0 then [] else [(d.plist, 4 * n)]

def pageOf (ps : List MglPage) (kp : Nat) : MglPage := (ps.find? (fun p => p.has kp)).getD { start := 0, z := 0, base := 0 }

/-! ### Key blocks (R100, R102) -/

/-- Masked by length, causal or window. -/
def MglDesc.maskedGeom (d : MglDesc) (r kp : Nat) : Bool :=
  decide (d.klen ≤ kp) || (d.causal && decide (d.qp r < kp)) ||
  (decide (0 < d.window) && decide ((d.window : Int) ≤ (d.qp r : Int) - kp))

def rowsOf (d : MglDesc) : List Nat := List.range d.m
def blockPos (b : Nat) : List Nat := (List.range 32).map (fun j => 32 * b + j)

/-- A block that is skipped for the whole instruction (R102). -/
def MglDesc.skipped (d : MglDesc) (b : Nat) : Bool := (rowsOf d).all (fun r => (blockPos b).all (d.maskedGeom r))

def MglDesc.blockCount (d : MglDesc) : Nat := (d.klen + 31) / 32

/-- The blocks that an operation runs, and how many it skips. -/
def MglDesc.blocks (d : MglDesc) (op : BitVec 2) : List Nat :=
  match op.toNat with
  | 1 => []
  | 3 => if d.skipped d.kblk then [] else [d.kblk]
  | _ => (List.range d.blockCount).filter (fun b => !d.skipped b)
def MglDesc.skipCount (d : MglDesc) (op : BitVec 2) : Nat :=
  match op.toNat with
  | 1 => 0
  | 3 => if d.skipped d.kblk then 1 else 0
  | _ => d.blockCount - (d.blocks op).length

/-! ### Byte ranges -/

/-- Bytes of one output row. -/
def MglDesc.oBytes (d : MglDesc) : Nat :=
  if d.rawOut then 4 * d.dim else match d.ofmt with | 0 => 4 * d.dim | 1 => 2 * d.dim | _ => d.dim

/-- The pages that hold one of some blocks, with their bytes. -/
def MglDesc.pagesOf (d : MglDesc) (bs : List Nat) (ps : List MglPage) : List (Nat × Nat) :=
  (ps.filter (fun p => bs.any (fun b => decide (p.start < 32 * b + 32) && decide (32 * b < p.start + 2 ^ p.z)))).map (fun p =>
    (p.base, 2 ^ p.z * (d.ek + d.ev + 2 * d.ss)))

/-- The pages that the operation reads. -/
def MglDesc.pageRanges (d : MglDesc) (op : BitVec 2) (ps : List MglPage) : List (Nat × Nat) := d.pagesOf (d.blocks op) ps

/-- The pages whose place R94 checks: those of the list that hold a block which is not skipped (R102); on BWDKV also those of
blocks other than KBLK. -/
def MglDesc.pagesNamed (d : MglDesc) (op : BitVec 2) (ps : List MglPage) : List (Nat × Nat) :=
  if op = 1 then [] else d.pagesOf ((List.range d.blockCount).filter (fun b => !d.skipped b)) ps

def rowRanges (base pitch len rows : Nat) : List (Nat × Nat) := (List.range rows).map (fun r => (base + r * pitch, len))

/-- Regions read whole: queries, records, gradients. -/
def MglDesc.fixedReads (d : MglDesc) (op : BitVec 2) : List (Nat × Nat) :=
  let rawIn := fun (o st : Nat) => rowRanges o d.opitch (4 * d.dim) d.m ++ rowRanges st 8 8 d.m
  let q := rowRanges d.qbase d.qpitch d.dim d.m ++ rowRanges d.qsbase 8 d.dblk d.m
  match op.toNat with
  | 0 => q ++ (if d.resume then rawIn d.obase d.stbase else [])
  | 1 => rawIn d.obase d.stbase ++ rawIn d.plist d.biasbase
  | n =>
    q ++ rowRanges d.stbase 8 8 d.m ++ rowRanges d.dobase d.dopitch d.dim d.m ++ rowRanges d.dosbase 8 d.dblk d.m ++
    rowRanges d.deltabase 4 4 d.m ++
    (if d.acc then (if n = 2 then rowRanges d.gqbase d.gpitch (4 * d.dim) d.m
      else rowRanges d.gkbase d.gpitch (4 * d.dim) 32 ++ rowRanges d.gvbase d.gpitch (4 * d.dim) 32) else [])

/-- Regions of the bias and mask tables. -/
def MglDesc.tableRegions (d : MglDesc) (op : BitVec 2) : List (Nat × Nat) :=
  if op = 1 ∨ d.klen = 0 then []
  else (if d.bias then rowRanges d.biasbase d.biaspitch (4 * d.klen) d.m else []) ++
    (if d.bitmask then rowRanges d.maskbase d.maskpitch ((d.klen + 7) / 8) d.m else [])

def MglDesc.reads (d : MglDesc) (op : BitVec 2) : List (Nat × Nat) := d.fixedReads op ++ d.tableRegions op

def MglDesc.writes (d : MglDesc) (op : BitVec 2) : List (Nat × Nat) :=
  match op.toNat with
  | 2 => rowRanges d.gqbase d.gpitch (4 * d.dim) d.m
  | 3 => rowRanges d.gkbase d.gpitch (4 * d.dim) 32 ++ rowRanges d.gvbase d.gpitch (4 * d.dim) 32
  | _ => rowRanges d.obase d.opitch d.oBytes d.m ++ (if !d.rawOut && decide (2 ≤ d.ofmt) then rowRanges d.osbase 8 d.dblk d.m else []) ++
      (if d.rawOut || d.save then rowRanges d.stbase 8 8 d.m else [])

/-- Ranges of an instruction's operands that it still has to read. -/
def Flight.unread (f : Flight) (mem : Nat) (rs : List (Nat × Nat)) : List (Nat × Nat) := rs.filter (fun r => !f.fed.contains (mem, r))

/-- The byte ranges of core memory that an issued Mangle instruction still has to read (R110): its regions, its page list
and the pages of its blocks, but what has been read of them. -/
def Flight.mglReads (m : Ram) (f : Flight) : List (Nat × Nat) :=
  match f.d.ins with
  | .mgl op _ _ _ _ _ _ _ _ =>
    let d := mglDesc f.desc
    let ps := d.pages op (f.seen.getD m)
    f.unread 2 (d.reads op ++ d.listBytes ps ++ d.pageRanges op ps.1)
  | _ => []

/-- The byte ranges that an issued Mangle instruction writes. -/
def Flight.mglWrites (f : Flight) : List (Nat × Nat) :=
  match f.d.ins with
  | .mgl op _ _ _ _ _ _ _ _ => (mglDesc f.desc).writes op
  | _ => []

end Sys2Proof.Machine
end

