-- ==== Sys2Proof/Machine/CoreReady.lean ====
section
/-! DEFINITION. When the head of each unit of a core may issue (R77, R80, R109, R110, R120, R146): its fields, the bytes that issued
instructions protect, the hazards it waits for, and the order of two heads that consume one tack (R142). -/

namespace Sys2Proof.Machine

/-! ### Byte ranges that issued instructions protect (R80, R110, R154 to R156) -/

/-- Bits of one element of a format code. -/
def fmtBits (f : BitVec 4) : Nat :=
  match f.toNat with
  | 0 => 32
  | 1 => 32
  | 2 => 16
  | 3 => 16
  | 9 => 4
  | _ => 8

/-- The memory that a SPACE field names (R160). -/
def spaceMem (n : Nat) (sp : BitVec 2) : MemSel :=
  let c := BitVec.ofNat 4 n
  match sp.toNat with
  | 0 => .cmem c
  | 1 => .bufA c
  | 2 => .bufB c
  | _ => .bufD c

def rangesMeet (a la b lb : Nat) : Bool := decide (0 < la) && decide (0 < lb) && decide (a < b + lb) && decide (b < a + la)

/-- Fields of a region word (R155): base, scale base, pitch and scale pitch in bytes, and TR. -/
structure Region where
  base : Nat
  sbase : Nat
  pitch : Nat
  spitch : Nat
  tr : Bool
  deriving DecidableEq, Repr

def regionOf (w : DWord) : Region :=
  { base := (fld w 0 11).toNat * 64, sbase := (fld w 11 11).toNat * 64, pitch := (fld w 22 11).toNat * 64,
    spitch := (fld w 33 11).toNat * 64, tr := bit1 w 44 }

/-- Fields of a shape word (R156). -/
structure Shape where
  m : Nat
  n : Nat
  j : Nat
  dfmt : Nat
  pair : Nat
  ea : Bool
  eb : Bool
  deriving DecidableEq, Repr

def shapeOf (w : DWord) : Shape :=
  { m := (fld w 0 5).toNat + 1, n := (fld w 5 5).toNat + 1, j := (fld w 10 12).toNat + 1, dfmt := (fld w 22 4).toNat,
    pair := (fld w 26 4).toNat, ea := bit1 w 30, eb := bit1 w 31 }

/-- Operand pairs by code (Table 4 of R48, R156): beat width, element bits of A and B, whether block-scaled. -/
def pairW (p : Nat) : Nat := match p with | 1 => 8 | 3 => 1 | 4 => 1 | 7 => 8 | _ => 4

def pairBitsA (p : Nat) : Nat := match p with | 3 => 16 | 4 => 16 | _ => 8

def pairBitsB (p : Nat) : Nat := match p with | 1 => 4 | 3 => 16 | 4 => 16 | 7 => 4 | _ => 8

def pairScaled (p : Nat) : Bool := p = 5 || p = 6 || p = 7

/-- The pair accumulates in FP32; the others in INT32. -/
def pairF32 (p : Nat) : Bool := !(p = 0 || p = 1)

/-- The byte ranges of an operand region: rows of `k` elements of `bits` bits (R74). -/
def regionRanges (r : Region) (rows k bits : Nat) (scaled : Bool) : List (Nat × Nat) :=
  (if r.tr then (List.range k).map (fun e => (r.base + e * r.pitch, (rows * bits + 7) / 8))
   else (List.range rows).map (fun i => (r.base + i * r.pitch, (k * bits + 7) / 8))) ++
  (if scaled then (List.range rows).map (fun i => (r.sbase + i * r.spitch, (k + 31) / 32)) else [])

/-- Bytes of one drained row (R83). -/
def drainRowBytes (dfmt n : Nat) : Nat :=
  match dfmt with
  | 0 => 4 * n
  | 1 => 4 * n
  | 2 => 2 * n
  | 3 => 2 * n
  | 4 => n
  | 5 => n
  | 8 => 16
  | _ => 32

def dfmtScaled (f : Nat) : Bool := f = 6 || f = 7 || f = 8

def drainRanges (r : Region) (sh : Shape) : List (Nat × Nat) :=
  (List.range sh.m).map (fun i => (r.base + i * r.pitch, drainRowBytes sh.dfmt sh.n)) ++
  (if dfmtScaled sh.dfmt then (List.range sh.m).map (fun i => (r.sbase + i * r.spitch, 1)) else [])

/-- The ranges of operand buffer A or B that an issued MMA still has to read. -/
def Flight.readsOf (f : Flight) (isA : Bool) : List (Nat × Nat) :=
  match f.d.ins with
  | .mma _ _ opn _ _ _ _ _ _ _ _ _ _ _ _ =>
    if f.reading && opn ≠ 3 then
      let sh := shapeOf f.d.x3
      let k := pairW sh.pair * sh.j
      if isA then f.unread 0 (regionRanges (regionOf f.d.x0) sh.m k (pairBitsA sh.pair) (pairScaled sh.pair))
      else f.unread 1 (regionRanges (regionOf f.d.x1) sh.n k (pairBitsB sh.pair) (pairScaled sh.pair))
    else []
  | _ => []

/-- The ranges of buffer D that an issued drain still has to write. -/
def Flight.drainsTo (f : Flight) : List (Nat × Nat) :=
  match f.d.ins with
  | .mma _ _ _ _ drain _ _ _ _ _ _ _ _ _ _ => if drain then drainRanges (regionOf f.d.x2) (shapeOf f.d.x3) else []
  | _ => []

/-- The map ranges that a drain writes. -/
def Flight.drainMap (f : Flight) : List (Nat × Nat) := f.drainsTo.map (fun r => (0x440000 + r.1, r.2))

def anyMeet (rs : List (Nat × Nat)) (a len : Nat) : Bool := rs.any (fun r => rangesMeet r.1 r.2 a len)

/-- A write into a memory of the core waits under R80 and R110. A bank bound to the vector port holds nothing that Mangle
reads (R94, R176), so NORM, RED and TOPK never meet this. -/
def Core.writeHeld (k : Core) (m : MemSel) (a len : Nat) : Bool :=
  match m with
  | .bufA _ => k.mat.flights.any (fun f => anyMeet (f.readsOf true) a len)
  | .bufB _ => k.mat.flights.any (fun f => anyMeet (f.readsOf false) a len)
  | .cmem _ => k.mgl.flights.any (fun f => anyMeet (f.mglReads k.cmem) a len)
  | _ => false

/-- A read of buffer D waits under R80. -/
def Core.readHeld (k : Core) (m : MemSel) (a len : Nat) : Bool :=
  match m with
  | .bufD _ => k.mat.flights.any (fun f => anyMeet f.drainsTo a len)
  | _ => false

/-! ### Matrix instructions (R77, R82, R154) -/

def tileIdx (q : BitVec 4) (slot : BitVec 2) : Nat := 4 * q.toNat + slot.toNat

/-- Fields of an MMA. -/
structure MmaF where
  q : BitVec 4
  slot : BitVec 2
  opn : BitVec 2
  close : Bool
  drain : Bool
  ta : BitVec 6
  tb : BitVec 6
  td : BitVec 6
  ts : BitVec 6
  ca : Bool
  cb : Bool
  deriving DecidableEq, Repr

def mmaOf : CoreInstr → Option MmaF
  | .mma q slot opn close drain _ _ _ _ ta tb td ts ca cb =>
    some { q := q, slot := slot, opn := opn, close := close, drain := drain, ta := ta, tb := tb, td := td, ts := ts, ca := ca, cb := cb }
  | _ => none

def Flight.onTile (f : Flight) (t : Nat) : Bool := match mmaOf f.d.ins with | some m => tileIdx m.q m.slot = t | none => false

def Flight.onSub (f : Flight) (q : BitVec 4) : Bool := match mmaOf f.d.ins with | some m => m.q = q | none => false

def Flight.hasClose (f : Flight) : Bool := match mmaOf f.d.ins with | some m => m.close | none => false

def Flight.hasDrain (f : Flight) : Bool := match mmaOf f.d.ins with | some m => m.drain | none => false

def Flight.drainOnly (f : Flight) : Bool := match mmaOf f.d.ins with | some m => m.opn = 3 | none => false

/-- An issued accumulation of the tile has still to close. -/
def Core.closing (k : Core) (t : Nat) : Bool := k.mat.flights.any (fun f => f.onTile t && f.hasClose && f.phase = 0)

/-- An issued drain of the tile has still to finish. -/
def Core.draining (k : Core) (t : Nat) : Bool := k.mat.flights.any (fun f => f.onTile t && f.hasDrain)

/-- The hazard waits of R82. -/
def Core.tileWaits (k : Core) (m : MmaF) : Bool :=
  let t := tileIdx m.q m.slot
  match m.opn.toNat with
  | 0 => false
  | 3 => k.closing t
  | _ => k.closing t || k.draining t

/-- The tacks and the queue of R77. -/
def Core.mmaReady (k : Core) (m : MmaF) : Bool :=
  k.tack m.ta && k.tack m.tb && (!m.drain || k.tack m.td) && !k.tileWaits m && decide (k.mat.flights.length < queueDepth .matrix)

/-! ### Mangle, DMA and Wringer instructions (R109, R110, R146, R153, R158, R163) -/

structure MglF where
  op : BitVec 2
  tq : BitVec 6
  cq : Bool
  tk : BitVec 6
  ck : Bool
  td : BitVec 6
  tg : BitVec 6
  ts : BitVec 6
  deriving DecidableEq, Repr

def mglOf : CoreInstr → Option MglF
  | .mgl op _ tq cq tk ck td tg ts => some { op := op, tq := tq, cq := cq, tk := tk, ck := ck, td := td, tg := tg, ts := ts }
  | _ => none

/-- No Mangle instruction issued before still has to write a byte of some ranges (R110). -/
def Core.mglWritten (k : Core) (rs : List (Nat × Nat)) : Bool :=
  k.mgl.flights.all (fun g => rs.all (fun r => !anyMeet g.mglWrites r.1 r.2))

/-- Bytes of an operation's descriptor. -/
def mglLen (op : BitVec 2) : Nat := if 2 ≤ op.toNat then 128 else 64

/-- What an instruction reads at its issue is written: its descriptor, and then the page list that it names (R110). -/
def Core.mglClear (k : Core) (f : MglF) (d : Disp) : Bool :=
  let md := mglDesc (k.cmem.bytes d.x0.toNat 128)
  k.mglWritten [(d.x0.toNat, mglLen f.op)] && k.mglWritten (md.listBytes (md.pages f.op k.cmem))

/-- The issue conditions of R109. -/
def Core.mglReady (k : Core) (f : MglF) : Bool :=
  k.tack f.tq && k.tack f.tk && k.tack f.td && k.tack f.tg && decide (k.mgl.flights.length < queueDepth .mangle)

structure DmaF where
  tw : BitVec 6
  cw : Bool
  ts : BitVec 6
  deriving DecidableEq, Repr

def dmaOf : CoreInstr → Option DmaF
  | .dma _ tw cw ts => some { tw := tw, cw := cw, ts := ts }
  | _ => none

/-- Fields of a Wringer instruction; `comp` for WCMP, `bufA` for a result in buffer A. -/
structure WrgF where
  comp : Bool
  bufA : Bool
  tw : BitVec 6
  cw : Bool
  ts : BitVec 6
  deriving DecidableEq, Repr

def wrgOf : CoreInstr → Option WrgF
  | .wcmp _ _ _ _ tw cw ts => some { comp := true, bufA := false, tw := tw, cw := cw, ts := ts }
  | .wexp _ _ _ _ sp tw cw ts => some { comp := false, bufA := sp, tw := tw, cw := cw, ts := ts }
  | _ => none

/-! ### Vector instructions (R120, R146, R160) -/

/-- The wait tack, its consume bit and the signal tack of a vector instruction. -/
def vecTacks : CoreInstr → BitVec 6 × Bool × BitVec 6
  | .vld _ _ _ _ _ _ tw cw ts => (tw, cw, ts)
  | .vst _ _ _ _ _ _ tw cw ts => (tw, cw, ts)
  | .norm _ tw cw ts => (tw, cw, ts)
  | .red _ _ _ _ _ tw cw ts => (tw, cw, ts)
  | .topk _ _ _ _ _ _ _ tw cw ts => (tw, cw, ts)
  | _ => (0, false, 0)

/-- Whether an instruction uses the vector port. -/
def usesPort : CoreInstr → Bool
  | .vld _ _ _ _ _ _ _ _ _ => true
  | .vst _ _ _ _ _ _ _ _ _ => true
  | .norm _ _ _ _ => true
  | .red _ _ _ _ _ _ _ _ => true
  | .topk _ _ _ _ _ _ _ _ _ _ => true
  | _ => false

/-- Whether an issued instruction holds the vector port (R120). -/
def holdsPort : CoreInstr → Bool
  | .norm _ _ _ _ => true
  | .red _ _ _ _ _ _ _ _ => true
  | .topk _ _ _ _ _ _ _ _ _ _ => true
  | _ => false

/-- Element and scale ranges of VLD and VST: space, element address and bytes, scale address and bytes. -/
def vmemRanges (sp : BitVec 2) (fmt : BitVec 4) (lm1 : BitVec 6) (a sc : DWord) : BitVec 2 × Nat × Nat × Nat × Nat :=
  let l := lm1.toNat + 1
  (sp, a.toNat, (l * fmtBits fmt + 7) / 8, sc.toNat, if fmtScaled fmt then l / 32 else 0)

/-- Where a SPACE lies in a core's map (R181). -/
def spaceMap (sp : BitVec 2) : Nat :=
  match sp.toNat with
  | 0 => 0
  | 1 => 0x400000
  | 2 => 0x420000
  | _ => 0x440000

/-- The map ranges that a VST writes. -/
def storeRanges (sp : BitVec 2) (fmt : BitVec 4) (lm1 : BitVec 6) (a sc : DWord) : List (Nat × Nat) :=
  let r := vmemRanges sp fmt lm1 a sc
  [(spaceMap sp + r.2.1, r.2.2.1)] ++ (if fmtScaled fmt then [(spaceMap sp + r.2.2.2.1, r.2.2.2.2)] else [])

/-- A load or store is held by protection (R80, R120). -/
def Core.vecHeld (k : Core) (n : Nat) (d : Disp) : Bool :=
  match d.ins with
  | .vld _ _ _ fmt sp lm1 _ _ _ =>
    let r := vmemRanges sp fmt lm1 d.x0 d.x1
    k.readHeld (spaceMem n sp) r.2.1 r.2.2.1 || k.readHeld (spaceMem n sp) r.2.2.2.1 r.2.2.2.2
  | .vst _ _ _ fmt sp lm1 _ _ _ =>
    let r := vmemRanges sp fmt lm1 d.x0 d.x1
    k.writeHeld (spaceMem n sp) r.2.1 r.2.2.1 || k.writeHeld (spaceMem n sp) r.2.2.2.1 r.2.2.2.2
  | _ => false

/-- Whether an instruction uses the special-function units: VSF, and GATE with an activation other than none and RELU (R126). -/
def usesSfu : CoreInstr → Bool
  | .gate _ _ _ _ act => act ≠ 0 && act ≠ 0x0F#7
  | .vsf _ _ _ _ _ => true
  | _ => false

/-- Whether an issued instruction holds special-function unit 0 (R120). -/
def holdsSfu : CoreInstr → Bool
  | .norm _ _ _ _ => true
  | _ => false

/-- The vector registers that an instruction takes operands from. -/
def vregsOf : CoreInstr → List (BitVec 6)
  | .vop op _ va vb vc _ _ _ _ =>
    if op = 0x18#6 then [] else if op = 0x03#6 ∨ op = 0x09#6 then [va, vb, vc]
    else if op = 0x17#6 ∨ op = 0x19#6 ∨ op = 0x1A#6 then [va] else [va, vb]
  | .vst vr _ _ _ _ _ _ _ _ => [vr]
  | .gate _ vg vu vp _ => [vg, vu, vp, vp + 1, vp + 2, vp + 3]
  | .vsf _ va _ _ _ => [va]
  | _ => []

/-- The second operand of a VSF of two inputs: DIV, or a micro-program with TWO (R129, R130). -/
def Core.secondVreg (k : Core) : CoreInstr → List (BitVec 6)
  | .vsf _ _ vb func _ =>
    if func = 0x10#7 || k.micro.any (fun p => p.code.toNat = func.toNat && p.two) then [vb] else []
  | _ => []

/-- The vector register that an issued load still has to fill. -/
def loadsReg : CoreInstr → Option (BitVec 6)
  | .vld vr _ _ _ _ _ _ _ _ => some vr
  | _ => none

/-- A wait for the port that NORM, RED or TOPK holds, for the unit that NORM holds, and for an operand that a load still has to
fill (R120). -/
def Core.waitsPort (k : Core) (d : Disp) : Bool := usesPort d.ins && k.vec.flights.any (fun f => holdsPort f.d.ins)

def Core.waitsSfu (k : Core) (d : Disp) : Bool := usesSfu d.ins && k.vec.flights.any (fun f => holdsSfu f.d.ins)

def Core.waitsReg (k : Core) (d : Disp) : Bool :=
  (vregsOf d.ins ++ k.secondVreg d.ins).any (fun v => k.vec.flights.any (fun f => loadsReg f.d.ins = some v))

/-- The head of the vector unit may issue but for protection: its tack is set, its operands are ready, and the port and the units
are free (R120). -/
def Core.vecReady (k : Core) (d : Disp) : Bool :=
  k.tack (vecTacks d.ins).1 && !k.waitsReg d && !k.waitsPort d && !k.waitsSfu d

/-! ### Two instructions that consume one tack (R142) -/

/-- The tacks that an instruction clears when it issues. -/
def consumes (i : CoreInstr) : List (BitVec 6) :=
  let ts := match i with
    | .mma _ _ _ _ drain _ _ _ _ ta tb td _ ca cb =>
      (if ca then [ta] else []) ++ (if cb then [tb] else []) ++ (if drain then [td] else [])
    | .mgl _ _ tq cq tk ck _ _ _ => (if cq then [tq] else []) ++ (if ck then [tk] else [])
    | .dma _ tw cw _ => if cw then [tw] else []
    | .wcmp _ _ _ _ tw cw _ => if cw then [tw] else []
    | .wexp _ _ _ _ _ tw cw _ => if cw then [tw] else []
    | .twait c t => if c then [t] else []
    | .col _ _ _ tw cw _ => if cw then [tw] else []
    | i => if (vecTacks i).2.1 then [(vecTacks i).1] else []
  ts.filter (fun t => t ≠ 0)

/-- The head of a unit meets its issue conditions (Table 3 of R146). -/
def Core.headReady (k : Core) (n : Nat) (u : CoreUnit) (d : Disp) : Bool :=
  match u with
  | .matrix => (match mmaOf d.ins with | some m => k.mmaReady m | none => false)
  | .mangle => (match mglOf d.ins with | some f => k.mglReady f && k.mglClear f d | none => false)
  | .vector => k.vecReady d && !k.vecHeld n d
  | .dma => (match dmaOf d.ins with | some f => k.tack f.tw && decide (k.dma.flights.length < queueDepth .dma) | none => false)
  | .wringer =>
    (match wrgOf d.ins with | some f => k.tack f.tw && decide (k.wrg.flights.length < queueDepth .wringer) | none => false)

/-- No unit's head that stands earlier in program order than `sn` could issue now and consume one of the tacks. -/
def Core.firstTo (k : Core) (n sn : Nat) (ts : List (BitVec 6)) : Bool :=
  allUnits.all (fun u => match (k.unit u).pend with
    | d :: _ => !(decide (d.sn < sn) && (consumes d.ins).any (fun t => ts.contains t) && k.headReady n u d)
    | [] => true)

/-- A unit's head may issue: its unit's conditions hold, and no earlier instruction takes its tack (R142, R146). -/
def Core.mayIssue (k : Core) (n : Nat) (u : CoreUnit) (d : Disp) : Bool :=
  k.headReady n u d && k.firstTo n d.sn (consumes d.ins)

end Sys2Proof.Machine
end

