-- ==== Sys2Proof/Machine/CoreFront.lean ====
section
/-! DEFINITION. The front end of a core (R138, R145, R149 to R152, R168): fetch, decode, the scalar, control and
synchronisation instructions, dispatch, and the events of its waits. -/

namespace Sys2Proof.Machine

/-! ### Fetch and decode -/

inductive Fetched where
  /-- at or beyond the program length (R138) -/
  | beyond
  | refused (opcode : Nat)
  | ins (i : CoreInstr)
  deriving DecidableEq, Repr

def Core.word (k : Core) : DWord := nget 0 k.imem k.pc.toNat

def Core.fetch (k : Core) : Fetched :=
  if k.imemLen ≤ k.pc.toNat then .beyond
  else match decodeWord k.word with
    | none => .refused (k.word.toNat / 2 ^ 56)
    | some i => if vbOk k.micro i then .ins i else .refused (k.word.toNat / 2 ^ 56)

/-- The g registers that an instruction reads or writes (R145). -/
def gregsOf : CoreInstr → List (BitVec 5)
  | .br _ ga gb _ => [ga, gb]
  | .loop g _ => [g]
  | .call _ => [31]
  | .ret => [31]
  | .alu gd ga gb _ => [gd, ga, gb]
  | .alui gd ga _ _ => [gd, ga]
  | .li gd _ => [gd]
  | .sld gd ga _ => [gd, ga]
  | .sst ga gb _ => [ga, gb]
  | .slds gd ga _ => [gd, ga]
  | .ssts ga gb _ => [ga, gb]
  | .csrr gd _ => [gd]
  | .col gaddr gstat _ _ _ _ => [gaddr, gstat]
  | .dma g _ _ _ => [g]
  | .mma _ _ _ _ _ ga gb gd gs _ _ _ _ _ _ => [ga, gb, gd, gs]
  | .mgl _ g _ _ _ _ _ _ _ => [g]
  | .vop op _ _ _ _ gx _ _ _ => if op = 0x18#6 || op = 0x19#6 then [gx] else []
  | .vld _ ga gsc _ _ _ _ _ _ => [ga, gsc]
  | .vst _ ga gsc _ _ _ _ _ _ => [ga, gsc]
  | .norm g _ _ _ => [g]
  | .red _ gd ga gn _ _ _ _ => [gd, ga, gn]
  | .topk _ gin gn gpos gout _ _ _ _ _ => [gin, gn, gpos, gout]
  | .wcmp a b c d _ _ _ => [a, b, c, d]
  | .wexp a b c d _ _ _ _ => [a, b, c, d]
  | _ => []

/-- An instruction that names a pending register waits at the front end (R145). -/
def Core.waitsPending (k : Core) (i : CoreInstr) : Bool := (gregsOf i).any (fun g => k.pendingG.contains g)

/-- A core's clock runs: its island is not gated, neither while empty (R31) nor for its heat (R27, R435). -/
def State.clocked (s : State) (n : Nat) : Bool := !(s.core n).gated && !s.pwr.heatGated.getLsbD n

/-- The front end handles a word: the core exists, runs, is in service, has its clock and waits for nothing. -/
def State.frontReady (s : State) (n : Nat) : Bool :=
  let k := s.core n
  decide (n < s.coreCount) && k.run && k.front = .running && k.fence = .inService && s.clocked n && !s.ras.deviceFault

def Core.advance (k : Core) : Core := { k with pc := k.pc + 1 }
def Core.jump (k : Core) (t : BitVec 13) : Core := { k with pc := t.setWidth 14 }

/-- One word at the front end. `act` gives the effect of the words it is for; any other word is not handled by it. A fetch
beyond the program and a refused word raise ST_BITSTREAM (R138, R148). -/
def State.frontStep (s : State) (n : Nat) (act : Core → CoreInstr → Option State) : State :=
  let k := s.core n
  if s.frontReady n then
    match k.fetch with
    | .beyond => s.exception n stBitstream 0 k.pc.toNat
    | .refused op => s.exception n stBitstream op k.pc.toNat
    | .ins i => if k.waitsPending i then s else (act k i).getD s
  else s

/-! ### Control and scalar instructions (Table 5 of R149) -/

def brTaken (cond : BitVec 3) (a b : DWord) : Bool :=
  match cond.toNat with
  | 0 => a = b
  | 1 => a ≠ b
  | 2 => a.slt b
  | 3 => !a.slt b
  | 4 => a.ult b
  | _ => !a.ult b

/-- 64-bit two's complement, wrapping; a shift count is bits [5:0]. -/
def alu64 (op : BitVec 4) (a b : DWord) : DWord :=
  let n := b.toNat % 64
  match op.toNat with
  | 0 => a + b
  | 1 => a - b
  | 2 => a &&& b
  | 3 => a ||| b
  | 4 => a ^^^ b
  | 5 => a <<< n
  | 6 => a >>> n
  | 7 => a.sshiftRight n
  | 8 => a * b
  | 9 => if a.slt b then a else b
  | 10 => if a.slt b then b else a
  | 11 => if a.ult b then a else b
  | _ => if a.ult b then b else a

def opNop (s : State) (n : Nat) (k : Core) : CoreInstr → Option State
  | .nop => some (s.setCore n k.advance)
  | _ => none

/-- END stops the front end (R168). -/
def opEnd (s : State) (n : Nat) (k : Core) : CoreInstr → Option State
  | .end_ => some (s.setCore n { k with front := .stopped })
  | _ => none

def opJmp (s : State) (n : Nat) (k : Core) : CoreInstr → Option State
  | .jmp t => some (s.setCore n (k.jump t))
  | _ => none

def opBr (s : State) (n : Nat) (k : Core) : CoreInstr → Option State
  | .br c ga gb t => some (s.setCore n (if brTaken c (k.gr ga) (k.gr gb) then k.jump t else k.advance))
  | _ => none

/-- On g0 the write is discarded and the register reads 0 after it, so no jump is taken (log entry 7). -/
def opLoop (s : State) (n : Nat) (k : Core) : CoreInstr → Option State
  | .loop g t =>
    let k1 := k.setG g (k.gr g - 1)
    some (s.setCore n (if k1.gr g ≠ 0 then k1.jump t else k1.advance))
  | _ => none

def opCall (s : State) (n : Nat) (k : Core) : CoreInstr → Option State
  | .call t => some (s.setCore n ((k.setG 31 ((k.pc + 1).setWidth 64)).jump t))
  | _ => none

def opRet (s : State) (n : Nat) (k : Core) : CoreInstr → Option State
  | .ret => some (s.setCore n (k.jump ((k.gr 31).setWidth 13)))
  | _ => none

def opAlu (s : State) (n : Nat) (k : Core) : CoreInstr → Option State
  | .alu gd ga gb op => some (s.setCore n (k.setG gd (alu64 op (k.gr ga) (k.gr gb))).advance)
  | _ => none

def opAlui (s : State) (n : Nat) (k : Core) : CoreInstr → Option State
  | .alui gd ga op imm => some (s.setCore n (k.setG gd (alu64 op (k.gr ga) (imm.signExtend 64))).advance)
  | _ => none

def opLi (s : State) (n : Nat) (k : Core) : CoreInstr → Option State
  | .li gd imm => some (s.setCore n (k.setG gd (imm.setWidth 64)).advance)
  | _ => none

/-- The address of SLD, SST, SLDS and SSTS. -/
def scalarAddr (k : Core) (ga : BitVec 5) (off : BitVec 20) : Nat := (k.gr ga + off.signExtend 64).toNat

/-- An address that SLD and SST may use (R149): a multiple of 8 in a bank bound to the vector port. -/
def Core.scalarOk (k : Core) (a : Nat) : Bool := decide (a % 8 = 0) && k.inPort 1 a 8

def opSld (s : State) (n : Nat) (k : Core) : CoreInstr → Option State
  | .sld gd ga off =>
    let a := scalarAddr k ga off
    let m := MemSel.cmem (BitVec.ofNat 4 n)
    if k.scalarOk a then
      let t := s.touch m a 8
      if t.2 = .clean then
        some (t.1.setCore n (((t.1.core n).setG gd (BitVec.ofNat 64 (leNat ((t.1.ram m).bytes a 8)))).advance))
      else some (t.1.exception n t.2.status 0x13 k.pc.toNat)
    else some (s.exception n stBounds 0x13 k.pc.toNat)
  | _ => none

def opSst (s : State) (n : Nat) (k : Core) : CoreInstr → Option State
  | .sst ga gb off =>
    let a := scalarAddr k ga off
    if k.scalarOk a then
      some (((s.writeRam (.cmem (BitVec.ofNat 4 n)) a (toLE 8 (k.gr gb).toNat)).note n true [(a, 8)]).modCore n Core.advance)
    else some (s.exception n stBounds 0x14 k.pc.toNat)
  | _ => none

/-! ### Shared memory (R173, R181, Table 4) -/

def shmSize : Nat := 0x2000000

/-- Partition kinds of Table 4 of R181. -/
def kindWork : Nat := 1
def kindRing : Nat := 2
def kindCodec : Nat := 3
def kindArgs : Nat := 4

/-- The partition register that holds a 64 KiB unit of shared memory for a bitstream slot. -/
def State.partOf (s : State) (slot : Option (BitVec 3)) (unit : Nat) : Option (Nat × Part) :=
  if slot.isSome then
    s.parts.find? (fun e => e.2.slot = slot && decide (e.2.base ≤ unit) && decide (unit < e.2.base + e.2.size))
  else none

/-- Every byte of a range of shared memory lies in partitions of the slot whose kind is permitted (R181). -/
def State.shmOk (s : State) (slot : Option (BitVec 3)) (kinds : List Nat) (off len : Nat) : Bool :=
  decide (0 < len) && decide (off + len ≤ shmSize) &&
  (List.range ((off + len - 1) / 0x10000 - off / 0x10000 + 1)).all (fun i =>
    match s.partOf slot (off / 0x10000 + i) with
    | some p => kinds.contains p.2.kind.toNat
    | none => false)

/-- The shared-memory offset of an SLDS or SSTS address. -/
def shmOffset (a : Nat) : Option Nat := if shmBase ≤ a ∧ a + 8 ≤ shmBase + shmSize ∧ a % 8 = 0 then some (a - shmBase) else none

/-- The lowest tag that is neither in use nor orphaned (R466). -/
def State.freshTag (s : State) : BitVec 16 :=
  let used := s.ras.tags.map (·.1.toNat) ++ s.ras.orphans.map (·.toNat)
  BitVec.ofNat 16 (((List.range (used.length + 1)).find? (fun t => !used.contains t)).getD 0)

def State.takeTag (s : State) (n : Nat) : State :=
  { s with ras := { s.ras with tags := s.ras.tags ++ [(s.freshTag, BitVec.ofNat 4 n)] } }

def dropFirst {α : Type} (p : α → Bool) : List α → List α
  | [] => []
  | x :: t => if p x then t else x :: dropFirst p t

/-- The pending registers once a result has come for one; g0 is never pending (R145). -/
def arriveG (g : BitVec 5) (l : List (BitVec 5)) : List (BitVec 5) := if g = 0 then l else dropFirst (· = g) l

/-- One of a core's tags returns to the pool. -/
def State.giveTag (s : State) (n : Nat) : State :=
  { s with ras := { s.ras with tags := dropFirst (fun t => t.2.toNat = n) s.ras.tags } }

/-- SLDS: the register is pending until the data comes (R145). -/
def opSlds (s : State) (n : Nat) (k : Core) : CoreInstr → Option State
  | .slds gd ga off =>
    match shmOffset (scalarAddr k ga off) with
    | some o =>
      if s.shmOk k.slot [kindWork, kindArgs] o 8 then
        some ((s.setCore n { k.advance with pendingG := if gd = 0 then k.pendingG else k.pendingG ++ [gd],
                                            slds := k.slds ++ [(gd, o, k.pc.setWidth 13)] }).takeTag n)
      else some (s.exception n stBounds 0x15 k.pc.toNat)
    | none => some (s.exception n stBounds 0x15 k.pc.toNat)
  | _ => none

/-- SSTS: posted to shared memory. -/
def opSsts (s : State) (n : Nat) (k : Core) : CoreInstr → Option State
  | .ssts ga gb off =>
    match shmOffset (scalarAddr k ga off) with
    | some o =>
      if s.shmOk k.slot [kindWork] o 8 then
        some (((s.writeRam .shm o (toLE 8 (k.gr gb).toNat)).note n true [(shmBase + o, 8)]).modCore n Core.advance)
      else some (s.exception n stBounds 0x16 k.pc.toNat)
    | none => some (s.exception n stBounds 0x16 k.pc.toNat)
  | _ => none

/-- g3 and the CTX CSR (R140). -/
def State.ctxWord (s : State) (k : Core) : DWord :=
  match k.cmd with
  | some r => BitVec.ofNat 64 (r.ctx.toNat + 256 * boolNat (s.ctx r.ctx.toNat).cls)
  | none => 0

/-- The CSRs of R150; CYCLE counts core cycles, whose number in model time is a free value (log entry 3). -/
def opCsrr (s : State) (n : Nat) (k : Core) : CoreInstr → Option State
  | .csrr gd csr =>
    match csr.toNat with
    | 0 => some (s.setCore n (k.setG gd (BitVec.ofNat 64 (boolNat k.sat))).advance)
    | 1 =>
      let d := s.drawBits 64
      some (d.2.setCore n (k.setG gd d.1).advance)
    | 2 => some (s.setCore n (k.setG gd (BitVec.ofNat 64 (n + 256 * s.ridge n))).advance)
    | _ => some (s.setCore n (k.setG gd (s.ctxWord k)).advance)
  | _ => none

/-! ### Synchronisation (R151, R152) -/

def opTset (s : State) (n : Nat) (k : Core) : CoreInstr → Option State
  | .tset t => some (s.setCore n (k.setTack t).advance)
  | _ => none

def opTclr (s : State) (n : Nat) (k : Core) : CoreInstr → Option State
  | .tclr t => some (s.setCore n (k.clrTack t).advance)
  | _ => none

/-- TWAIT passes a set tack, and otherwise leaves the front end waiting. -/
def opTwait (s : State) (n : Nat) (k : Core) : CoreInstr → Option State
  | .twait c t =>
    some (s.setCore n (if k.tack t && k.firstTo n k.nextSn (consumes (.twait c t)) then (k.consume c t).advance else { k with front := .tack t c }))
  | _ => none

/-- A Col channel of a bitstream in which a core takes part (R152). -/
def State.colAllowed (s : State) (n : Nat) (k : Core) (key : Nat) : Bool :=
  let c := s.chan key
  k.slot.isSome && c.slot = k.slot && c.mask.getLsbD n

/-- Kinds of a channel record (Table 6 of R340): 0 barrier, 1 broadcast, 2 snapshot. -/
def colBroadcast (c : Chan) : Bool := c.kind = 1
def colSnapshot (c : Chan) : Bool := c.kind = 2
/-- Bytes at a participant's GADDR: the broadcast's, or 8 for each counter that SNAP selects (R341). -/
def colBytes (c : Chan) : Nat :=
  if colBroadcast c then c.len.toNat
  else if colSnapshot c then 8 * ((List.range 3).filter (fun i => c.src.getLsbD i)).length
  else 0

/-- A sealed context without ULINK may not arrive at a system-scope broadcast (R418). -/
def State.colKeyless (s : State) (k : Core) (c : Chan) : Bool :=
  colBroadcast c && c.scope = 2 &&
  (match k.cmd with | some r => (s.ctx r.ctx.toNat).sealed_ && !(s.ctx r.ctx.toNat).ulink | none => false)

/-- COL (R152): refused off its channel; it waits for TW, arrives, and waits for release. A participant of an operation
that has not released yet waits before it arrives (R32). A broadcast's source reads its data at arrival. -/
def opCol (s : State) (n : Nat) (k : Core) : CoreInstr → Option State
  | .col gaddr gstat ch tw cw ts =>
    let key := s.chanOf n ch
    let c := s.chan key
    let addr := k.gr gaddr
    if !s.colAllowed n k key then some (s.exception n stBitstream 0x23 k.pc.toNat)
    else if !k.tack tw || !k.firstTo n k.nextSn (consumes (.col gaddr gstat ch tw cw ts)) then some s
    else if c.cancelled then
      let k1 := { (k.consume cw tw) with front := Front.col (BitVec.ofNat 3 (key / 16)) (BitVec.ofNat 4 key) addr gstat ts }
      some ((s.setCore n k1).colFenced n)
    else if c.arrived.getLsbD n then some s
    else if s.colKeyless k c then some (s.exception n stKey 0x23 k.pc.toNat)
    else
      let len := colBytes c
      let bad := decide (0 < len) && !k.inPort 1 addr.toNat len
      if bad then some (s.exception n stBounds 0x23 k.pc.toNat)
      else
        let src := colBroadcast c && c.src.toNat = n
        let m := MemSel.cmem (BitVec.ofNat 4 n)
        let t := if src then s.touch m addr.toNat len else (s, .clean)
        if t.2 ≠ .clean then some (t.1.exception n t.2.status 0x23 k.pc.toNat)
        else
          let data := if src then (t.1.ram m).bytes addr.toNat len else c.data
          let s1 := t.1.setChan key { c with arrived := c.arrived ||| ((1#16) <<< n), data := data }
          some (s1.modCore n (fun k =>
            { (k.consume cw tw) with front := .col (BitVec.ofNat 3 (key / 16)) (BitVec.ofNat 4 key) addr gstat ts }))
  | _ => none

/-! ### Dispatch (R145, R146) -/

/-- The operands that an instruction reads at dispatch. -/
def dispatchOf (k : Core) (i : CoreInstr) : Disp :=
  let d := fun (a b c e : DWord) => ({ sn := k.nextSn, pc := k.pc.setWidth 13, ins := i, x0 := a, x1 := b, x2 := c, x3 := e } : Disp)
  match i with
  | .dma g _ _ _ => d (k.gr g) 0 0 0
  | .mma _ _ _ _ _ ga gb gd gs _ _ _ _ _ _ => d (k.gr ga) (k.gr gb) (k.gr gd) (k.gr gs)
  | .mgl _ g _ _ _ _ _ _ _ => d (k.gr g) 0 0 0
  | .vop _ _ _ _ _ gx _ _ _ => d (k.gr gx) 0 0 0
  | .vld _ ga gsc _ _ _ _ _ _ => d (k.gr ga) (k.gr gsc) 0 0
  | .vst _ ga gsc _ _ _ _ _ _ => d (k.gr ga) (k.gr gsc) 0 0
  | .norm g _ _ _ => d (k.gr g) 0 0 0
  | .red _ _ ga gn _ _ _ _ => d (k.gr ga) (k.gr gn) 0 0
  | .topk _ gin gn gpos gout _ _ _ _ _ => d (k.gr gin) (k.gr gn) (k.gr gpos) (k.gr gout)
  | .wcmp a b c e _ _ _ => d (k.gr a) (k.gr b) (k.gr c) (k.gr e)
  | .wexp a b c e _ _ _ _ => d (k.gr a) (k.gr b) (k.gr c) (k.gr e)
  | _ => d 0 0 0 0

/-- The register that a dispatched instruction leaves pending (R145). -/
def pendingOf : CoreInstr → List (BitVec 5)
  | .vop op _ _ _ _ gx _ _ _ => if op = 0x19#6 ∧ gx ≠ 0 then [gx] else []
  | .red _ gd _ _ _ _ _ _ => if gd ≠ 0 then [gd] else []
  | _ => []

/-- Whether the unit's pending buffer has room. -/
def Core.hasRoom (k : Core) (u : CoreUnit) : Bool := decide ((k.unit u).pend.length < pendDepth)

/-- The core after an instruction has entered its unit's pending buffer. -/
def Core.dispatch (k : Core) (u : CoreUnit) (i : CoreInstr) : Core :=
  let x := k.unit u
  ({ k.advance with nextSn := k.nextSn + 1, pendingG := k.pendingG ++ pendingOf i }).setUnit u
    { x with pend := x.pend ++ [dispatchOf k i] }

/-- A USIG at the head of the pending buffer leaves it without an issue (R144, R146). -/
def UnitSt.liftUsigs (fuel : Nat) (x : UnitSt) : UnitSt :=
  match fuel with
  | 0 => x
  | f + 1 =>
    match x.pend with
    | d :: t =>
      (match d.ins with
      | .usig _ tk => UnitSt.liftUsigs f { x with pend := t, usigs := x.usigs ++ [(d.sn, tk)] }
      | _ => x)
    | [] => x

def Core.liftUsigs (k : Core) (u : CoreUnit) : Core := k.setUnit u ((k.unit u).liftUsigs 5)

def opUsig (s : State) (n : Nat) (k : Core) : CoreInstr → Option State
  | .usig u tk => some (if k.hasRoom u then s.setCore n ((k.dispatch u (.usig u tk)).liftUsigs u) else s)
  | _ => none

/-- Every instruction of the unit before a place in program order has released, and with it every term and drain (R144). -/
def UnitSt.quietBefore (x : UnitSt) (sn : Nat) : Bool :=
  x.flights.all (fun f => decide (sn < f.d.sn)) && x.pend.all (fun d => decide (sn < d.sn))

/-! ### Meanings of the core-instruction rows -/

def execNop (c : BitVec 4) (s : State) : Host.Outcome State Fault Refusal := .next (s.frontStep c.toNat (opNop s c.toNat))
def execEnd (c : BitVec 4) (s : State) : Host.Outcome State Fault Refusal := .next (s.frontStep c.toNat (opEnd s c.toNat))
def execJmp (c : BitVec 4) (s : State) : Host.Outcome State Fault Refusal := .next (s.frontStep c.toNat (opJmp s c.toNat))
def execBr (c : BitVec 4) (s : State) : Host.Outcome State Fault Refusal := .next (s.frontStep c.toNat (opBr s c.toNat))
def execLoop (c : BitVec 4) (s : State) : Host.Outcome State Fault Refusal := .next (s.frontStep c.toNat (opLoop s c.toNat))
def execCall (c : BitVec 4) (s : State) : Host.Outcome State Fault Refusal := .next (s.frontStep c.toNat (opCall s c.toNat))
def execRet (c : BitVec 4) (s : State) : Host.Outcome State Fault Refusal := .next (s.frontStep c.toNat (opRet s c.toNat))
def execAlu (c : BitVec 4) (s : State) : Host.Outcome State Fault Refusal := .next (s.frontStep c.toNat (opAlu s c.toNat))
def execAlui (c : BitVec 4) (s : State) : Host.Outcome State Fault Refusal := .next (s.frontStep c.toNat (opAlui s c.toNat))
def execLi (c : BitVec 4) (s : State) : Host.Outcome State Fault Refusal := .next (s.frontStep c.toNat (opLi s c.toNat))
def execSld (c : BitVec 4) (s : State) : Host.Outcome State Fault Refusal := .next (s.frontStep c.toNat (opSld s c.toNat))
def execSst (c : BitVec 4) (s : State) : Host.Outcome State Fault Refusal := .next (s.frontStep c.toNat (opSst s c.toNat))
def execSlds (c : BitVec 4) (s : State) : Host.Outcome State Fault Refusal := .next (s.frontStep c.toNat (opSlds s c.toNat))
def execSsts (c : BitVec 4) (s : State) : Host.Outcome State Fault Refusal := .next (s.frontStep c.toNat (opSsts s c.toNat))
def execCsrr (c : BitVec 4) (s : State) : Host.Outcome State Fault Refusal := .next (s.frontStep c.toNat (opCsrr s c.toNat))
def execTset (c : BitVec 4) (s : State) : Host.Outcome State Fault Refusal := .next (s.frontStep c.toNat (opTset s c.toNat))
def execTclr (c : BitVec 4) (s : State) : Host.Outcome State Fault Refusal := .next (s.frontStep c.toNat (opTclr s c.toNat))
def execTwait (c : BitVec 4) (s : State) : Host.Outcome State Fault Refusal := .next (s.frontStep c.toNat (opTwait s c.toNat))
def execCol (c : BitVec 4) (s : State) : Host.Outcome State Fault Refusal := .next (s.frontStep c.toNat (opCol s c.toNat))
def execUsig (c : BitVec 4) (s : State) : Host.Outcome State Fault Refusal := .next (s.frontStep c.toNat (opUsig s c.toNat))

/-- The data of the oldest SLDS of a register arrives (R145, R169). -/
def execSldsReturn (c : BitVec 4) (gd : BitVec 5) (s : State) : Host.Outcome State Fault Refusal :=
  let n := c.toNat
  match (s.core n).slds.find? (fun e => e.1 = gd) with
  | none => .next s
  | some e =>
    let t := s.touch .shm e.2.1 8
    let s1 := (t.1.modCore n (fun k =>
      { k with slds := dropFirst (fun e => e.1 = gd) k.slds, pendingG := arriveG gd k.pendingG })).giveTag n
    if t.2 = .clean then .next (s1.modCore n (·.setG gd (BitVec.ofNat 64 (leNat (s1.shm.bytes e.2.1 8)))))
    else .next (s1.exception n t.2.status 0x15 e.2.2.toNat)

/-- The front end sees the tack that TWAIT waits for (R145, R151). -/
def execTwaitWake (c : BitVec 4) (s : State) : Host.Outcome State Fault Refusal :=
  let k := s.core c.toNat
  match k.front with
  | .tack tk consume =>
    if k.tack tk && k.firstTo c.toNat k.nextSn (consumes (.twait consume tk)) then .next (s.setCore c.toNat { (k.consume consume tk).advance with front := .running }) else .next s
  | _ => .next s

/-- A USIG whose earlier instructions have all reached their points sets its tack (R144). -/
def execUsigSignal (c : BitVec 4) (u : CoreUnit) (s : State) : Host.Outcome State Fault Refusal :=
  let k := s.core c.toNat
  let x := k.unit u
  match x.usigs with
  | (sn, tk) :: t =>
    if x.quietBefore sn then .next (s.setCore c.toNat ((k.setUnit u { x with usigs := t }).setTack tk)) else .next s
  | [] => .next s

end Sys2Proof.Machine
end

