-- ==== Sys2Proof/Machine/Fp.lean ====
section
/-! DEFINITION. Number formats and arithmetic (R39 to R65): exact values, one rounding to nearest even, the pairwise
sum, the order of extremes and top-k, the cascade's addition and the block quantiser. -/

namespace Sys2Proof

/-! ### Formats (R40) -/

def fmtF32 : Fmt := { ew := 8, fw := 23, bias := 127, ieee := true, topNan := false }
def fmtBf16 : Fmt := { ew := 8, fw := 7, bias := 127, ieee := true, topNan := false }
def fmtF16 : Fmt := { ew := 5, fw := 10, bias := 15, ieee := true, topNan := false }
def fmtE4m3 : Fmt := { ew := 4, fw := 3, bias := 7, ieee := false, topNan := true }
def fmtE5m2 : Fmt := { ew := 5, fw := 2, bias := 15, ieee := true, topNan := false }
def fmtE2m1 : Fmt := { ew := 2, fw := 1, bias := 1, ieee := false, topNan := false }

/-- The code of +∞ where the format has one. -/
def Fmt.infCode (f : Fmt) : Nat := (2 ^ f.ew - 1) * 2 ^ f.fw

/-- The code of the largest finite number. -/
def Fmt.maxCode (f : Fmt) : Nat :=
  if f.ieee then f.infCode - 1 else if f.topNan then 2 ^ (f.ew + f.fw) - 2 else 2 ^ (f.ew + f.fw) - 1

/-- The canonical NaN of R45. -/
def Fmt.nanCode (f : Fmt) : Nat :=
  if f.ieee then (if f.ew = 5 ∧ f.fw = 2 then 0x7F else f.infCode + 2 ^ (f.fw - 1)) else 2 ^ (f.ew + f.fw) - 1

/-- Sign bit weight. -/
def Fmt.signCode (f : Fmt) (neg : Bool) : Nat := if neg then 2 ^ (f.ew + f.fw) else 0

/-- The value of a code (R40). -/
def Fmt.dec (f : Fmt) (code : Nat) : FV :=
  let mag := code % 2 ^ (f.ew + f.fw)
  let neg := code / 2 ^ (f.ew + f.fw) % 2 = 1
  let ex := mag / 2 ^ f.fw
  let fr := mag % 2 ^ f.fw
  if f.ieee ∧ mag = f.infCode then .inf neg
  else if f.ieee ∧ f.infCode < mag then .nan
  else if f.topNan ∧ mag = 2 ^ (f.ew + f.fw) - 1 then .nan
  else if ex = 0 then .fin neg fr (1 - f.bias - f.fw)
  else .fin neg (2 ^ f.fw + fr) ((ex : Int) - f.bias - f.fw)

/-- `m / 2 ^ sh` to nearest, ties to even. -/
def rneShift (m sh : Nat) : Nat :=
  let q := m / 2 ^ sh
  let r := m % 2 ^ sh
  if sh = 0 then q
  else if 2 ^ (sh - 1) < r ∨ (r = 2 ^ (sh - 1) ∧ q % 2 = 1) then q + 1 else q

/-- `m * 2 ^ e` as an integer, to nearest, ties to even. -/
def rneInt (m : Nat) (e : Int) : Nat :=
  if 0 ≤ e then m * 2 ^ e.toNat else rneShift m (-e).toNat

/-- The magnitude code of `m * 2 ^ e`, rounded once (R44, R47); the caller treats what lies above `maxCode`. -/
def Fmt.magCode (f : Fmt) (m : Nat) (e : Int) : Nat :=
  if m = 0 then 0
  else
    let ex := max (e + (Nat.log2 m : Int)) (1 - f.bias)
    let mant := rneInt m (e - (ex - f.fw))
    ((ex + f.bias - 1) * (2 ^ f.fw : Nat)).toNat + mant

/-- Round to a format; out of range gives ±∞ (R47). -/
def Fmt.enc (f : Fmt) (v : FV) : Nat :=
  match v with
  | .nan => f.nanCode
  | .inf neg => f.signCode neg + f.infCode
  | .fin neg m e => f.signCode neg + min (f.magCode m e) f.infCode

/-- Round to a format; out of range and ±∞ give the largest finite number (R47). -/
def Fmt.encSat (f : Fmt) (v : FV) : Nat :=
  match v with
  | .nan => f.nanCode
  | .inf neg => f.signCode neg + f.maxCode
  | .fin neg m e => f.signCode neg + min (f.magCode m e) f.maxCode

/-! ### Exact operations on values -/

def FV.isNan : FV → Bool
  | .nan => true
  | _ => false

def FV.isZero : FV → Bool
  | .fin _ m _ => m = 0
  | _ => false

def FV.neg : FV → Bool
  | .nan => false
  | .inf n => n
  | .fin n _ _ => n

def FV.flip : FV → FV
  | .nan => .nan
  | .inf n => .inf !n
  | .fin n m e => .fin (!n) m e

def FV.ofInt (z : Int) : FV := .fin (z < 0) z.natAbs 0

/-- The value times a power of two, exact. -/
def FV.scale (v : FV) (k : Int) : FV :=
  match v with
  | .fin n m e => .fin n m (e + k)
  | x => x

def FV.mul (a b : FV) : FV :=
  match a, b with
  | .nan, _ => .nan
  | _, .nan => .nan
  | .inf n, .inf n' => .inf (n != n')
  | .inf n, .fin n' m _ => if m = 0 then .nan else .inf (n != n')
  | .fin n m _, .inf n' => if m = 0 then .nan else .inf (n != n')
  | .fin n m e, .fin n' m' e' => .fin (n != n') (m * m') (e + e')

/-- Exact sum; a zero sum is +0 unless both addends are -0 (R46); ∞ - ∞ is NaN (R45). -/
def FV.add (a b : FV) : FV :=
  match a, b with
  | .nan, _ => .nan
  | _, .nan => .nan
  | .inf n, .inf n' => if n = n' then .inf n else .nan
  | .inf n, .fin _ _ _ => .inf n
  | .fin _ _ _, .inf n => .inf n
  | .fin n m e, .fin n' m' e' =>
    let lo := min e e'
    let x : Int := (m * 2 ^ (e - lo).toNat : Nat)
    let y : Int := (m' * 2 ^ (e' - lo).toNat : Nat)
    let z := (if n then -x else x) + (if n' then -y else y)
    if z = 0 then .fin (n && n' && m = 0 && m' = 0) 0 0 else .fin (z < 0) z.natAbs lo

/-! ### FP32 -/

def nan32 : Word := 0x7FC00000#32
def posInf32 : Word := 0x7F800000#32
def negInf32 : Word := 0xFF800000#32
def one32 : Word := 0x3F800000#32
/-- NEG_BIG, -2 ^ 120 (R38, R105). -/
def negBig : Word := 0xFB800000#32

def val32 (w : Word) : FV := fmtF32.dec w.toNat
def rnd32 (v : FV) : Word := BitVec.ofNat 32 (fmtF32.enc v)
def isNan32 (w : Word) : Bool := (val32 w).isNan
def isZero32 (w : Word) : Bool := (w &&& 0x7FFFFFFF#32) = 0

def fadd (a b : Word) : Word := rnd32 ((val32 a).add (val32 b))
def fneg (a : Word) : Word := a ^^^ 0x80000000#32
def fsub (a b : Word) : Word := rnd32 ((val32 a).add (val32 b).flip)
def fmul (a b : Word) : Word := rnd32 ((val32 a).mul (val32 b))
/-- One rounding (R47). -/
def ffma (a b c : Word) : Word := rnd32 (((val32 a).mul (val32 b)).add (val32 c))

/-- The order of R63 and R64 as an integer: ±0 is 0, NaN ranks below -∞. -/
def fkey (w : Word) : Int :=
  if isNan32 w then -0x80000000
  else if w.msb then -((w &&& 0x7FFFFFFF#32).toNat : Int) else (w.toNat : Int)

def flt (a b : Word) : Bool := !isNan32 a && !isNan32 b && decide (fkey a < fkey b)
def fle (a b : Word) : Bool := !isNan32 a && !isNan32 b && decide (fkey a ≤ fkey b)
def feq (a b : Word) : Bool := !isNan32 a && !isNan32 b && decide (fkey a = fkey b)

/-- VMIN and VMAX (R119): equal operands, ±0 among them, give operand a. -/
def fmin (a b : Word) : Word := if isNan32 a || isNan32 b then nan32 else if fkey b < fkey a then b else a
def fmax (a b : Word) : Word := if isNan32 a || isNan32 b then nan32 else if fkey a < fkey b then b else a

def ofInt32 (z : Int) : Word := rnd32 (.ofInt z)

/-- The pairwise sum of R62; the fuel bounds the depth, 20 levels for 1,048,576 values. -/
def psumFuel : Nat → List Word → Word
  | 0, xs => xs.headD 0
  | k + 1, xs =>
    match xs with
    | [] => 0
    | [x] => x
    | _ =>
      let m := 2 ^ Nat.log2 (xs.length - 1)
      fadd (psumFuel k (xs.take m)) (psumFuel k (xs.drop m))

def psum (xs : List Word) : Word := psumFuel 64 xs

/-! ### Conversions (Table 3 of R47) -/

def toBf16 (w : Word) : BitVec 16 := BitVec.ofNat 16 (fmtBf16.enc (val32 w))
def toF16 (w : Word) : BitVec 16 := BitVec.ofNat 16 (fmtF16.enc (val32 w))
def toE4m3 (w : Word) : Byte := BitVec.ofNat 8 (fmtE4m3.encSat (val32 w))
def toE5m2 (w : Word) : Byte := BitVec.ofNat 8 (fmtE5m2.encSat (val32 w))
def ofBf16 (h : BitVec 16) : Word := rnd32 (fmtBf16.dec h.toNat)
def ofF16 (h : BitVec 16) : Word := rnd32 (fmtF16.dec h.toNat)
def ofE4m3 (b : Byte) : Word := rnd32 (fmtE4m3.dec b.toNat)
def ofE5m2 (b : Byte) : Word := rnd32 (fmtE5m2.dec b.toNat)
def ofI8 (b : Byte) : Word := ofInt32 b.toInt

/-- A value as an integer clamped to a range: RNE, NaN gives 0, ±∞ clamps. -/
def FV.toIntClamp (v : FV) (lo hi : Int) : Int :=
  match v with
  | .nan => 0
  | .inf n => if n then lo else hi
  | .fin n m e =>
    let q : Int := (rneInt m e : Nat)
    max lo (min hi (if n then -q else q))

def toI8 (w : Word) : Byte := BitVec.ofInt 8 ((val32 w).toIntClamp (-128) 127)

/-- Rounding to BF16 and back. -/
def bf16Round (w : Word) : Word := ofBf16 (toBf16 w)

/-! ### Block formats (R41, R60) -/

/-- Element formats of blocks. -/
inductive MxElem where
  | e2m1
  | e4m3
  | e5m2
  | mxint8
  deriving DecidableEq, Repr

def MxElem.emax : MxElem → Int
  | .e2m1 => 2
  | .e4m3 => 8
  | .e5m2 => 15
  | .mxint8 => 0

/-- The value of an element before its scale (Table 2 of R41). -/
def MxElem.val (f : MxElem) (code : Nat) : FV :=
  match f with
  | .e2m1 => fmtE2m1.dec code
  | .e4m3 => fmtE4m3.dec code
  | .e5m2 => fmtE5m2.dec code
  | .mxint8 => (FV.ofInt (BitVec.ofNat 8 code).toInt).scale (-6)

/-- An element of a block times its scale; a scale of 0xFF gives NaN (R45, R52). -/
def mxVal (f : MxElem) (scale : Byte) (code : Nat) : FV :=
  if scale = 0xFF#8 then .nan else (f.val code).scale ((scale.toNat : Int) - 127)

/-- Step 4 of R60: one element for scale exponent X. -/
def MxElem.quant (f : MxElem) (x : Int) (v : FV) : Nat :=
  match f with
  | .e2m1 => fmtE2m1.encSat (v.scale (-x))
  | .e4m3 => fmtE4m3.encSat (v.scale (-x))
  | .e5m2 => fmtE5m2.encSat (v.scale (-x))
  | .mxint8 => (BitVec.ofInt 8 ((v.scale (6 - x)).toIntClamp (-127) 127)).toNat

/-- floor(log2 |v|) of a finite nonzero value. -/
def FV.log2Floor (v : FV) : Int :=
  match v with
  | .fin _ m e => (Nat.log2 m : Int) + e
  | _ => 0

def FV.isFinite : FV → Bool
  | .fin _ _ _ => true
  | _ => false

/-- The largest floor(log2 |v|) of the nonzero values of a block of finite values, none for all zeros. -/
def maxLog2 (vs : List FV) : Option Int :=
  vs.foldl (fun acc v =>
    if v.isZero then acc else match acc with | none => some v.log2Floor | some a => some (max a v.log2Floor)) none

/-- The quantiser of R60 over at most 32 values, padded by R61: the scale byte and 32 element codes. -/
def mxQuant (f : MxElem) (ws : List Word) : Byte × List Nat :=
  let vs := ws.map val32
  if vs.any (fun v => !v.isFinite) then (0xFF#8, ws.map (fun _ => 0))
  else match maxLog2 vs with
    | none => (0x7F#8, ws.map (fun _ => 0))
    | some l =>
      let x := max (-127) (min 127 (l - f.emax))
      (BitVec.ofInt 8 (x + 127), vs.map (f.quant x))

/-! ### Extremes and top-k (R63, R64) -/

/-- The lowest position of the extreme of a nonempty list under R63; `big` asks for the maximum. -/
def extreme (big : Bool) (xs : List Word) : Word × Nat :=
  match xs.findIdx? isNan32 with
  | some p => (nan32, p)
  | none =>
    let r := xs.foldl (fun (acc : Option (Word × Nat) × Nat) x =>
      let best := match acc.1 with
        | none => some (x, acc.2)
        | some (b, p) => if (if big then fkey b < fkey x else fkey x < fkey b) then some (x, acc.2) else some (b, p)
      (best, acc.2 + 1)) (none, 0)
    r.1.getD (0, 0)

/-- Whether pair a comes before pair b in R64. -/
def topBefore (a b : Word × Word) : Bool :=
  if fkey a.1 = fkey b.1 then decide (a.2.toNat < b.2.toNat) else decide (fkey b.1 < fkey a.1)

/-- A pair in its place. Pairs of equal values, or two NaNs, at one supplied position, which R64 leaves in no order, keep the order
of the input (DESIGN CHOICE, log entry 86). -/
def topInsert (x : Word × Word) : List (Word × Word) → List (Word × Word)
  | [] => [x]
  | y :: t => if topBefore x y then x :: y :: t else y :: topInsert x t

/-- A value that a reduction returns: a NaN as the canonical one (R45; log entry 84). -/
def canonNan (w : Word) : Word := if isNan32 w then nan32 else w

/-- R64: the first k pairs in order, filled with (NEG_BIG, 0xFFFF_FFFF). -/
def topK (k : Nat) (ps : List (Word × Word)) : List (Word × Word) :=
  let best := (ps.foldl (fun acc x => (topInsert x acc).take k) []).map (fun p => (canonNan p.1, p.2))
  best ++ List.replicate (k - best.length) (negBig, 0xFFFFFFFF#32)

/-! ### The cascade (R57) and INT32 accumulation (R55) -/

/-- Place a carry into the cascade from a level upwards; the result is the new stack, and the carry out of level 7. -/
def cascadeUp (stack : List (Option Word)) (c : Word) : List (Option Word) × Option Word :=
  match stack with
  | [] => ([], some c)
  | none :: t => (some c :: t, none)
  | some x :: t => let r := cascadeUp t (fadd x c); (none :: r.1, r.2)

/-- The stack with its eight levels written out. -/
def fullStack (st : List (Option Word)) : List (Option Word) := (st ++ List.replicate 8 none).take 8

/-- Trailing empty levels dropped, so that an empty stack is the empty list. -/
def trimStack (st : List (Option Word)) : List (Option Word) :=
  (st.reverse.dropWhile (fun x => x = none)).reverse

/-- add_term of R57 on a running value and stack. -/
def addTerm (a : Word) (stack : List (Option Word)) (x : Word) : Word × List (Option Word) :=
  let r := cascadeUp (fullStack stack) x
  (match r.2 with | none => a | some c => fadd a c, trimStack r.1)

/-- close of R57: the highest level first. -/
def closeStack (a : Word) (stack : List (Option Word)) : Word :=
  match stack.reverse.filterMap id with
  | [] => a
  | p :: t => fadd a (t.foldl fadd p)

/-- Saturating INT32 addition; the flag tells a clamp (R55). -/
def satAdd (a : Word) (beat : Int) : Word × Bool :=
  let z := a.toInt + beat
  let c := max (-2147483648) (min 2147483647 z)
  (BitVec.ofInt 32 c, decide (c ≠ z))

end Sys2Proof
end

