-- ==== Sys2Proof/Machine/Sfu.lean ====
section
/-! DEFINITION. The special functions of Table 5 (R129) and the micro-programs of R130 to R133. Division, reciprocal
and roots are exact integer arithmetic; the others are evaluated with 640 fraction bits and rounded once
(log entry 6: that this precision decides every rounding is UNVERIFIED). -/

namespace Sys2Proof

/-! ### Exact quotients and roots -/

def isqrtLoop : Nat → Nat → Nat → Nat
  | 0, _, x => x
  | k + 1, n, x => let y := (x + n / x) / 2; if x ≤ y then x else isqrtLoop k n y

/-- The integer square root, by Newton's steps from above. -/
def isqrt (n : Nat) : Nat := if n = 0 then 0 else isqrtLoop (Nat.log2 n + 8) n (2 ^ (Nat.log2 n / 2 + 1))

/-- `a / b` with a sticky last bit, enough bits for any single rounding to FP32. -/
def quot (neg : Bool) (m : Nat) (e : Int) (m' : Nat) (e' : Int) : FV :=
  let k := 64 + Nat.log2 m'
  let q := m * 2 ^ k / m'
  let r := m * 2 ^ k % m'
  .fin neg (2 * q + (if r = 0 then 0 else 1)) (e - e' - k - 1)

/-- IEEE division (Table 5, DIV). -/
def FV.div (a b : FV) : FV :=
  match a, b with
  | .nan, _ => .nan
  | _, .nan => .nan
  | .inf _, .inf _ => .nan
  | .inf n, .fin n' _ _ => .inf (n != n')
  | .fin n _ _, .inf n' => .fin (n != n') 0 0
  | .fin n m e, .fin n' m' e' =>
    if m' = 0 then (if m = 0 then .nan else .inf (n != n'))
    else if m = 0 then .fin (n != n') 0 0 else quot (n != n') m e m' e'

/-- The square root of a positive `m * 2 ^ e`, with a sticky last bit. -/
def sqrtPos (m : Nat) (e : Int) : FV :=
  let odd := e % 2 = 1
  let m2 := if odd then 2 * m else m
  let e2 := if odd then e - 1 else e
  let n := m2 * 2 ^ 96
  let r := isqrt n
  .fin false (2 * r + (if r * r = n then 0 else 1)) (e2 / 2 - 48 - 1)

/-- 1 / √x of a positive `m * 2 ^ e`: the root of a quotient whose remainder is kept as a sticky bit. -/
def rsqrtPos (m : Nat) (e : Int) : FV :=
  let odd := e % 2 = 1
  let m2 := if odd then 2 * m else m
  let e2 := if odd then e - 1 else e
  let n := 2 ^ 192 / m2
  let r := isqrt n
  .fin false (2 * r + (if r * r * m2 = 2 ^ 192 then 0 else 1)) (-(e2 / 2) - 96 - 1)

/-! ### Fixed-point evaluation with `fxP` fraction bits -/

def fxP : Nat := 640

def fxMul (a b : Int) : Int := a * b / (2 ^ fxP : Nat)
def fxDiv (a b : Int) : Int := a * (2 ^ fxP : Nat) / b

/-- An exact dyadic as fixed point; exact for every FP32 value. -/
def fxOf (neg : Bool) (m : Nat) (e : Int) : Int :=
  let v : Int := (rneInt m (e + (fxP : Int)) : Nat)
  if neg then -v else v

/-- A fixed-point number as a value, times a power of two. -/
def fxVal (x : Int) (k : Int) : FV := .fin (x < 0) x.natAbs (k - (fxP : Int))

/-- Sum over odd n of ± t^n / n with `t = 1 / q`: atan (`alt`) or atanh. -/
def invSeries : Nat → Bool → Bool → Int → Nat → Nat → Int
  | 0, _, _, _, _, _ => 0
  | k + 1, alt, neg, p, q2, n =>
    if p = 0 then 0
    else (if neg then -(p / n) else p / n) + invSeries k alt (alt && !neg) (p / q2) q2 (n + 2)

def atanhInv (q : Nat) : Int := invSeries 400 false false ((2 ^ fxP : Nat) / q) (q * q) 1
def atanInv (q : Nat) : Int := invSeries 400 true false ((2 ^ fxP : Nat) / q) (q * q) 1

/-- ln 2 = 18 atanh(1/26) - 2 atanh(1/4801) + 8 atanh(1/8749). -/
def fxLn2 : Int := 18 * atanhInv 26 - 2 * atanhInv 4801 + 8 * atanhInv 8749

/-- π = 16 atan(1/5) - 4 atan(1/239). -/
def fxPi : Int := 16 * atanInv 5 - 4 * atanInv 239

/-- Sum of the power series whose term n + 1 is term n times `w / d n`, with `d n = (s n + 1) ...` given by steps. -/
def facSeries : Nat → Int → Int → Nat → Nat → Int
  | 0, _, _, _, _ => 0
  | k + 1, t, w, n, step =>
    if t = 0 then 0
    else
      let d := if step = 1 then n + 1 else (n + 1) * (n + 2)
      t + facSeries k (fxMul t w / d) w (n + step) step

/-- e ^ r for a small fixed-point r. -/
def fxExpSmall (r : Int) : Int := facSeries 300 (2 ^ fxP : Nat) r 0 1

/-- e ^ x as a fixed-point number and a power of two. -/
def fxExp (x : Int) : Int × Int :=
  let n := (2 * x + fxLn2) / (2 * fxLn2)
  (fxExpSmall (x - n * fxLn2), n)

/-- e ^ x for x ≤ 0, as fixed point. -/
def fxExpNeg (x : Int) : Int :=
  let r := fxExp x
  r.1 / (2 ^ (-r.2).toNat : Nat)

/-- atanh z = z + z^3/3 + ... for a fixed-point z. -/
def atanhSeries : Nat → Int → Int → Nat → Int
  | 0, _, _, _ => 0
  | k + 1, p, z2, n => if p = 0 then 0 else p / n + atanhSeries k (fxMul p z2) z2 (n + 2)

/-- ln of a positive `m * 2 ^ e` as ln y and E, for y in [3/4, 3/2) and the value y * 2 ^ E. -/
def lnParts (m : Nat) (e : Int) : Int × Int :=
  let l := Nat.log2 m
  let y0 := m * 2 ^ fxP / 2 ^ l
  let up := 3 * 2 ^ fxP ≤ 2 * y0
  let y : Int := ((if up then y0 / 2 else y0 : Nat) : Int)
  let ex : Int := e + l + (if up then 1 else 0)
  let one : Int := (2 ^ fxP : Nat)
  let z := fxDiv (y - one) (y + one)
  (2 * atanhSeries 400 z (fxMul z z) 1, ex)

/-- sin(π r) for a fixed-point r in [0, 1/2]. -/
def sinPiSmall (r : Int) : Int :=
  let t := fxMul fxPi r
  facSeries 200 t (-(fxMul t t)) 1 2

/-- sin(π r) for a fixed-point r in [0, 2). -/
def sinPiFx (r : Int) : Int :=
  let one : Int := (2 ^ fxP : Nat)
  let s := if r < one then r else r - one
  let v := sinPiSmall (if 2 * s ≤ one then s else one - s)
  if r < one then v else -v

/-- Sum of v w^n / (3 5 ... (2n + 1)). -/
def oddSeries : Nat → Int → Int → Nat → Int
  | 0, _, _, _ => 0
  | k + 1, t, w, n => if t = 0 then 0 else t + oddSeries k (fxMul t w / (n + 2)) w (n + 2)

def fxSqrt (x : Int) : Int := (isqrt (x.toNat * 2 ^ fxP) : Nat)

/-- erf t = 2 / √π · e^(-t²) · Σ t (2 t²)^n / (2n + 1)!!, for t ≥ 0. -/
def fxErfPos (t : Int) : Int :=
  let t2 := fxMul t t
  fxDiv (2 * fxMul (fxExpNeg (-t2)) (oddSeries 1000 t (2 * t2) 1)) (fxSqrt fxPi)

/-- Φ(x) = 1/2 ± φ-series, for x ≥ 0 the upper sign. -/
def fxPhi (x : Int) : Int :=
  let a : Int := x.natAbs
  let x2 := fxMul a a
  let g := fxDiv (fxMul (fxExpNeg (-(x2 / 2))) (oddSeries 1000 a x2 1)) (fxSqrt (2 * fxPi))
  let half : Int := (2 ^ (fxP - 1) : Nat)
  if x < 0 then half - g else half + g

/-- 1 / (1 + e^-x). -/
def fxSigmoid (x : Int) : Int :=
  let one : Int := (2 ^ fxP : Nat)
  let e := fxExpNeg (-(x.natAbs : Int))
  if x < 0 then fxDiv e (one + e) else fxDiv one (one + e)

/-- Whether |m * 2 ^ e| is at least 2 ^ k. -/
def atLeastPow (m : Nat) (e : Int) (k : Int) : Bool := m ≠ 0 && decide (k ≤ e + (Nat.log2 m : Int))

/-- Whether the value is an integer. -/
def isIntDy (m : Nat) (e : Int) : Bool := decide (0 ≤ e) || decide (m % 2 ^ (-e).toNat = 0)

/-- The value modulo 2 as fixed point in [0, 2). -/
def modTwo (neg : Bool) (m : Nat) (e : Int) : Int := fxOf neg m e % (2 ^ (fxP + 1) : Nat)

/-! ### The functions by code (Table 5) -/

def fvOne : FV := .fin false 1 0
def fvZero (neg : Bool) : FV := .fin neg 0 0

def sfExp2 (v : FV) : FV :=
  match v with
  | .nan => .nan
  | .inf n => if n then fvZero false else .inf false
  | .fin n m e =>
    if m = 0 then fvOne
    else
      let x := fxOf n m e
      let one : Int := (2 ^ fxP : Nat)
      if atLeastPow m e 20 || decide (x ≤ -150 * one) || decide (128 * one ≤ x) then
        (if n then fvZero false else .inf false)
      else
        let k := x / one
        fxVal (fxExpSmall (fxMul (x - k * one) fxLn2)) k

def sfExp (v : FV) : FV :=
  match v with
  | .nan => .nan
  | .inf n => if n then fvZero false else .inf false
  | .fin n m e =>
    if m = 0 then fvOne
    else if atLeastPow m e 7 then (if n then fvZero false else .inf false)
    else let r := fxExp (fxOf n m e); fxVal r.1 r.2

def sfLog (two : Bool) (v : FV) : FV :=
  match v with
  | .nan => .nan
  | .inf n => if n then .nan else .inf false
  | .fin n m e =>
    if m = 0 then .inf true
    else if n then .nan
    else
      let r := lnParts m e
      fxVal (if two then fxDiv r.1 fxLn2 + r.2 * (2 ^ fxP : Nat) else r.1 + r.2 * fxLn2) 0

def sfRsqrt (v : FV) : FV :=
  match v with
  | .nan => .nan
  | .inf n => if n then .nan else fvZero false
  | .fin n m e => if m = 0 then .inf n else if n then .nan else rsqrtPos m e

def sfSqrt (v : FV) : FV :=
  match v with
  | .nan => .nan
  | .inf n => if n then .nan else .inf false
  | .fin n m e => if m = 0 then fvZero n else if n then .nan else sqrtPos m e

def sfSinpi (v : FV) : FV :=
  match v with
  | .fin n m e =>
    if m = 0 then fvZero n
    else if isIntDy m e then fvZero n
    else fxVal (sinPiFx (modTwo n m e)) 0
  | _ => .nan

def sfCospi (v : FV) : FV :=
  match v with
  | .fin n m e =>
    if isIntDy m (e + 1) && !isIntDy m e then fvZero false
    else
      let half : Int := (2 ^ (fxP - 1) : Nat)
      fxVal (sinPiFx ((modTwo n m e + half) % (2 ^ (fxP + 1) : Nat))) 0
  | _ => .nan

def sfTanh (v : FV) : FV :=
  match v with
  | .nan => .nan
  | .inf n => .fin n 1 0
  | .fin n m e =>
    if m = 0 then fvZero n
    else if atLeastPow m e 6 then .fin n 1 0
    else
      let one : Int := (2 ^ fxP : Nat)
      let q := fxExpNeg (-2 * fxOf false m e)
      let t := fxDiv (one - q) (one + q)
      fxVal (if n then -t else t) 0

def sfSigmoid (v : FV) : FV :=
  match v with
  | .nan => .nan
  | .inf n => if n then fvZero false else fvOne
  | .fin n m e =>
    if atLeastPow m e 7 then (if n then fvZero false else fvOne)
    else fxVal (fxSigmoid (fxOf n m e)) 0

def sfSilu (v : FV) : FV :=
  match v with
  | .nan => .nan
  | .inf n => if n then fvZero true else .inf false
  | .fin n m e =>
    if m = 0 then fvZero n
    else if atLeastPow m e 8 then (if n then fvZero true else .fin n m e)
    else .fin n (m * (fxSigmoid (fxOf n m e)).toNat) (e - (fxP : Int))

def sfGelu (v : FV) : FV :=
  match v with
  | .nan => .nan
  | .inf n => if n then fvZero true else .inf false
  | .fin n m e =>
    if m = 0 then fvZero n
    else if atLeastPow m e 4 then (if n then fvZero true else .fin n m e)
    else .fin n (m * (fxPhi (fxOf n m e)).toNat) (e - (fxP : Int))

def sfErf (v : FV) : FV :=
  match v with
  | .nan => .nan
  | .inf n => .fin n 1 0
  | .fin n m e =>
    if m = 0 then fvZero n
    else if atLeastPow m e 3 then .fin n 1 0
    else let t := fxErfPos (fxOf false m e); fxVal (if n then -t else t) 0

/-- A built-in function of one input by its code (Table 5), before its rounding; codes that name none give NaN. -/
def builtinVal (code : Nat) (v : FV) : FV :=
  match code with
  | 0x01 => sfExp2 v
  | 0x02 => sfExp v
  | 0x03 => sfLog true v
  | 0x04 => sfLog false v
  | 0x05 => fvOne.div v
  | 0x06 => sfRsqrt v
  | 0x07 => sfSqrt v
  | 0x08 => sfSinpi v
  | 0x09 => sfCospi v
  | 0x0A => sfTanh v
  | 0x0B => sfSigmoid v
  | 0x0C => sfSilu v
  | 0x0D => sfGelu v
  | 0x0E => sfErf v
  | _ => .nan

def builtin1 (code : Nat) (a : Word) : Word := rnd32 (builtinVal code (val32 a))
def fdiv (a b : Word) : Word := rnd32 ((val32 a).div (val32 b))
def fexp2 (a : Word) : Word := builtin1 0x01 a
def frsqrt (a : Word) : Word := builtin1 0x06 a

/-! ### Micro-program steps (R132) -/

/-- The largest integer at most the value. -/
def floorDy (neg : Bool) (m : Nat) (e : Int) : Int :=
  let q := if 0 ≤ e then m * 2 ^ e.toNat else m / 2 ^ (-e).toNat
  if neg then (if isIntDy m e then -(q : Int) else -(q : Int) - 1) else (q : Int)

/-- FLOOR; a zero result of a positive number is +0, and a NaN stays as it is (Table 7). -/
def stFloor (a : Word) : Word :=
  match val32 a with
  | .nan => a
  | .inf _ => a
  | .fin n m e => if isIntDy m e then a else ofInt32 (floorDy n m e)

def stExpo (a : Word) : Word :=
  match val32 a with
  | .nan => nan32
  | .inf _ => posInf32
  | .fin _ m e => if m = 0 then negBig else ofInt32 (e + (Nat.log2 m : Int))

def stMant (a : Word) : Word :=
  match val32 a with
  | .nan => nan32
  | .inf _ => nan32
  | .fin n m _ => if m = 0 then 0 else rnd32 (.fin n m (-(Nat.log2 m : Int)))

/-- floor(ub) clamped to a range; ±∞ clamps. -/
def floorClamp (b : Word) (lo hi : Int) : Int :=
  match val32 b with
  | .nan => 0
  | .inf n => if n then lo else hi
  | .fin n m e =>
    if atLeastPow m e 30 then (if n then lo else hi) else max lo (min hi (floorDy n m e))

def stScale (a b : Word) : Word :=
  if isNan32 b then nan32 else rnd32 ((val32 a).scale (floorClamp b (-300) 300))

/-- Lane state of a micro-program: u0 to u7 and the flag. -/
structure MicroLane where
  u : List Word
  f : Bool
  deriving DecidableEq, Repr

/-- One step other than END (Table 7). ABS, NEG and CPSGN of a NaN give the canonical NaN: Table 7 changes only the sign there, and
R45 gives the canonical NaN to an operation with a NaN operand (DESIGN CHOICE, log entry 84). -/
def microStep (table : NMap Word) (l : MicroLane) (w : Word) : MicroLane :=
  let op := (w >>> 26).toNat
  let d := (w >>> 23).toNat % 8
  let a := l.u.getD ((w >>> 20).toNat % 8) 0
  let b := l.u.getD ((w >>> 17).toNat % 8) 0
  let c := l.u.getD ((w >>> 14).toNat % 8) 0
  let imm := w.toNat % 2 ^ 14
  let look := fun (k : Nat) => ((table.find? (fun e => e.1 = k)).map (·.2)).getD (0 : Word)
  let put := fun (x : Word) => { l with u := l.u.set d x }
  match op with
  | 0x01 => put (fadd a b)
  | 0x02 => put (fsub a b)
  | 0x03 => put (fmul a b)
  | 0x04 => put (ffma a b c)
  | 0x05 => put (fmin a b)
  | 0x06 => put (fmax a b)
  | 0x07 => put (if isNan32 a then nan32 else a &&& 0x7FFFFFFF#32)
  | 0x08 => put (if isNan32 a then nan32 else fneg a)
  | 0x09 => put (if isNan32 a || isNan32 b then nan32 else (a &&& 0x7FFFFFFF#32) ||| (b &&& 0x80000000#32))
  | 0x0A => put (stFloor a)
  | 0x0B => put (stExpo a)
  | 0x0C => put (stMant a)
  | 0x0D => put (stScale a b)
  | 0x0E => put (look imm)
  | 0x0F => put (look (min 1023 (imm + (floorClamp a 0 1023).toNat)))
  | 0x10 => { l with f := flt a b }
  | 0x11 => { l with f := fle a b }
  | 0x12 => { l with f := feq a b }
  | 0x13 => put (if l.f then a else b)
  | 0x14 => put (builtin1 imm a)
  | 0x15 => put (fdiv a b)
  | _ => l

/-- A micro-program on one lane (R133): its code's flags and overrides, its steps and the table. Of FLAGS bits [4:1], which R131
gives to +∞, −∞, +0 and −0 in that order, bit 1 is taken for +∞ and bit 4 for −0 (DEDUCED, log entry 85). -/
def microRun (flags : BitVec 8) (pinf ninf pzero nzero : Word) (steps : List Word) (table : NMap Word)
    (a b : Word) : Word :=
  let two := flags.getLsbD 0
  if isNan32 a || (two && isNan32 b) then nan32
  else if !two && flags.getLsbD 1 && a = posInf32 then pinf
  else if !two && flags.getLsbD 2 && a = negInf32 then ninf
  else if !two && flags.getLsbD 3 && a = 0 then pzero
  else if !two && flags.getLsbD 4 && a = 0x80000000#32 then nzero
  else
    let l0 : MicroLane := { u := [a, (if two then b else 0), 0, 0, 0, 0, 0, 0], f := false }
    (((steps.takeWhile (fun (w : Word) => decide (w >>> 26 ≠ 0#32))).foldl (microStep table) l0).u.headD 0)

end Sys2Proof
end

