-- ==== Sys2Proof/Machine/CoreVector.lean ====
section
/-! DEFINITION. The vector unit (R116 to R129, R159 to R162): lane operations, loads and stores, the gated activation,
special functions, fused normalisation and streamed reductions, with their issue. -/

namespace Sys2Proof.Machine

/-! ### Lane operations (Table 1 of R118, Table 12 of R159) -/

def maskOf (b : Bool) : Word := if b then 0xFFFFFFFF#32 else 0

/-- Saturating INT32 (R118): the result and whether it clamped. -/
def clamp32 (z : Int) : Word × Bool :=
  let c := max (-2147483648) (min 2147483647 z)
  (BitVec.ofInt 32 c, decide (c ≠ z))

/-- VCVT (R159): a narrow value sits in the low bits of the lane (R117). -/
def vcvt (f t : BitVec 4) (a : Word) : Word :=
  match f.toNat, t.toNat with
  | 0, 2 => (toBf16 a).setWidth 32
  | 0, 3 => (toF16 a).setWidth 32
  | 0, 4 => (toE4m3 a).setWidth 32
  | 0, 5 => (toE5m2 a).setWidth 32
  | 0, 6 => (toI8 a).setWidth 32
  | 1, 0 => ofInt32 a.toInt
  | 2, 0 => ofBf16 (a.setWidth 16)
  | 3, 0 => ofF16 (a.setWidth 16)
  | 4, 0 => ofE4m3 (a.setWidth 8)
  | 5, 0 => ofE5m2 (a.setWidth 8)
  | _, _ => ofI8 (a.setWidth 8)

/-- One lane of a lane operation that reads only its own lane; the flag tells a clamp of VSADD or VSSUB. -/
def laneOp (op : BitVec 6) (f t : BitVec 4) (a b c : Word) : Word × Bool :=
  let sh := b.toNat % 32
  match op.toNat with
  | 0x00 => (fadd a b, false)
  | 0x01 => (fsub a b, false)
  | 0x02 => (fmul a b, false)
  | 0x03 => (ffma a b c, false)
  | 0x04 => (fmin a b, false)
  | 0x05 => (fmax a b, false)
  | 0x06 => (maskOf (flt a b), false)
  | 0x07 => (maskOf (fle a b), false)
  | 0x08 => (maskOf (feq a b), false)
  | 0x09 => (if c ≠ 0 then a else b, false)
  | 0x0A => (a + b, false)
  | 0x0B => (a - b, false)
  | 0x0C => (a * b, false)
  | 0x0D => clamp32 (a.toInt + b.toInt)
  | 0x0E => clamp32 (a.toInt - b.toInt)
  | 0x0F => (if b.slt a then b else a, false)
  | 0x10 => (if a.slt b then b else a, false)
  | 0x11 => (a &&& b, false)
  | 0x12 => (a ||| b, false)
  | 0x13 => (a ^^^ b, false)
  | 0x14 => (a <<< sh, false)
  | 0x15 => (a >>> sh, false)
  | 0x16 => (a.sshiftRight sh, false)
  | _ => (vcvt f t a, false)

/-- A lane operation on whole registers; VBCAST, VEXT and VLROT are lane movement. -/
def Core.laneMove (k : Core) (op : BitVec 6) (vd va vb vc : BitVec 6) (gx : BitVec 5) (sh : BitVec 6)
    (f t : BitVec 4) (x : DWord) : Core :=
  if op = 0x18#6 then k.setLanes vd (List.replicate 64 (x.setWidth 32))
  else if op = 0x19#6 then
    { (k.setG gx ((k.lane va sh.toNat).setWidth 64)) with pendingG := arriveG gx k.pendingG }
  else if op = 0x1A#6 then
    k.setLanes vd ((List.range 64).map (fun j => k.lane va ((j + 64 - sh.toNat) % 64)))
  else
    let rs := (List.range 64).map (fun i => laneOp op f t (k.lane va i) (k.lane vb i) (k.lane vc i))
    { (k.setLanes vd (rs.map (·.1))) with sat := k.sat || rs.any (·.2) }

/-! ### Formats of loads and stores (R121, R160) -/

def fmtElem (f : BitVec 4) : MxElem := if f = 7 then .mxint8 else if f = 8 then .e4m3 else .e2m1

/-- The code of element i of packed elements of a width (R42). -/
def elemCode (bs : List Byte) (bits i : Nat) : Nat :=
  if bits = 4 then (byteAt bs (i / 2) / 2 ^ (4 * (i % 2))) % 16 else leAt bs (i * (bits / 8)) (bits / 8)

/-- Element codes packed into bytes (R42). -/
def packCodes (bits : Nat) (cs : List Nat) : List Byte :=
  if bits = 4 then
    (List.range ((cs.length + 1) / 2)).map (fun j => BitVec.ofNat 8 (cs.getD (2 * j) 0 % 16 + 16 * (cs.getD (2 * j + 1) 0 % 16)))
  else (cs.map (toLE (bits / 8))).flatten

/-- The lane value of a loaded element without a scale. -/
def widen (f : BitVec 4) (code : Nat) : Word :=
  match f.toNat with
  | 0 => BitVec.ofNat 32 code
  | 1 => BitVec.ofNat 32 code
  | 2 => ofBf16 (BitVec.ofNat 16 code)
  | 3 => ofF16 (BitVec.ofNat 16 code)
  | 4 => ofE4m3 (BitVec.ofNat 8 code)
  | 5 => ofE5m2 (BitVec.ofNat 8 code)
  | _ => ofI8 (BitVec.ofNat 8 code)

/-- The element code that a lane is stored as without a scale. -/
def narrow (f : BitVec 4) (w : Word) : Nat :=
  match f.toNat with
  | 0 => w.toNat
  | 1 => w.toNat
  | 2 => (toBf16 w).toNat
  | 3 => (toF16 w).toNat
  | 4 => (toE4m3 w).toNat
  | 5 => (toE5m2 w).toNat
  | _ => (toI8 w).toNat

/-- Values quantised in blocks of 32: all element codes (padded to whole blocks) and the scale bytes (R60, R61). -/
def quantBlocks (f : MxElem) (ws : List Word) (blocks : Nat) : List Nat × List Byte :=
  let qs := (List.range blocks).map (fun b =>
    let v := (ws.drop (32 * b)).take 32
    mxQuant f (v ++ List.replicate (32 - v.length) 0))
  ((qs.map (·.2)).flatten, qs.map (·.1))

/-- Lanes of a load: element bytes, scale bytes. -/
def loadLanes (f : BitVec 4) (l : Nat) (es ss : List Byte) : List Word :=
  (List.range l).map (fun i =>
    let c := elemCode es (fmtBits f) i
    if fmtScaled f then rnd32 (mxVal (fmtElem f) (ss.getD (i / 32) 0) c) else widen f c)

/-- Bytes of a store: element bytes, scale bytes. -/
def storeBytes (f : BitVec 4) (ws : List Word) : List Byte × List Byte :=
  if fmtScaled f then
    let q := quantBlocks (fmtElem f) ws (ws.length / 32)
    (packCodes (fmtBits f) q.1, q.2)
  else (packCodes (fmtBits f) (ws.map (narrow f)), [])

/-! ### Spaces and bounds -/

/-- A range is inside vector-port banks or inside the named buffer. -/
def Core.spaceOk (k : Core) (n : Nat) (sp : BitVec 2) (a len : Nat) : Bool :=
  if sp = 0 then k.inPort 1 a len else decide (a + len ≤ memSize (spaceMem n sp))

/-! ### Byte ranges that issued instructions protect (R80, R110, R154 to R156) -/

/-! ### Fused normalisation (R123, R124) -/

structure NormDesc where
  xbase : Nat
  gbase : Nat
  bbase : Nat
  ybase : Nat
  ysbase : Nat
  n : Nat
  eps : Word
  rows : Nat
  layer : Bool
  xfmt : Nat
  gfmt : Nat
  yfmt : Nat
  rest : Nat
  xpitch : Nat
  ypitch : Nat
  yspitch : Nat
  tail : List Byte
  deriving DecidableEq, Repr

def normDesc (b : List Byte) : NormDesc :=
  let fl := leAt b 0x1E 2
  { xbase := leAt b 0 4, gbase := leAt b 4 4, bbase := leAt b 8 4, ybase := leAt b 0xC 4, ysbase := leAt b 0x10 4,
    n := leAt b 0x14 4, eps := w32 (leAt b 0x18 4), rows := leAt b 0x1C 2, layer := fl % 2 = 1, xfmt := fl / 2 % 4,
    gfmt := fl / 8 % 4, yfmt := fl / 32 % 8, rest := fl / 256, xpitch := leAt b 0x20 4, ypitch := leAt b 0x24 4,
    yspitch := leAt b 0x28 4, tail := bytesAt b 0x2C 20 }

/-- Ranges and codes of Table 3; a descriptor that fails ends the command with ST_BITSTREAM. -/
def NormDesc.ok (d : NormDesc) : Bool :=
  decide (1 ≤ d.n) && decide (d.n ≤ 32768) && decide (1 ≤ d.rows) && decide (d.rows ≤ 32) && decide (d.xfmt ≤ 1) &&
  decide (d.gfmt ≤ 2) && decide (d.yfmt ≤ 4) && d.rest = 0 && d.xpitch % 64 = 0 && d.ypitch % 64 = 0 && allZero d.tail

def NormDesc.xBytes (d : NormDesc) : Nat := d.n * (if d.xfmt = 0 then 4 else 2)
def NormDesc.gBytes (d : NormDesc) : Nat := d.n * (if d.gfmt = 0 then 4 else 2)
def NormDesc.blocks (d : NormDesc) : Nat := (d.n + 31) / 32
/-- Bytes of one output row; a block-scaled row is written in whole blocks (R61 and the example of R125). -/
def NormDesc.yBytes (d : NormDesc) : Nat :=
  match d.yfmt with
  | 0 => 4 * d.n
  | 1 => 2 * d.n
  | 4 => 16 * d.blocks
  | _ => 32 * d.blocks

/-- The regions read, then the regions written. -/
def NormDesc.reads (d : NormDesc) : List (Nat × Nat) :=
  (List.range d.rows).map (fun r => (d.xbase + r * d.xpitch, d.xBytes)) ++
  (if d.gfmt = 2 then [] else [(d.gbase, d.gBytes)] ++ (if d.layer then [(d.bbase, d.gBytes)] else []))
def NormDesc.writes (d : NormDesc) : List (Nat × Nat) :=
  (List.range d.rows).map (fun r => (d.ybase + r * d.ypitch, d.yBytes)) ++
  (if 2 ≤ d.yfmt then (List.range d.rows).map (fun r => (d.ysbase + r * d.yspitch, d.blocks)) else [])

/-- Elements in FP32 or BF16 as FP32. -/
def f32List (m : Ram) (a n : Nat) (bf : Bool) : List Word :=
  let bs := m.bytes a (n * (if bf then 2 else 4))
  (List.range n).map (fun i => if bf then ofBf16 (BitVec.ofNat 16 (elemCode bs 16 i)) else BitVec.ofNat 32 (elemCode bs 32 i))

/-- One row of NORM (R124). -/
def normRow (layer : Bool) (n : Nat) (eps : Word) (xs : List Word) (g b : Option (List Word)) : List Word :=
  let nf := ofInt32 n
  if layer then
    let mu := fdiv (psum xs) nf
    let dl := xs.map (fun x => fsub x mu)
    let vr := fdiv (psum (dl.map (fun d => fmul d d))) nf
    let r := frsqrt (fadd vr eps)
    match g with
    | none => dl.map (fun d => fmul d r)
    | some gs => (dl.zip (gs.zip (b.getD []))).map (fun p => ffma (fmul p.1 r) p.2.1 p.2.2)
  else
    let ms := fdiv (psum (xs.map (fun x => fmul x x))) nf
    let r := frsqrt (fadd ms eps)
    match g with
    | none => xs.map (fun x => fmul x r)
    | some gs => (xs.zip gs).map (fun p => fmul (fmul p.1 r) p.2)

def yElem (f : Nat) : MxElem := if f = 2 then .mxint8 else if f = 3 then .e4m3 else .e2m1

/-- Row r written in YFMT. -/
def normWriteRow (m : Ram) (d : NormDesc) (r : Nat) (ys : List Word) : Ram :=
  let a := d.ybase + r * d.ypitch
  match d.yfmt with
  | 0 => m.write a (packCodes 32 (ys.map (·.toNat)))
  | 1 => m.write a (packCodes 16 (ys.map (fun y => (toBf16 y).toNat)))
  | _ =>
    let q := quantBlocks (yElem d.yfmt) ys d.blocks
    (m.write a (packCodes (if d.yfmt = 4 then 4 else 8) q.1)).write (d.ysbase + r * d.yspitch) q.2

/-- NORM on a core memory, row after row: an output row may be an input of a later one. -/
def normRun (m : Ram) (d : NormDesc) : Ram :=
  (List.range d.rows).foldl (fun m r =>
    let xs := f32List m (d.xbase + r * d.xpitch) d.n (d.xfmt = 1)
    let g := if d.gfmt = 2 then none else some (f32List m d.gbase d.n (d.gfmt = 1))
    let b := if d.gfmt = 2 || !d.layer then none else some (f32List m d.bbase d.n (d.gfmt = 1))
    normWriteRow m d r (normRow d.layer d.n d.eps xs g b)) m

/-! ### Special functions and micro-programs on lanes -/

/-- The loaded micro-program of a code (R130). -/
def Core.microOf (k : Core) (code : Nat) : Option Micro := k.micro.find? (fun p => p.code.toNat = code)
def Core.runMicro (k : Core) (p : Micro) (a b : Word) : Word :=
  microRun p.flags p.pinf p.ninf p.pzero p.nzero p.steps k.mtable a b

/-- Passes of a built-in (Table 5 of R129). -/
def passesOf (code : Nat) : Nat := if code = 0 ∨ code = 0x0F then 0 else if code < 8 then 1 else 2

/-- Passes of a micro-program (R132). -/
def Micro.passes (p : Micro) : Nat :=
  (p.steps.map (fun (w : Word) => match (w >>> 26).toNat with | 0 => 0 | 0x14 => passesOf (w.toNat % 2 ^ 14) | 0x15 => 2 | _ => 1)).foldl (· + ·) 0

/-- Core cycles in which a unit grants lanes: passes × ceil(Lk / 4) of the fullest group (R128). -/
def sfuCycles (passes l : Nat) : Nat := passes * ((min l 16 + 3) / 4)

/-- Where a unit's pointer stands once every one of the first `lk` lanes of its group has been granted in order from it, with
wrap-around, in each of the passes (R127): it comes back to a requesting lane that is not the lowest, and stands after the highest
otherwise. -/
def grantPass (lk p : Nat) : Nat := if lk = 0 ∨ (0 < p ∧ p < lk) then p else lk % 16

/-- The grant pointers after an instruction on the first `l` lanes (R127). NORM names no lane, and leaves them (log entry 88). -/
def Core.grant (k : Core) (passes l : Nat) : Core :=
  if passes = 0 then k
  else { k with grants := (List.range 4).map (fun u => grantPass (min 16 (l - 16 * u)) (k.grants.getD u 0)) }

def reluOf (h : Word) : Word := if isNan32 h then nan32 else if 0 < fkey h then h else 0

/-- The activation of GATE by its code (R126). -/
def Core.actOf (k : Core) (code : Nat) (h : Word) : Word :=
  if code = 0 then h
  else if code = 0x0F then reluOf h
  else if code < 0x0F then builtin1 code h
  else match k.microOf code with | some p => k.runMicro p h 0 | none => h

def gateLane (k : Core) (act : Nat) (g u sg bg su bu : Word) : Word :=
  fmul (k.actOf act (ffma g sg bg)) (ffma u su bu)

/-- One lane of VSF. -/
def vsfLane (k : Core) (func : Nat) (a b : Word) : Word :=
  if func = 0x10 then fdiv a b
  else if func < 0x10 then builtin1 func a
  else match k.microOf func with | some p => k.runMicro p a b | none => a

/-! ### Issue -/

/-- The core once the head has left the pending buffer and consumed its tack. -/
def Core.vecPop (k : Core) (d : Disp) : Core :=
  let t := vecTacks d.ins
  ({ k with vec := { k.vec with pend := k.vec.pend.drop 1, wait := false } }.consume t.2.1 t.1).liftUsigs .vector

def newFlight (d : Disp) (desc : List Byte) : Flight := { d := d, desc := desc, phase := 0, blk := 0, reading := false, fed := [], seen := none, hits := [], ue := false }
def Core.addFlight (k : Core) (u : CoreUnit) (f : Flight) : Core :=
  let x := k.unit u
  k.setUnit u { x with flights := x.flights ++ [f] }

/-- VLD (R121): loaded lanes replace the first L lanes. -/
def vldEffect (s : State) (n : Nat) (d : Disp) (vr : BitVec 6) (fmt : BitVec 4) (sp : BitVec 2) (lm1 : BitVec 6) : State :=
  let r := vmemRanges sp fmt lm1 d.x0 d.x1
  let k := s.core n
  if r.2.1 % 64 ≠ 0 ∨ !k.spaceOk n sp r.2.1 r.2.2.1 ∨ (fmtScaled fmt && !k.spaceOk n sp r.2.2.2.1 r.2.2.2.2) then
    s.excDisp n stBounds d
  else
    let m := spaceMem n sp
    let t := s.touchAll [(m, r.2.1, r.2.2.1), (m, r.2.2.2.1, r.2.2.2.2)]
    if t.2 ≠ .clean then t.1.excDisp n t.2.status d
    else
      let ram := t.1.ram m
      let xs := loadLanes fmt (lm1.toNat + 1) (ram.bytes r.2.1 r.2.2.1) (ram.bytes r.2.2.2.1 r.2.2.2.2)
      t.1.modCore n (fun k => ((k.vecPop d).setLanes vr xs).addFlight .vector (newFlight d []))

/-- VST (R121). -/
def vstEffect (s : State) (n : Nat) (d : Disp) (vr : BitVec 6) (fmt : BitVec 4) (sp : BitVec 2) (lm1 : BitVec 6) : State :=
  let r := vmemRanges sp fmt lm1 d.x0 d.x1
  let k := s.core n
  if r.2.1 % 64 ≠ 0 ∨ !k.spaceOk n sp r.2.1 r.2.2.1 ∨ (fmtScaled fmt && !k.spaceOk n sp r.2.2.2.1 r.2.2.2.2) then
    s.excDisp n stBounds d
  else
    let m := spaceMem n sp
    let b := storeBytes fmt ((List.range (lm1.toNat + 1)).map (k.lane vr))
    let s1 := s.writeRam m r.2.1 b.1
    let s2 := if fmtScaled fmt then s1.writeRam m r.2.2.2.1 b.2 else s1
    (s2.modCore n (fun k => (k.vecPop d).addFlight .vector (newFlight d []))).note n true (storeRanges sp fmt lm1 d.x0 d.x1)

/-- GATE (R126). -/
def gateEffect (s : State) (n : Nat) (d : Disp) (vd vg vu vp : BitVec 6) (act : BitVec 7) : State :=
  let k := s.core n
  let a := act.toNat
  let bad := decide (0x40 ≤ a) && (match k.microOf a with | none => true | some p => p.two)
  if bad then s.excDisp n stBitstream d
  else
    let ys := (List.range 64).map (fun i =>
      gateLane k a (k.lane vg i) (k.lane vu i) (k.lane vp i) (k.lane (vp + 1) i) (k.lane (vp + 2) i) (k.lane (vp + 3) i))
    let passes := if a < 0x40 then passesOf a else match k.microOf a with | some p => p.passes | none => 0
    (s.bump (coreOff n 0xA08) 0 32 (sfuCycles passes 64)).modCore n (fun k => ((k.vecPop d).setLanes vd ys).grant passes 64)

/-- VSF (R127 to R129, R133): lanes at or above L keep their contents. -/
def vsfEffect (s : State) (n : Nat) (d : Disp) (vd va vb : BitVec 6) (func : BitVec 7) (lm1 : BitVec 6) : State :=
  let k := s.core n
  let f := func.toNat
  let l := lm1.toNat + 1
  if 0x40 ≤ f ∧ (k.microOf f).isNone then s.excDisp n stBitstream d
  else
    let ys := (List.range l).map (fun i => vsfLane k f (k.lane va i) (k.lane vb i))
    let passes := if f < 0x40 then passesOf f else match k.microOf f with | some p => p.passes | none => 0
    (s.bump (coreOff n 0xA08) 0 32 (sfuCycles passes l)).modCore n (fun k => ((k.vecPop d).setLanes vd ys).grant passes l)

/-- NORM (R123, R124). The spec names no requesting lanes for its DIV and RSQRT, whose grants CORE_SFU_BUSY counts (R135): the model counts
one lane's, 3 cycles for each RMS row and 5 for each layer row (DESIGN CHOICE, log entry 112). -/
def normEffect (s : State) (n : Nat) (d : Disp) : State :=
  let k := s.core n
  let m := MemSel.cmem (BitVec.ofNat 4 n)
  let a := d.x0.toNat
  if a % 64 ≠ 0 ∨ !k.inPort 1 a 64 then s.excDisp n stBounds d
  else
    let t := s.touch m a 64
    if t.2 ≠ .clean then t.1.excDisp n t.2.status d
    else
      let desc := (t.1.ram m).bytes a 64
      let nd := normDesc desc
      if !nd.ok then t.1.excDisp n stBitstream d
      else if (nd.reads ++ nd.writes).any (fun r => !k.inPort 1 r.1 r.2) then t.1.excDisp n stBounds d
      else
        let u := t.1.touchAll (nd.reads.map (fun r => (m, r.1, r.2)))
        if u.2 ≠ .clean then u.1.excDisp n u.2.status d
        else
          let u1 := u.1.mergeAll m nd.writes
          let s1 := u1.setRam m (normRun (u1.ram m) nd)
          ((s1.bump (coreOff n 0xA08) 0 32 (nd.rows * (if nd.layer then 5 else 3))).modCore n (fun k =>
            (k.vecPop d).addFlight .vector (newFlight d desc))).note n true nd.writes

/-- The ranges that a RED or TOPK reads and writes. -/
def streamReads : Disp → List (Nat × Nat)
  | d => match d.ins with
    | .red _ _ _ _ bf _ _ _ => [(d.x0.toNat, d.x1.toNat * (if bf then 2 else 4))]
    | .topk _ _ _ _ _ sup bf _ _ _ => [(d.x0.toNat, d.x1.toNat * (if sup then 8 else if bf then 2 else 4))]
    | _ => []
def streamWrites : Disp → List (Nat × Nat)
  | d => match d.ins with
    | .topk km1 _ _ _ _ _ _ _ _ _ => [(d.x3.toNat, 8 * (km1.toNat + 1))]
    | _ => []

/-- RED and TOPK start (R122): n outside 1 to 1,048,576 or a region outside the vector port ends with ST_BOUNDS. -/
def streamIssue (s : State) (n : Nat) (d : Disp) : State :=
  let k := s.core n
  let cnt := d.x1.toNat
  if cnt < 1 ∨ 1048576 < cnt then s.excDisp n stBounds d
  else if (streamReads d ++ streamWrites d).any (fun r => !k.inPort 1 r.1 r.2) then s.excDisp n stBounds d
  else s.setCore n ((k.vecPop d).addFlight .vector (newFlight d []))

/-- The head of the vector unit issues and has its effect. -/
def vecIssue (s : State) (n : Nat) (d : Disp) : State :=
  match d.ins with
  | .vop op vd va vb vc gx sh f t =>
    s.modCore n (fun k => (k.vecPop d).laneMove op vd va vb vc gx sh f t d.x0)
  | .vld vr _ _ fmt sp lm1 _ _ _ => vldEffect s n d vr fmt sp lm1
  | .vst vr _ _ fmt sp lm1 _ _ _ => vstEffect s n d vr fmt sp lm1
  | .gate vd vg vu vp act => gateEffect s n d vd vg vu vp act
  | .vsf vd va vb func lm1 => vsfEffect s n d vd va vb func lm1
  | .norm _ _ _ _ => normEffect s n d
  | .red _ _ _ _ _ _ _ _ => streamIssue s n d
  | .topk _ _ _ _ _ _ _ _ _ _ => streamIssue s n d
  | _ => s

/-- The head of the vector unit issues where it may. -/
def vecTry (s : State) (n : Nat) : State :=
  let k := s.core n
  match k.vec.pend with
  | d :: _ =>
    if !k.vecReady d || !k.firstTo n d.sn (consumes d.ins) then s
    else if k.vecHeld n d then s
    else vecIssue s n d
  | [] => s

/-- A vector word at the front end: dispatched where the buffer has room, and issued at once where it may. -/
def vecWord (s : State) (n : Nat) (k : Core) (i : CoreInstr) : State :=
  if k.hasRoom .vector then
    let s1 := s.setCore n (k.dispatch .vector i)
    if k.vec.pend = [] then vecTry s1 n else s1
  else s

def opVop (s : State) (n : Nat) (k : Core) : CoreInstr → Option State
  | .vop op vd va vb vc gx sh f t => some (vecWord s n k (.vop op vd va vb vc gx sh f t))
  | _ => none
def opVld (s : State) (n : Nat) (k : Core) : CoreInstr → Option State
  | .vld a b c d e f g h i => some (vecWord s n k (.vld a b c d e f g h i))
  | _ => none
def opVst (s : State) (n : Nat) (k : Core) : CoreInstr → Option State
  | .vst a b c d e f g h i => some (vecWord s n k (.vst a b c d e f g h i))
  | _ => none
def opGate (s : State) (n : Nat) (k : Core) : CoreInstr → Option State
  | .gate a b c d e => some (vecWord s n k (.gate a b c d e))
  | _ => none
def opVsf (s : State) (n : Nat) (k : Core) : CoreInstr → Option State
  | .vsf a b c d e => some (vecWord s n k (.vsf a b c d e))
  | _ => none
def opNorm (s : State) (n : Nat) (k : Core) : CoreInstr → Option State
  | .norm a b c d => some (vecWord s n k (.norm a b c d))
  | _ => none
def opRed (s : State) (n : Nat) (k : Core) : CoreInstr → Option State
  | .red a b c d e f g h => some (vecWord s n k (.red a b c d e f g h))
  | _ => none
def opTopk (s : State) (n : Nat) (k : Core) : CoreInstr → Option State
  | .topk a b c d e f g h i j => some (vecWord s n k (.topk a b c d e f g h i j))
  | _ => none

def execVop (c : BitVec 4) (s : State) : Host.Outcome State Fault Refusal := .next (s.frontStep c.toNat (opVop s c.toNat))
def execVld (c : BitVec 4) (s : State) : Host.Outcome State Fault Refusal := .next (s.frontStep c.toNat (opVld s c.toNat))
def execVst (c : BitVec 4) (s : State) : Host.Outcome State Fault Refusal := .next (s.frontStep c.toNat (opVst s c.toNat))
def execGate (c : BitVec 4) (s : State) : Host.Outcome State Fault Refusal := .next (s.frontStep c.toNat (opGate s c.toNat))
def execVsf (c : BitVec 4) (s : State) : Host.Outcome State Fault Refusal := .next (s.frontStep c.toNat (opVsf s c.toNat))
def execNorm (c : BitVec 4) (s : State) : Host.Outcome State Fault Refusal := .next (s.frontStep c.toNat (opNorm s c.toNat))
def execRed (c : BitVec 4) (s : State) : Host.Outcome State Fault Refusal := .next (s.frontStep c.toNat (opRed s c.toNat))
def execTopk (c : BitVec 4) (s : State) : Host.Outcome State Fault Refusal := .next (s.frontStep c.toNat (opTopk s c.toNat))

/-- A core whose units work: enabled, in service and clocked; issued work goes on after a stop (R165 step 3, R470). -/
def State.unitsRun (s : State) (n : Nat) : Bool :=
  decide (n < s.coreCount) && (s.core n).fence = .inService && s.clocked n

/-- The head of the vector unit's pending buffer issues (R120). -/
def execVectorIssue (c : BitVec 4) (s : State) : Host.Outcome State Fault Refusal :=
  if s.unitsRun c.toNat then .next (vecTry s c.toNat) else .next s

/-- What a reduction gives its g register (Table 2 of R122). -/
def redResult (op : BitVec 4) (xs : List Word) : DWord :=
  match op.toNat with
  | 0 => (canonNan (psum xs)).setWidth 64
  | 1 => (extreme true xs).1.setWidth 64
  | 2 => (extreme false xs).1.setWidth 64
  | 3 => let r := extreme true xs; BitVec.ofNat 64 (r.1.toNat + r.2 * 2 ^ 32)
  | _ => let r := extreme false xs; BitVec.ofNat 64 (r.1.toNat + r.2 * 2 ^ 32)

/-- The pairs that a TOPK ranks: supplied, or with positions counted from a base. A position that passes 2³² - 1 wraps, of which
R64 says nothing (DESIGN CHOICE, log entry 86). -/
def topkPairs (m : Ram) (a n : Nat) (sup bf : Bool) (base : Nat) : List (Word × Word) :=
  if sup then
    (List.range n).map (fun i => (w32 (leNat (m.bytes (a + 8 * i) 4)), w32 (leNat (m.bytes (a + 8 * i + 4) 4))))
  else ((f32List m a n bf).zipIdx).map (fun p => (p.1, w32 (base + p.2)))

def pairBytes (ps : List (Word × Word)) : List Byte := (ps.map (fun p => toLE 4 p.1.toNat ++ toLE 4 p.2.toNat)).flatten

/-- The streamed reduction that holds the port ends (R122, R143): its result is written and its tack set. -/
def execStreamReductionDone (c : BitVec 4) (s : State) : Host.Outcome State Fault Refusal :=
  let n := c.toNat
  let isStream := fun (f : Flight) => match f.d.ins with
    | .red _ _ _ _ _ _ _ _ => true
    | .topk _ _ _ _ _ _ _ _ _ _ => true
    | _ => false
  let m := MemSel.cmem c
  match (s.core n).vec.flights.find? isStream with
  | none => .next s
  | some f =>
    if !s.unitsRun n then .next s else
    let d := f.d
    let t := s.touchAll ((streamReads d).map (fun r => (m, r.1, r.2)))
    let s1 := t.1.modCore n (fun k => { k with vec := { k.vec with flights := dropFirst isStream k.vec.flights } })
    let ram := s1.ram m
    if t.2 ≠ .clean then .next (s1.excDisp n t.2.status d)
    else match d.ins with
      | .red op gd _ _ bf _ _ ts =>
        let v := redResult op (f32List ram d.x0.toNat d.x1.toNat bf)
        .next (s1.modCore n (fun k =>
          ({ (k.setG gd v) with pendingG := arriveG gd k.pendingG }).setTack ts))
      | .topk km1 _ _ _ _ sup bf _ _ ts =>
        let ps := topK (km1.toNat + 1) (topkPairs ram d.x0.toNat d.x1.toNat sup bf (d.x2.toNat % 2 ^ 32))
        .next (((s1.writeRam m d.x3.toNat (pairBytes ps)).modCore n (fun k => k.setTack ts)).note n true (streamWrites d))
      | _ => .next s1

end Sys2Proof.Machine
end

