-- ==== Sys2Proof/Machine/CoreMatrix.lean ====
section
/-! DEFINITION. The matrix array (R48 to R59, R67 to R85, R154 to R157): operands, beats, accumulation, tiles and their
hazards, the drain, and the events of an instruction's life. -/

namespace Sys2Proof.Machine

/-! ### Operands (R74) -/

/-- Element k of row i of a region, of 4, 8 or 16 bits; the even nibble is the low one (R42). -/
def Region.elem (r : Region) (m : Ram) (bits i k : Nat) : Nat :=
  let line := if r.tr then r.base + k * r.pitch else r.base + i * r.pitch
  let idx := if r.tr then i else k
  if bits = 4 then ((m.byte (line + idx / 2)).toNat / 16 ^ (idx % 2)) % 16
  else if bits = 8 then (m.byte (line + idx)).toNat
  else (m.byte (line + 2 * idx)).toNat + 256 * (m.byte (line + 2 * idx + 1)).toNat

/-- The scale of the block that holds element k of row i. -/
def Region.scale (r : Region) (m : Ram) (i k : Nat) : Byte := m.byte (r.sbase + i * r.spitch + k / 32)

def int8Of (c : Nat) : Int := (BitVec.ofNat 8 c).toInt
def int4Of (c : Nat) : Int := (BitVec.ofNat 4 c).toInt
/-- Twice an E2M1 value: an integer from -12 to 12 (R48). -/
def e2m1Twice (c : Nat) : Int :=
  let v : Int := (([0, 1, 2, 3, 4, 6, 8, 12] : List Nat).getD (c % 8) 0 : Nat)
  if c / 8 % 2 = 1 then -v else v

/-! ### Beats (R48 to R53) -/

inductive Beat where
  | int (z : Int)
  | f32 (w : Word)
  deriving DecidableEq, Repr

def sumInt (xs : List Int) : Int := xs.foldl (· + ·) 0

def fp8Val (e5m2 : Bool) (c : Nat) : FV := if e5m2 then fmtE5m2.dec c else fmtE4m3.dec c

/-- The within-beat tree of R51. -/
def beatTree (ps : List Word) : Word :=
  fadd (fadd (ps.getD 0 0) (ps.getD 1 0)) (fadd (ps.getD 2 0) (ps.getD 3 0))

/-- A value times the two block scales, rounded once (R52). -/
def scaleBeat (v : FV) (sa sb : Byte) (off : Int) : Word :=
  if sa = 0xFF#8 ∨ sb = 0xFF#8 then nan32 else rnd32 (v.scale ((sa.toNat : Int) + sb.toNat - off))

/-- The value of one beat from its element codes and scales (Table 4 of R48). -/
def beatValue (sh : Shape) (as bs : List Nat) (sa sb : Byte) : Beat :=
  let prods := fun (f : Nat → Nat → Int) => sumInt ((as.zip bs).map (fun p => f p.1 p.2))
  let fp8 := (as.zip bs).map (fun p => rnd32 ((fp8Val sh.ea p.1).mul (fp8Val sh.eb p.2)))
  match sh.pair with
  | 0 => .int (prods (fun a b => int8Of a * int8Of b))
  | 1 => .int (prods (fun a b => int8Of a * int4Of b))
  | 2 => .f32 (beatTree fp8)
  | 3 => .f32 (rnd32 ((fmtBf16.dec (as.headD 0)).mul (fmtBf16.dec (bs.headD 0))))
  | 4 => .f32 (rnd32 ((fmtF16.dec (as.headD 0)).mul (fmtF16.dec (bs.headD 0))))
  | 5 => .f32 (scaleBeat (.ofInt (prods (fun a b => int8Of a * int8Of b))) sa sb 266)
  | 6 => .f32 (scaleBeat (val32 (beatTree fp8)) sa sb 254)
  | _ => .f32 (scaleBeat (.ofInt (prods (fun a b => int8Of a * e2m1Twice b))) sa sb 261)

/-- Beat j of cell (r, c) (R49, R50). -/
def beatAt (ma mb : Ram) (ra rb : Region) (sh : Shape) (r c j : Nat) : Beat :=
  let w := pairW sh.pair
  let ks := (List.range w).map (fun i => w * j + i)
  beatValue sh (ks.map (ra.elem ma (pairBitsA sh.pair) r)) (ks.map (rb.elem mb (pairBitsB sh.pair) c))
    (ra.scale ma r (w * j)) (rb.scale mb c (w * j))

/-- A beat enters a slot: add_term of R57, or saturating addition of R55. -/
def AccCell.addBeat (x : AccCell) : Beat → AccCell
  | .f32 v => let r := addTerm x.a x.stack v; { x with a := r.1, stack := r.2 }
  | .int z => let r := satAdd x.a z; { x with a := r.1, sat := x.sat || r.2 }

/-- close of R57. -/
def AccCell.close (x : AccCell) : AccCell := { x with a := closeStack x.a x.stack, stack := [] }

/-! ### Tiles (R68 to R72, Table 3) -/

/-- Sub-arrays along each edge by packing code (Table 1 of R70). -/
def packP (p : BitVec 2) : Nat := match p.toNat with | 0 => 1 | 1 => 2 | _ => 4
def packSide (p : BitVec 2) : Nat := 32 / packP p
def packCount (p : BitVec 2) : Nat := packP p * packP p
def cellKey (t r c : Nat) : Nat := 1024 * t + 32 * r + c
def Core.tile (k : Core) (t : Nat) : Tile := nget Tile.idle k.tiles t
def Core.setTile (k : Core) (t : Nat) (x : Tile) : Core := { k with tiles := nset Tile.idle k.tiles t x }
def Core.cell (k : Core) (t r c : Nat) : AccCell := nget AccCell.zero k.acc (cellKey t r c)
def Core.setCell (k : Core) (t r c : Nat) (x : AccCell) : Core := { k with acc := nset AccCell.zero k.acc (cellKey t r c) x }

def cellsOf (m n : Nat) : List (Nat × Nat) := ((List.range m).map (fun r => (List.range n).map (fun c => (r, c)))).flatten

/-! ### Issue checks (R69, R71, R75, R81, R83, R157) -/

/-- The slot type that a drain converts from. -/
def Core.drainF32 (k : Core) (m : MmaF) (sh : Shape) : Bool :=
  let x := k.tile (tileIdx m.q m.slot)
  if m.opn = 3 then (if x.st = .idle then pairF32 sh.pair else x.f32) else pairF32 sh.pair

/-- Table 4 of R83. -/
def dfmtOk (f32 : Bool) (dfmt : Nat) : Bool :=
  if f32 then dfmt = 0 || (decide (2 ≤ dfmt) && decide (dfmt ≤ 8)) else decide (dfmt ≤ 1)

def pairOk (sh : Shape) : Bool := decide (sh.pair ≤ 7) && (sh.pair = 2 || sh.pair = 6 || (!sh.ea && !sh.eb))

/-- The checks whose failure is ST_BITSTREAM at issue. -/
def Core.mmaLegal (k : Core) (m : MmaF) (sh : Shape) : Bool :=
  let t := tileIdx m.q m.slot
  let x := k.tile t
  let side := packSide k.packing
  let size := decide (m.q.toNat < packCount k.packing) && decide (sh.m ≤ side) && decide (sh.n ≤ side) &&
    decide (sh.dfmt ≤ 8)
  let dr := !m.drain || dfmtOk (k.drainF32 m sh) sh.dfmt
  match m.opn.toNat with
  | 3 => size && dr && x.st ≠ .open_ && (x.st = .closed || pairOk sh)
  | 0 => size && dr && pairOk sh && (!m.drain || m.close) && x.st = .open_ && !k.closing t &&
      x.f32 = pairF32 sh.pair && x.m = sh.m && x.n = sh.n
  | 1 => size && dr && pairOk sh && (!m.drain || m.close) && x.st ≠ .open_
  | _ => size && dr && pairOk sh && (!m.drain || m.close) && x.st ≠ .open_ && (x.st = .idle || x.f32 = pairF32 sh.pair)

/-- R75 for an operand region of `rows` rows of `k` elements in a buffer of a size. -/
def Region.ok (r : Region) (rows k bits : Nat) (scaled : Bool) (size : Nat) : Bool :=
  let need := if r.tr then (rows * bits + 7) / 8 else (k * bits + 7) / 8
  decide (need ≤ r.pitch) && (regionRanges r rows k bits scaled).all (fun x => decide (x.1 + x.2 ≤ size))

def drainOk (r : Region) (sh : Shape) : Bool :=
  decide (drainRowBytes sh.dfmt sh.n ≤ r.pitch) && (drainRanges r sh).all (fun x => decide (x.1 + x.2 ≤ 0x10000))

/-- Every region that the instruction names obeys R75. -/
def mmaBounds (m : MmaF) (d : Disp) : Bool :=
  let sh := shapeOf d.x3
  let k := pairW sh.pair * sh.j
  (m.opn = 3 || ((regionOf d.x0).ok sh.m k (pairBitsA sh.pair) (pairScaled sh.pair) 0x10000 &&
    (regionOf d.x1).ok sh.n k (pairBitsB sh.pair) (pairScaled sh.pair) 0x20000)) &&
  (!m.drain || drainOk (regionOf d.x2) sh)

/-! ### Effect -/

/-- The slot before the first beat (Table 3): zero for OPEN_ZERO, kept otherwise. -/
def startCell (opn : BitVec 2) (x : AccCell) : AccCell := if opn = 1 then { x with a := 0, stack := [] } else x

/-- Every beat of an instruction into one cell. -/
def runCell (ma mb : Ram) (ra rb : Region) (sh : Shape) (r c : Nat) (x : AccCell) : AccCell :=
  (List.range sh.j).foldl (fun x j => x.addBeat (beatAt ma mb ra rb sh r c j)) x

/-- OPEN_ZERO with a change of accumulator type zeroes the cells outside M × N (R68). -/
def Core.retype (k : Core) (t : Nat) (sh : Shape) : Core :=
  let side := packSide k.packing
  ((cellsOf side side).filter (fun p => decide (sh.m ≤ p.1) || decide (sh.n ≤ p.2))).foldl
    (fun k p => k.setCell t p.1 p.2 { k.cell t p.1 p.2 with a := 0, stack := [] }) k

/-- The accumulation of an MMA with beats (R67). -/
def Core.accumulate (k : Core) (m : MmaF) (d : Disp) : Core :=
  let sh := shapeOf d.x3
  let t := tileIdx m.q m.slot
  let x := k.tile t
  let k1 := if m.opn = 1 ∧ x.st = .closed ∧ x.f32 ≠ pairF32 sh.pair then k.retype t sh else k
  let k2 := (cellsOf sh.m sh.n).foldl (fun (acc : Core) p =>
    acc.setCell t p.1 p.2 (runCell k.bufA k.bufB (regionOf d.x0) (regionOf d.x1) sh p.1 p.2
      (startCell m.opn (acc.cell t p.1 p.2)))) k1
  { (k2.setTile t { st := .open_, f32 := pairF32 sh.pair, m := sh.m, n := sh.n }) with beats := k.beats + BitVec.ofNat 64 sh.j }

/-- Close of every cell of the tile's M × N. -/
def Core.closeTile (k : Core) (t : Nat) (sh : Shape) : Core :=
  let k1 := if (k.tile t).f32 then
      (cellsOf sh.m sh.n).foldl (fun (acc : Core) p => acc.setCell t p.1 p.2 (acc.cell t p.1 p.2).close) k
    else k
  k1.setTile t { k.tile t with st := .closed }

/-- One value of a drained row as its element code (Table 4 of R83). -/
def drainCode (dfmt : Nat) (a : Word) : Nat :=
  match dfmt with
  | 1 => (ofInt32 a.toInt).toNat
  | 2 => (toBf16 a).toNat
  | 3 => (toF16 a).toNat
  | 4 => (toE4m3 a).toNat
  | 5 => (toE5m2 a).toNat
  | _ => a.toNat

def drainElem (dfmt : Nat) : MxElem := if dfmt = 6 then .mxint8 else if dfmt = 7 then .e4m3 else .e2m1
def drainBits (dfmt : Nat) : Nat := match dfmt with | 0 => 32 | 1 => 32 | 2 => 16 | 3 => 16 | 8 => 4 | _ => 8

/-- A drained row: element bytes, and the scale byte of a block-scaled row. -/
def drainRow (dfmt : Nat) (ws : List Word) : List Byte × List Byte :=
  if dfmtScaled dfmt then
    let q := quantBlocks (drainElem dfmt) ws 1
    (packCodes (drainBits dfmt) q.1, q.2)
  else (packCodes (drainBits dfmt) (ws.map (drainCode dfmt)), [])

/-- The drain (R83, R84): rows to buffer D, and the saturation flags to SAT (R56). -/
def Core.drainTile (k : Core) (t : Nat) (r : Region) (sh : Shape) : Core :=
  let d := (List.range sh.m).foldl (fun (m : Ram) i =>
    let row := drainRow sh.dfmt ((List.range sh.n).map (fun c => (k.cell t i c).a))
    let m1 := m.write (r.base + i * r.pitch) row.1
    if dfmtScaled sh.dfmt then m1.write (r.sbase + i * r.spitch) row.2 else m1) k.bufD
  let cs := cellsOf sh.m sh.n
  let sat := cs.any (fun p => (k.cell t p.1 p.2).sat)
  let k1 := if sat then cs.foldl (fun (acc : Core) p => acc.setCell t p.1 p.2 { acc.cell t p.1 p.2 with sat := false }) k else k
  { k1 with bufD := d, sat := k.sat || sat }

/-! ### Events -/

/-- Nonzero bits above the fields of a region or shape word, a transposed D word, and the values that Table 10 marks as refused are
refused at dispatch (R148, R155, R156). -/
def mmaWordsOk (d : Disp) (drain : Bool) : Bool :=
  fld d.x0 45 19 = 0 && fld d.x1 45 19 = 0 && fld d.x3 32 32 = 0 && decide ((shapeOf d.x3).pair ≤ 7) && decide ((shapeOf d.x3).dfmt ≤ 8) &&
  (!drain || (fld d.x2 45 19 = 0 && !bit1 d.x2 44))

def opMma (s : State) (n : Nat) (k : Core) : CoreInstr → Option State
  | .mma q slot opn close drain ga gb gd gs ta tb td ts ca cb =>
    let i := CoreInstr.mma q slot opn close drain ga gb gd gs ta tb td ts ca cb
    some (if !mmaWordsOk (dispatchOf k i) drain then s.exception n stBitstream 0x40 k.pc.toNat
      else if k.hasRoom .matrix then s.setCore n (k.dispatch .matrix i) else s)
  | _ => none

def execMma (c : BitVec 4) (s : State) : Host.Outcome State Fault Refusal := .next (s.frontStep c.toNat (opMma s c.toNat))

/-- The core once the head of the matrix unit has left its buffer, with the tacks consumed and set at issue (R154, R143). -/
def Core.mmaPop (k : Core) (m : MmaF) : Core :=
  let k1 := { k with mat := { k.mat with pend := k.mat.pend.drop 1 } }
  let k2 := (k1.consume m.ca m.ta).consume m.cb m.tb
  let k3 := if m.drain then k2.clrTack m.td else k2.setTack m.ts
  k3.liftUsigs .matrix

/-- An MMA issues (R77): its operands are read and its terms added; a refused one ends the command. -/
def mmaIssue (s : State) (n : Nat) (m : MmaF) (d : Disp) : State :=
  let k := s.core n
  let sh := shapeOf d.x3
  if !k.mmaLegal m sh then s.excDisp n stBitstream d
  else if !mmaBounds m d then s.excDisp n stBounds d
  else
    let fl : Flight := { newFlight d [] with reading := m.opn ≠ 3 }
    let c := BitVec.ofNat 4 n
    let ra := fl.readsOf true
    let rb := fl.readsOf false
    let t := s.touchAll (ra.map (fun r => (MemSel.bufA c, r.1, r.2)) ++ rb.map (fun r => (MemSel.bufB c, r.1, r.2)))
    if t.2 ≠ .clean then t.1.excDisp n t.2.status d
    else t.1.modCore n (fun k =>
      let k1 := k.mmaPop m
      (if m.opn = 3 then k1 else k1.accumulate m d).addFlight .matrix fl)

def execMmaIssue (c : BitVec 4) (s : State) : Host.Outcome State Fault Refusal :=
  let n := c.toNat
  match (s.core n).mat.pend with
  | d :: _ =>
    (match mmaOf d.ins with
    | some m => if s.unitsRun n && (s.core n).mayIssue n .matrix d then .next (mmaIssue s n m d) else .next s
    | none => .next s)
  | [] => .next s

def findFlight (x : UnitSt) (sn : Nat) : Option Flight := x.flights.find? (fun f => f.d.sn = sn)
def UnitSt.dropFlight (x : UnitSt) (sn : Nat) : UnitSt := { x with flights := x.flights.filter (fun f => f.d.sn ≠ sn) }
def UnitSt.modFlight (x : UnitSt) (sn : Nat) (g : Flight → Flight) : UnitSt :=
  { x with flights := x.flights.map (fun f => if f.d.sn = sn then g f else f) }

/-- No earlier instruction of the sub-array has beats under way (R78). An earlier one with CLOSE may still be closing when the last
term of a later one is added, whose own close comes after that of the earlier (Table 5 of R85). -/
def Core.beatsFirst (k : Core) (m : MmaF) (sn : Nat) : Bool :=
  k.mat.flights.all (fun f => !(f.onSub m.q && decide (f.d.sn < sn) && f.phase = 0 && !f.drainOnly && (m.close || !f.hasClose)))

/-- The last term is added and the tile closes in every cell (R85). -/
def execTileClose (c : BitVec 4) (flight : Nat) (s : State) : Host.Outcome State Fault Refusal :=
  let n := c.toNat
  let k := s.core n
  match findFlight k.mat flight with
  | none => .next s
  | some f =>
    match mmaOf f.d.ins with
    | none => .next s
    | some m =>
      if m.close && f.phase = 0 && m.opn ≠ 3 && k.beatsFirst m flight && s.unitsRun n then
        let k1 := k.closeTile (tileIdx m.q m.slot) (shapeOf f.d.x3)
        .next (s.setCore n { k1 with mat := if m.drain then k.mat.modFlight flight (fun f => { f with phase := 1, reading := false })
                                           else k.mat.dropFlight flight })
      else .next s

/-- An MMA without CLOSE finishes: its last term is in every cell (R78). -/
def execMmaFinished (c : BitVec 4) (flight : Nat) (s : State) : Host.Outcome State Fault Refusal :=
  let n := c.toNat
  let k := s.core n
  match findFlight k.mat flight with
  | none => .next s
  | some f =>
    match mmaOf f.d.ins with
    | none => .next s
    | some m =>
      if !m.close && m.opn ≠ 3 && k.beatsFirst m flight && s.unitsRun n then
        .next (s.setCore n { k with mat := k.mat.dropFlight flight })
      else .next s

/-- A drain writes its last row (R84, R85): after the close, and after every earlier drain of its sub-array (R157). -/
def execDrainDone (c : BitVec 4) (flight : Nat) (s : State) : Host.Outcome State Fault Refusal :=
  let n := c.toNat
  let k := s.core n
  match findFlight k.mat flight with
  | none => .next s
  | some f =>
    match mmaOf f.d.ins with
    | none => .next s
    | some m =>
      let order := k.mat.flights.all (fun g => !(g.onSub m.q && g.hasDrain && decide (g.d.sn < flight)))
      if m.drain && (f.phase = 1 || m.opn = 3) && order && s.unitsRun n then
        let s1 := s.mergeAll (.bufD c) f.drainsTo
        let k1 := (s1.core n).drainTile (tileIdx m.q m.slot) (regionOf f.d.x2) (shapeOf f.d.x3)
        .next ((s1.setCore n ({ k1 with mat := k1.mat.dropFlight flight }.setTack m.ts)).note n true f.drainMap)
      else .next s

end Sys2Proof.Machine
end

