-- ==== Sys2Proof/Machine/CoreWringer.lean ====
section
/-! DEFINITION. The Wringer (R284 to R302): the group coder and its inverse, activation frames in CODEC partitions, the
instructions WCMP and WEXP, and the expansion of variant frames. -/

namespace Sys2Proof.Machine

/-! ### The group format (R285) -/

/-- A code: bytes per element, elements per group, bits of the width field. -/
structure WCode where
  elem : Nat
  group : Nat
  wbits : Nat
  deriving DecidableEq, Repr

def actCode : WCode := { elem := 4, group := 8, wbits := 6 }
def diffCode : WCode := { elem := 1, group := 32, wbits := 4 }

/-- Fields packed from the least significant bit: the number they form. -/
def packFields : List (Nat × Nat) → Nat
  | [] => 0
  | (v, w) :: t => v % 2 ^ w + 2 ^ w * packFields t

def fieldsWidth (fs : List (Nat × Nat)) : Nat := (fs.map (·.2)).foldl (· + ·) 0

/-- One more than the index of the highest set bit; 0 for zero. -/
def sigWidth (n : Nat) : Nat := if n = 0 then 0 else Nat.log2 n + 1

/-- Lists of at most `k` consecutive elements. -/
def chunks {α : Type} (k : Nat) (fuel : Nat) (xs : List α) : List (List α) :=
  match fuel with
  | 0 => []
  | f + 1 => if xs.isEmpty then [] else xs.take k :: chunks k f (xs.drop k)

/-- A group as its width field and its differences. -/
def groupFields (c : WCode) (ds : List Nat) : List (Nat × Nat) :=
  let b := (ds.map sigWidth).foldl max 0
  (b, c.wbits) :: ds.map (fun d => (d, b))

/-- The elements of a byte string. -/
def elemsOf (c : WCode) (bs : List Byte) : List Nat := (List.range (bs.length / c.elem)).map (fun i => leAt bs (c.elem * i) c.elem)

def xorBytes (a b : List Byte) : List Byte := (a.zip b).map (fun p => p.1 ^^^ p.2)

/-- The coded form of a block's differences (R285 steps 2 to 6). -/
def codeBytes (c : WCode) (d : List Byte) : List Byte :=
  let fs := ((chunks c.group d.length (elemsOf c d)).map (groupFields c)).flatten
  toLE ((fieldsWidth fs + 7) / 8) (packFields fs)

/-- The limit of R286. -/
def codeLimit (rawlen : Nat) : Nat := 7 * rawlen / 8

/-- A block's frame and whether it is raw (R286). -/
def codeBlock (c : WCode) (x r : List Byte) : List Byte × Bool :=
  let f := codeBytes c (xorBytes x r)
  if f.length ≤ codeLimit x.length then (f, false) else (x, true)

/-- Groups read back from a frame's number: the differences and the bits used; none for a width above the element's. -/
def readGroups (c : WCode) (fuel n : Nat) (frame : Nat) : Option (List Nat × Nat) :=
  match fuel with
  | 0 => some ([], 0)
  | f + 1 =>
    if n = 0 then some ([], 0)
    else
      let w := frame % 2 ^ c.wbits
      let k := min c.group n
      if 8 * c.elem < w then none
      else
        let body := frame / 2 ^ c.wbits
        let ds := (List.range k).map (fun i => body / 2 ^ (w * i) % 2 ^ w)
        match readGroups c f (n - k) (body / 2 ^ (w * k)) with
        | none => none
        | some (rest, used) => some (ds ++ rest, c.wbits + w * k + used)

/-- The differences that a coded frame holds for `rawlen` bytes, and the bytes that its groups need (R291). -/
def expandFrame (c : WCode) (rawlen : Nat) (frame : List Byte) : Option (List Byte × Nat) :=
  let n := rawlen / c.elem
  match readGroups c n n (leNat frame) with
  | none => none
  | some (ds, used) => some ((ds.map (toLE c.elem)).flatten, (used + 7) / 8)

/-! ### Activation frames (R287, Table 2) -/

def blockCount (glen : Nat) : Nat := (glen + 1023) / 1024
def rawLen (glen j : Nat) : Nat := min 1024 (glen - 1024 * j)
def headerOff (j : Nat) : Nat := 4 * j
def frameOff (glen j : Nat) : Nat := 128 * ((blockCount glen + 31) / 32) + 1024 * j
def areaSpan (glen : Nat) : Nat := 128 * ((blockCount glen + 31) / 32) + 1024 * blockCount glen
def headerWord (raw poison : Bool) (rawlen clen : Nat) : Nat :=
  boolNat raw * 2 ^ 31 + boolNat poison * 2 ^ 30 + rawlen * 2 ^ 11 + clen

/-- A header is inconsistent with its block but for the content of a coded frame (R291). -/
def headerBad (h : Word) (rawlen : Nat) : Bool :=
  let clen := getBits h 0 11
  getBits h 11 11 ≠ rawlen || (if bitOf h 31 then clen ≠ rawlen else decide (codeLimit rawlen < clen))

/-- What WEXP makes of a block: none when it is inconsistent. -/
def expandBlock (h : Word) (frame r : List Byte) (rawlen : Nat) : Option (List Byte) :=
  if headerBad h rawlen then none
  else if bitOf h 31 then some (frame.take rawlen)
  else
    match expandFrame actCode rawlen (frame.take (getBits h 0 11)) with
    | none => none
    | some (d, need) => if need = getBits h 0 11 then some (xorBytes d r) else none

/-! ### Variant streams (R293, R294, Table 4) -/

def idxMode (e : Word) : Nat := getBits e 30 2
def idxLen (e : Word) : Nat := getBits e 23 7
def idxOff (e : Word) : Nat := getBits e 0 23

/-- An index entry obeys Table 4. -/
def idxOk (e : Word) : Bool :=
  match idxMode e with
  | 0 => decide (1 ≤ idxLen e) && decide (idxLen e ≤ 56)
  | 1 => idxLen e = 64
  | 2 => idxLen e = 0 && idxOff e = 0
  | _ => false

/-- The plaintext of a granule from its entry, its frame and the base granule; none for an inconsistent frame. -/
def variantGranule (e : Word) (frame base : List Byte) : Option (List Byte) :=
  match idxMode e with
  | 1 => some (padTo 4096 frame)
  | 2 => some base
  | _ =>
    match expandFrame diffCode 4096 frame with
    | none => none
    | some (d, need) =>
      if need ≤ 64 * idxLen e ∧ need ≤ codeLimit 4096 ∧ allZero (frame.drop need) then some (xorBytes d base) else none

/-! ### Dispatch and issue (R288, R343) -/

/-- A glen value and gref that R288 permits. -/
def glenOk (glen gref : DWord) : Bool :=
  let n := (fld glen 0 21).toNat
  fld glen 21 11 = 0 && fld glen 33 31 = 0 && decide (4 ≤ n) && decide (n ≤ 1048576) && n % 4 = 0 &&
  (!bit1 glen 32 || gref = 0)

def opWcmp (s : State) (n : Nat) (k : Core) : CoreInstr → Option State
  | .wcmp a b c d tw cw ts =>
    some (if !glenOk (k.gr d) (k.gr b) then s.exception n stBitstream 0x80 k.pc.toNat
      else if k.hasRoom .wringer then s.setCore n (k.dispatch .wringer (.wcmp a b c d tw cw ts)) else s)
  | _ => none

def opWexp (s : State) (n : Nat) (k : Core) : CoreInstr → Option State
  | .wexp a b c d sp tw cw ts =>
    some (if !glenOk (k.gr d) (k.gr b) then s.exception n stBitstream 0x81 k.pc.toNat
      else if k.hasRoom .wringer then s.setCore n (k.dispatch .wringer (.wexp a b c d sp tw cw ts)) else s)
  | _ => none

def execWcmp (c : BitVec 4) (s : State) : Host.Outcome State Fault Refusal := .next (s.frontStep c.toNat (opWcmp s c.toNat))
def execWexp (c : BitVec 4) (s : State) : Host.Outcome State Fault Refusal := .next (s.frontStep c.toNat (opWexp s c.toNat))

def Disp.glen (d : Disp) : Nat := (fld d.x3 0 21).toNat
def Disp.noref (d : Disp) : Bool := bit1 d.x3 32

/-- The shared-memory offset of the frame area. -/
def frameArea (f : WrgF) (d : Disp) : Nat := (if f.comp then d.x2 else d.x0).toNat - shmBase

/-- The core may use the CODEC partition that holds an offset in a direction (R343). -/
def State.codecAllowed (s : State) (n : Nat) (comp : Bool) (off : Nat) : Bool :=
  let slot := (s.core n).slot
  match s.partOf slot (off / 0x10000), slot with
  | some p, some b =>
    (match bsCodecFor (s.bsSlot b.toNat).image p.2.base with
    | some r => (if comp then r.wmask else r.rmask).getLsbD n
    | none => true)
  | _, _ => false

/-- The frame area lies wholly inside one CODEC partition of the core's bitstream. -/
def State.areaOk (s : State) (n : Nat) (a len : Nat) : Bool :=
  decide (shmBase ≤ a) && a % 128 = 0 && s.shmOk (s.core n).slot [kindCodec] (a - shmBase) len &&
  (match s.partOf (s.core n).slot ((a - shmBase) / 0x10000) with
  | some p => decide (a - shmBase + len ≤ (p.2.base + p.2.size) * 0x10000)
  | none => false)

/-- A core-memory region in any bank. -/
def cmemOk (a len : Nat) : Bool := a % 64 = 0 && decide (a + len ≤ 0x400000)

def State.wrgBounds (s : State) (n : Nat) (f : WrgF) (d : Disp) : Bool :=
  let area := (if f.comp then d.x2 else d.x0).toNat
  let own := if f.comp then cmemOk d.x0.toNat d.glen
    else if f.bufA then d.x2.toNat % 64 = 0 && decide (d.x2.toNat + d.glen ≤ 0x10000) else cmemOk d.x2.toNat d.glen
  own && (d.noref || cmemOk d.x1.toNat d.glen) && s.areaOk n area (areaSpan d.glen) && s.codecAllowed n f.comp (area - shmBase)

/-! ### Blocks (R289 to R292) -/

/-- WRG_ERR and its event; `stream` for the streaming engine. -/
def State.wrgErr (s : State) (kind : Nat) (stream : Bool) (core index status : Nat) : State :=
  let v := 0x80000000#32 ||| w32 (kind * 2 ^ 29 + boolNat stream * 2 ^ 28 + (if stream then 0 else core) * 2 ^ 24 + index % 2 ^ 23)
  let s1 := s.setRecord 0x90018 v
  s1.record 0x0F01 0x18 3 status (regCopy (s1.reg 0x90018) 0x90018)

/-- The oldest instruction leaves the port after an exception of a block. -/
def State.wrgFail (s : State) (n kind status j : Nat) (d : Disp) : State :=
  let s1 := s.modCore n (fun k => { k with wrg := { k.wrg with flights := k.wrg.flights.drop 1, wait := false } })
  (s1.wrgErr kind false n j status).excDisp n status d

/-- A block is done: the next block, or the release with its tack (R290). -/
def State.wrgAdvance (s : State) (n : Nat) (f : WrgF) (d : Disp) (j : Nat) : State :=
  if j + 1 < blockCount d.glen then
    s.modCore n (fun k => { k with wrg := { (k.wrg.modFlight d.sn (fun x => { x with blk := j + 1 })) with wait := false } })
  else s.modCore n (fun k => { k with wrg := { (k.wrg.dropFlight d.sn) with wait := false } }.setTack f.ts)

/-- The reference bytes of a block, zero under NOREF. -/
def refBytes (d : Disp) (m : Ram) (j len : Nat) : List Byte :=
  if d.noref then List.replicate len 0 else m.bytes (d.x1.toNat + 1024 * j) len

/-- WCMP codes one block. -/
def wcmpBlock (s : State) (n : Nat) (f : WrgF) (d : Disp) (j : Nat) : State :=
  let m := MemSel.cmem (BitVec.ofNat 4 n)
  let len := rawLen d.glen j
  let x := d.x0.toNat + 1024 * j
  let area := frameArea f d
  let t := s.touchAll ((m, x, len) :: if d.noref then [] else [(m, d.x1.toNat + 1024 * j, len)])
  if t.2 ≠ .clean then
    let fr := t.1.drawBits 12
    let s1 := fr.2.scramble .shm (area + frameOff d.glen j) len
    let h := headerWord (fr.1.getLsbD 11) true len (fr.1.toNat % 2 ^ 11)
    (s1.writeRam .shm (area + headerOff j) (toLE 4 h)).wrgFail n 1 t.2.status j d
  else
    let s1 := t.1
    let ram := s1.ram m
    let b := codeBlock actCode (ram.bytes x len) (refBytes d ram j len)
    let s2 := s1.writeRam .shm (area + frameOff d.glen j) b.1
    let s3 := s2.writeRam .shm (area + headerOff j) (toLE 4 (headerWord b.2 false len b.1.length))
    let s4 := s3.bump (if b.2 then 0x90004 else 0x90000) 0 32 1
    let s5 := (s4.bump 0x9000C 0 32 ((len + 63) / 64)).bump 0x90010 0 32 ((b.1.length + 63) / 64)
    s5.wrgAdvance n f d j

/-- WEXP expands one block into core memory or buffer A. -/
def wexpBlock (s : State) (n : Nat) (f : WrgF) (d : Disp) (j : Nat) : State :=
  let c := BitVec.ofNat 4 n
  let m := MemSel.cmem c
  let dst := if f.bufA then MemSel.bufA c else m
  let len := rawLen d.glen j
  let a := d.x2.toNat + 1024 * j
  let area := frameArea f d
  let t := s.touch .shm (area + headerOff j) 4
  let h := w32 (leNat (t.1.shm.bytes (area + headerOff j) 4))
  let flen := min 1024 (getBits h 0 11)
  let u := t.1.touch .shm (area + frameOff d.glen j) flen
  let ta := t.2.join u.2
  let poison := fun (s : State) (kind status : Nat) =>
    let fr := s.drawBytes len
    (fr.2.putRam dst a fr.1 (List.replicate len true)).wrgFail n kind status j d
  if ta ≠ .clean then poison u.1 1 ta.status
  else if bitOf h 30 then poison u.1 2 stPoisoned
  else
    let rr := if d.noref then (u.1, Taint.clean) else u.1.touch m (d.x1.toNat + 1024 * j) len
    let ram := rr.1.ram m
    match expandBlock h (rr.1.shm.bytes (area + frameOff d.glen j) flen) (refBytes d ram j len) len with
    | none => rr.1.wrgFail n 0 stUncorrectable j d
    | some bs =>
      let flags := if d.noref then [] else (List.range len).map (fun i => ram.poisoned (d.x1.toNat + 1024 * j + i) 1)
      let s1 := rr.1.putRam dst a bs flags
      let s2 := s1.bump (if bitOf h 31 then 0x90004 else 0x90000) 0 32 1
      if rr.2 ≠ .clean then s2.wrgFail n 1 rr.2.status j d else s2.wrgAdvance n f d j

/-- The range that the result of a block of WEXP goes to. -/
def wexpDest (n : Nat) (f : WrgF) (d : Disp) (j : Nat) : MemSel × Nat × Nat :=
  (if f.bufA then .bufA (BitVec.ofNat 4 n) else .cmem (BitVec.ofNat 4 n), d.x2.toNat + 1024 * j, rawLen d.glen j)

/-- The result of a block waits for bytes that an issued instruction still reads (R80, R178, R289). -/
def Core.wexpHeld (k : Core) (n : Nat) (f : WrgF) (d : Disp) (j : Nat) : Bool :=
  let w := wexpDest n f d j
  !f.comp && k.writeHeld w.1 w.2.1 w.2.2

/-! ### Units (R297) -/

/-- The unit that holds a work. -/
def State.wrgUnit (s : State) (job : WrgJob) : Option Nat := (s.wrg.units.find? (fun e => e.2 = job)).map (·.1)

/-- The units that hold a work become free. -/
def State.releaseUnit (s : State) (job : WrgJob) : State :=
  { s with wrg := { s.wrg with units := s.wrg.units.filter (fun e => e.2 ≠ job) } }

/-! ### Writes by others between issue and release (R290) -/

/-- The map address of a place in one of the memories that a Wringer instruction uses (R173). -/
def mapAt (m : MemSel) (off : Nat) : Nat :=
  match m with
  | .cmem _ => off
  | .bufA _ => 0x400000 + off
  | .bufB _ => 0x420000 + off
  | .bufD _ => 0x440000 + off
  | .shm => shmBase + off

/-- What a block reads, and what it writes. -/
def wrgIns (n : Nat) (f : WrgF) (d : Disp) (j : Nat) : List (MemSel × Nat × Nat) :=
  let m := MemSel.cmem (BitVec.ofNat 4 n)
  let len := rawLen d.glen j
  (if f.comp then [(m, d.x0.toNat + 1024 * j, len)]
   else [(.shm, frameArea f d + headerOff j, 4), (.shm, frameArea f d + frameOff d.glen j, len)]) ++
  (if d.noref then [] else [(m, d.x1.toNat + 1024 * j, len)])
def wrgOuts (n : Nat) (f : WrgF) (d : Disp) (j : Nat) : List (MemSel × Nat × Nat) :=
  if f.comp then [(.shm, frameArea f d + headerOff j, 4), (.shm, frameArea f d + frameOff d.glen j, rawLen d.glen j)]
  else [wexpDest n f d j]

/-- Another unit or core has written into the regions of a block since the issue. -/
def Flight.disturbed (fl : Flight) (n : Nat) (f : WrgF) (j : Nat) : Bool :=
  (wrgIns n f fl.d j ++ wrgOuts n f fl.d j).any (fun r => anyMeet fl.hits (mapAt r.1 r.2.1) r.2.2)

/-- The blocks up to the current one that a write has disturbed. -/
def Flight.disturbedTo (fl : Flight) (n : Nat) (f : WrgF) : List Nat := (List.range (fl.blk + 1)).filter (fl.disturbed n f)

/-- Undefined bytes: free ones. -/
def State.scrambleAll (s : State) (rs : List (MemSel × Nat × Nat)) : State := rs.foldl (fun s r => s.scramble r.1 r.2.1 r.2.2) s

/-- One block of the oldest instruction of the port. What a disturbed block has written, or would write, is undefined. -/
def wrgStep (s : State) (n : Nat) (f : WrgF) (fl : Flight) : State :=
  let d := fl.d
  let j := fl.blk
  let hit := fl.disturbedTo n f
  let s1 := s.scrambleAll ((hit.map (wrgOuts n f d)).flatten)
  let s2 := if hit.contains j then s1.wrgAdvance n f d j else if f.comp then wcmpBlock s1 n f d j else wexpBlock s1 n f d j
  s2.note n false (((hit ++ [j]).map (wrgOuts n f d)).flatten.map (fun r => (mapAt r.1 r.2.1, r.2.2)))

end Sys2Proof.Machine
end

