-- ==== Sys2Proof/Machine/Regions.lean ====
section
/-! DEFINITION. Regions of device DRAM (R199, R253, R262, R353, R415): context windows, KV pools and frame tables, the
assembly, mirror and bitstream areas; and DRAM as plaintext with the key under which each line was last written
(R306, R311, R313). -/

namespace Sys2Proof.Machine

/-- The core-map address of DRAM offset 0, and the bytes of DRAM (R173). -/
def dramBase : Nat := 0x1000000000
def dramBytes : Nat := 48318382080
def unit64K : Nat := 65536

/-! ### Windows (R415, R430) -/

/-- The place of a window register of a context: a bank beyond BAR0. -/
def winKey (c w r : Nat) : Nat := 0x1000000 + 64 * c + 16 * w + 4 * r

structure Window where
  en : Bool
  table : Bool
  cr : Bool
  cw : Bool
  hr : Bool
  hw : Bool
  base : Nat
  size : Nat
  deriving DecidableEq, Repr

def winOf (base size cfg : Word) : Window :=
  { en := bitOf cfg 31, table := bitOf cfg 30, cr := bitOf cfg 29, cw := bitOf cfg 28, hr := bitOf cfg 27, hw := bitOf cfg 26,
    base := getBits base 0 20 * unit64K, size := getBits size 0 20 * unit64K }
def State.window (s : State) (c w : Nat) : Window :=
  winOf (s.reg (winKey c w 0)) (s.reg (winKey c w 1)) (s.reg (winKey c w 2))
def Window.has (w : Window) (off : Nat) : Bool := w.en && decide (w.base ≤ off) && decide (off < w.base + w.size)
/-- The enabled window of a context that holds a DRAM offset. -/
def State.windowAt (s : State) (c off : Nat) : Option Window :=
  ((List.range 4).map (s.window c)).find? (fun w => w.has off)

/-! ### KV pools (R199, R216) -/

structure Pool where
  en : Bool
  base : Nat
  units : Nat
  ek : Nat
  ev : Nat
  ss : Nat
  ft : Nat
  deriving DecidableEq, Repr

/-- Bytes of one row of elements in a format (R197). -/
def kvBytes (fmt d : Nat) : Nat := if fmt = 2 then d / 2 else d
def poolOf (base units geom ft : Word) : Pool :=
  let dblk := getBits geom 4 3 + 1
  { en := bitOf geom 31, base := getBits base 0 20 * unit64K, units := getBits units 0 28,
    ek := kvBytes (getBits geom 0 2) (32 * dblk), ev := kvBytes (getBits geom 2 2) (32 * dblk), ss := if dblk ≤ 4 then 4 else 8,
    ft := getBits ft 0 20 * unit64K }
def poolReg (n r : Nat) : Nat := 0x80100 + 0x20 * n + 4 * r
def State.pool (s : State) (n : Nat) : Pool :=
  poolOf (s.reg (poolReg n 0)) (s.reg (poolReg n 1)) (s.reg (poolReg n 2)) (s.reg (poolReg n 3))
/-- Bytes of one unit: a 16-position page. -/
def Pool.unitBytes (p : Pool) : Nat := 16 * (p.ek + p.ev + 2 * p.ss)
def Pool.bytes (p : Pool) : Nat := p.units * p.unitBytes
/-- The enabled pool that holds a DRAM offset, and the unit there. -/
def State.poolAt (s : State) (off : Nat) : Option (Nat × Nat) :=
  ((List.range 4).find? (fun n =>
    let p := s.pool n
    p.en && decide (p.base ≤ off) && decide (off < p.base + p.bytes))).map (fun n =>
      (n, (off - (s.pool n).base) / (s.pool n).unitBytes))

/-! ### Areas -/

def State.asmArea (s : State) : Option (Nat × Nat) :=
  let r := s.reg 0x60028
  if bitOf r 31 then some (getBits r 0 20 * unit64K, getBits r 20 6 * 8388608) else none
def mirrorOf (m size : Word) : Option (Nat × Nat) :=
  if bitOf m 31 then some (getBits m 0 20 * unit64K, getBits size 0 20 * unit64K) else none
def State.mirrorArea (s : State) : Option (Nat × Nat) := mirrorOf (s.reg 0x70000) (s.reg 0x70004)
def bsAreaOf (r : Word) : Option (Nat × Nat) := if bitOf r 31 then some (getBits r 0 20 * unit64K, 33554432) else none
def State.bsArea (s : State) : Option (Nat × Nat) := bsAreaOf (s.reg 0x10F00)

/-- Frame tables hold 8 B per unit. -/
def Pool.frame (p : Pool) : Nat × Nat := (p.ft, 8 * p.units)
def State.poolRegions (s : State) (skip : Nat) : List (Nat × Nat) :=
  ((List.range 4).map (fun n =>
    let p := s.pool n
    if p.en && n ≠ skip then [(p.base, p.bytes), p.frame] else [])).flatten
def State.windowRegions (s : State) (skipC skipW : Nat) : List (Nat × Nat) :=
  ((List.range 64).map (fun c => ((List.range 4).map (fun w =>
    let x := s.window c w
    if x.en && !(c = skipC && w = skipW) then [(x.base, x.size)] else [])).flatten)).flatten
/-- Index past every pool or context: nothing is left out. -/
def noSkip : Nat := 1000
def meets (x y : Nat × Nat) : Bool :=
  decide (0 < x.2) && decide (0 < y.2) && decide (x.1 < y.1 + y.2) && decide (y.1 < x.1 + x.2)
def overlaps (r : Nat × Nat) (rs : List (Nat × Nat)) : Bool := rs.any (meets r)
def inDram (r : Nat × Nat) : Bool := decide (r.1 + r.2 ≤ dramBytes)

/-! ### Keys (R313, R401, R402) -/

/-- What tells one key from another: a delivered key by its bytes, a generated one by its identity. -/
def KeySlot.tag (k : KeySlot) : Option Nat :=
  if k.kind = .empty then none else some (if k.key = [] then 2 * k.ident else 2 * leNat k.key + 1)
def State.keyTag (s : State) (slot : Nat) : Option Nat := (s.keySlot slot).tag
def devKeySlot : Nat := 116
def ctxKeySlot (c : Nat) : Nat := 8 + c
def weightKeySlot (m : Nat) : Nat := 72 + m
/-- The tag of lines that hold ciphertext as it came (the mirror and assembly areas). -/
def rawTag : Nat := 2

/-- The key slot under which an access is made; none where the region has no key (Table 4 of R313). `ctx` is the context
of the access: the command's, or the sequence's. -/
def State.lineSlot (s : State) (ctx off : Nat) : Option Nat :=
  match s.windowAt ctx off with
  | some w => some (if w.table then devKeySlot else ctxKeySlot ctx)
  | none =>
    if (s.poolAt off).isSome then some (ctxKeySlot ctx)
    else if (s.asmArea.toList ++ s.mirrorArea.toList).any (fun r => decide (r.1 ≤ off) && decide (off < r.1 + r.2)) then none
    else some devKeySlot

/-- The tag of an access; none where its slot holds no key. -/
def State.lineTag (s : State) (ctx off : Nat) : Option Nat :=
  match s.lineSlot ctx off with
  | none => some rawTag
  | some k => s.keyTag k

/-! ### Address map (R306) -/

structure DAddr where
  ch : Nat
  bank : Nat
  row : Nat
  col : Nat
  deriving DecidableEq, Repr

def lineAddr (l : Nat) : DAddr :=
  let g := l / 15
  let slot := l % 15
  let p := g / 16 * 1024 + slot * 64
  let row := p / 32768
  { ch := (g ^^^ (g / 16) ^^^ (g / 256) ^^^ (g / 4096)) % 16, bank := (p / 2048 % 16) ^^^ (row % 16), row := row, col := p % 2048 }

/-- Lines of DRAM, and units of 64 KiB. -/
def dramLines : Nat := 754974720
def dramUnits : Nat := 737280
def bankIx (ch bank : Nat) : Nat := 16 * ch + bank
def rowIx (ch bank row : Nat) : Nat := bankIx ch bank * 131072 + row

def setBit16 (m : BitVec 16) (i : Nat) (b : Bool) : BitVec 16 :=
  if b then m ||| BitVec.ofNat 16 (2 ^ i) else m &&& ~~~(BitVec.ofNat 16 (2 ^ i))

/-! ### Queues of the controller (R314) -/

def State.modDram (s : State) (f : Dram → Dram) : State := { s with dram := f s.dram }
def Dram.reads (d : Dram) (ch : Nat) : List DReq := nget [] d.rq ch
def Dram.writes (d : Dram) (ch : Nat) : List DReq := nget [] d.wq ch
def Dram.setReads (d : Dram) (ch : Nat) (q : List DReq) : Dram := { d with rq := nset [] d.rq ch q }
def Dram.setWrites (d : Dram) (ch : Nat) (q : List DReq) : Dram := { d with wq := nset [] d.wq ch q }
/-- Write draining turns on and off (R314). -/
def Dram.drainRule (d : Dram) (ch : Nat) : Dram :=
  let w := (d.writes ch).length
  let on := if decide (48 ≤ w) || d.reads ch = [] then true
    else if decide (w ≤ 16) then false
    else d.drain.getLsbD ch
  { d with drain := setBit16 d.drain ch on }

/-! ### Lines of DRAM (R306 to R311, R330) -/

def Dram.lineKey (d : Dram) (l : Nat) : Nat := nget 0 d.keys l
def Dram.linePoison (d : Dram) (l : Nat) : Bool := nget false d.mem.poison l
/-- A 64 KiB unit that the clearing has not reached reads as zero (R330). -/
def Dram.uncleared (d : Dram) (off : Nat) : Bool := d.clearing && !nget false d.cleared (off / unit64K)

/-- The lines that a range touches. -/
def linesOf (off len : Nat) : List Nat :=
  if len = 0 then [] else (List.range ((off + len - 1) / 64 - off / 64 + 1)).map (fun i => off / 64 + i)

/-- The key bytes that a tag stands for (R313): a delivered key by its bytes, a generated one by its identity. -/
def tagKey (tag : Nat) : List Byte :=
  if tag % 2 = 1 then toLE 64 (tag / 2) else (List.range 64).map (Config.keyByte (tag / 2))

/-- A line's plaintext under one key as it decrypts under another: the line's tweak is its number (R313). Lines of the mirror and
assembly areas pass as they stand. -/
def recodeLine (was tag l : Nat) (plain : List Byte) : List Byte :=
  if was = tag then plain
  else
    let cipher := if was = rawTag then plain else xtsEncrypt (tagKey was) l plain
    if tag = rawTag then cipher else xtsDecrypt (tagKey tag) l cipher

/-- A line as it reads under a tag. -/
def Dram.lineUnder (d : Dram) (l tag : Nat) : List Byte :=
  if d.uncleared (64 * l) then List.replicate 64 0 else recodeLine (d.lineKey l) tag l (d.mem.bytes (64 * l) 64)

/-- Bytes as a read under a tag returns them. -/
def State.dramBytesAt (s : State) (off len : Nat) (tag : Nat) : List Byte :=
  let d := s.dram
  let same := (linesOf off len).all (fun l => d.lineKey l = tag || d.uncleared (64 * l))
  if same then (List.range len).map (fun i => if d.uncleared (off + i) then 0 else d.mem.byte (off + i))
  else ((linesOf off len).map (fun l =>
    let lo := max off (64 * l)
    let hi := min (off + len) (64 * l + 64)
    bytesAt (d.lineUnder l tag) (lo - 64 * l) (hi - lo))).flatten

/-- The poison of each byte's line. -/
def State.dramPoison (s : State) (off len : Nat) : List Bool :=
  (List.range len).map (fun i => !s.dram.uncleared (off + i) && s.dram.linePoison ((off + i) / 64))

/-- A partial write merged into a poisoned line (R311). -/
def State.mergePoison (s : State) (l : Nat) : State :=
  (s.bump 0x50054 0 32 1).record 0x0203 srcDrm 2 0 (toLE 4 l)

/-- The bytes of a unit of 64 KiB are zero, and its lines carry no poison: nothing written before the clearing remains (R330). -/
def Ram.zeroUnit (m : Ram) (unit : Nat) : Ram :=
  { m with cells := m.cells.filter (fun c => c.1 / unit64K ≠ unit), poison := m.poison.filter (fun e => e.1 / 1024 ≠ unit) }

/-- A unit is cleared to zeros under the device memory key; the last ends the clearing (R330). -/
def Dram.clearUnit (d : Dram) (unit tag : Nat) : Dram :=
  let c := nset false d.cleared unit true
  let d0 := { d with mem := d.mem.zeroUnit unit }
  let d1 := if tag = 0 then d0
    else { d0 with keys := (List.range 1024).foldl (fun k i => nset 0 k (1024 * unit + i) tag) d.keys }
  if c.length = dramUnits then { d1 with clearing := false, cleared := [] } else { d1 with cleared := c }

/-- One line of a write: its bytes outside the write are those that it decrypts to; a line covered whole takes the write's poison,
one covered in part keeps its own as well. The first write to a unit clears it (R330). -/
def State.dramPutLine (s : State) (l off : Nat) (bs : List Byte) (bad : Bool) (tag : Nat) : State :=
  let fresh := s.dram.uncleared (64 * l)
  let d := if fresh then s.dram.clearUnit (64 * l / unit64K) ((s.keyTag devKeySlot).getD 0) else s.dram
  let whole := off = 64 * l && bs.length = 64
  let old := !whole && d.linePoison l
  let base := if whole || d.lineKey l = tag then d.mem.cells else putCells d.mem.cells (64 * l) (d.lineUnder l tag)
  let s1 := { s with dram :=
    { d with mem := { d.mem with cells := putCells base off bs, poison := nset false d.mem.poison l (bad || old) },
             keys := nset 0 d.keys l tag } }
  if old then s1.mergePoison l else s1

/-- A write of bytes with their poison flags under a tag, line by line. -/
def State.dramPut (s : State) (off : Nat) (bs : List Byte) (flags : List Bool) (tag : Nat) : State :=
  (linesOf off bs.length).foldl (fun s l =>
    let lo := max off (64 * l)
    let hi := min (off + bs.length) (64 * l + 64)
    s.dramPutLine l lo ((bs.drop (lo - off)).take (hi - lo)) (((flags.drop (lo - off)).take (hi - lo)).any id) tag) s

/-! ### Permission of a core's DRAM access (R208, R415) -/

/-- A unit of a pool lies in a page of a list. -/
def inPages (pool unit : Nat) (ps : List PageId) : Bool :=
  ps.any (fun p => p.pool.toNat = pool && decide (p.unit ≤ unit) && decide (unit < p.unit + 2 ^ (p.cls - 4)))

/-- The pages of a row. -/
def Row.pageIds (r : Row) (pool : BitVec 2) : List PageId := r.pages.map (fun p => { pool := pool, unit := p.unit, cls := r.z })

/-- The pages that the named sequences of a command reference: of the sequences that it still holds (R205, R208). -/
def State.seqPages (s : State) (k : Cmd) : List PageId :=
  (k.seqs.map (fun e =>
    let q := s.seq e.1.toNat
    if q.busy = some k.ref then (q.rows.map (fun r => r.pageIds q.pool)).flatten else [])).flatten

/-- A core of a command may touch the byte at a DRAM offset. It reads the pages that the sequences it holds reference, and after a DROP or
TRUNCATE those that it has pinned (R208, R213); it writes its append set. -/
def State.dramAllowed (s : State) (k : Cmd) (write : Bool) (off : Nat) : Bool :=
  match s.windowAt k.ref.ctx.toNat off with
  | some w => if write then w.cw && !w.table else w.cr
  | none =>
    match s.poolAt off with
    | some (p, u) => inPages p u (if write then k.appends else k.pins ++ s.seqPages k)
    | none => false

/-- A core of a command may touch a range: its first byte in each line it touches. -/
def State.dramRangeOk (s : State) (k : Cmd) (write : Bool) (off len : Nat) : Bool :=
  decide (off + len ≤ dramBytes) && (linesOf off len).all (fun l => s.dramAllowed k write (max off (64 * l)))

/-- Every line of a range has a key. -/
def State.dramKeyed (s : State) (ctx off len : Nat) : Bool := (linesOf off len).all (fun l => (s.lineTag ctx (64 * l)).isSome)

/-- Accesses outside the commands of the controller's queues reach their channels: the idle time of each begins again, and a channel
in self-refresh wakes (R320), but during a switch of timing sets (R322). -/
def State.dramUse (s : State) (off len : Nat) : State :=
  if len = 0 then s
  else
    let chs := ((linesOf off len).map (fun l => (lineAddr l).ch)).eraseDups
    { s with dram := chs.foldl (fun (d : Dram) c =>
        { d with lastReq := nset 0 d.lastReq c s.us, selfRef := if d.switching then d.selfRef else setBit16 d.selfRef c false }) s.dram }

/-- A read of a range under the keys of a context: bytes, poison of each byte, and the state. -/
def State.dramRead (s : State) (ctx off len : Nat) : List Byte × List Bool × State :=
  (linesOf off len).foldl (fun acc l =>
    let lo := max off (64 * l)
    let hi := min (off + len) (64 * l + 64)
    (acc.1 ++ s.dramBytesAt lo (hi - lo) ((s.lineTag ctx (64 * l)).getD 0), acc.2.1 ++ s.dramPoison lo (hi - lo), acc.2.2))
    ([], [], s.dramUse off len)

/-- A write of a range under the keys of a context. -/
def State.dramWrite (s : State) (ctx off : Nat) (bs : List Byte) (flags : List Bool) : State :=
  (linesOf off bs.length).foldl (fun s l =>
    let lo := max off (64 * l)
    let hi := min (off + bs.length) (64 * l + 64)
    s.dramPut lo ((bs.drop (lo - off)).take (hi - lo)) ((flags.drop (lo - off)).take (hi - lo)) ((s.lineTag ctx (64 * l)).getD 0))
    (s.dramUse off bs.length)

end Sys2Proof.Machine
end

