-- ==== Sys2Proof/Machine/Kv.lean ====
section
/-! DEFINITION. The KV page allocator (R197 to R217): the buddy system of a pool, charges, reference counts and pins,
rows, the sequence tables in DRAM, and the start and commit of a RUN. -/

namespace Sys2Proof.Machine

/-! ### Pages (R200, R201, R211) -/

def pageKey (pool unit : Nat) : Nat := pool * 2 ^ 28 + unit
def PageId.key (p : PageId) : Nat := pageKey p.pool.toNat p.unit
def State.page (s : State) (key : Nat) : PageInfo := nget PageInfo.none s.pages key
def State.setPage (s : State) (key : Nat) (p : PageInfo) : State := { s with pages := nset PageInfo.none s.pages key p }
/-- Units of a page of class `z`. -/
def classUnits (z : Nat) : Nat := 2 ^ (z - 4)

/-- The allocated pages of a pool as first unit and units. -/
def State.allocated (s : State) (pool : Nat) : List (Nat × Nat) :=
  (s.pages.filter (fun e => e.1 / 2 ^ 28 = pool)).map (fun e => (e.1 % 2 ^ 28, classUnits e.2.cls))

def unitsFree (al : List (Nat × Nat)) (u n : Nat) : Bool := al.all (fun a => decide (a.1 + a.2 ≤ u) || decide (u + n ≤ a.1))

/-- A free block of class `z` at a unit: free, while the block of the next class that holds it is not. -/
def freeBlock (al : List (Nat × Nat)) (z u : Nat) : Bool :=
  unitsFree al u (classUnits z) && (z = 10 || !unitsFree al (u / classUnits (z + 1) * classUnits (z + 1)) (classUnits (z + 1)))

/-- The 64-unit blocks of a pool that hold an allocated page. -/
def touchedBlocks (al : List (Nat × Nat)) : List Nat :=
  al.foldl (fun acc a => if acc.contains (a.1 / 64) then acc else acc ++ [a.1 / 64]) []

/-- The free blocks of a class, lowest unit first. Blocks merge at every release, so they follow from what is allocated. -/
def State.freeBlocks (s : State) (pool z : Nat) : List Nat :=
  let al := s.allocated pool
  if z = 10 then ((List.range ((s.pool pool).units / 64)).filter (fun b => !(touchedBlocks al).contains b)).map (64 * ·)
  else ((touchedBlocks al).map (fun b =>
    (((List.range (64 / classUnits z)).map (fun i => 64 * b + i * classUnits z)).filter (freeBlock al z)))).flatten

/-- Free blocks on a class's list. -/
def State.freeCount (s : State) (pool z : Nat) : Nat :=
  if z = 10 then (s.pool pool).units / 64 - (touchedBlocks (s.allocated pool)).length else (s.freeBlocks pool z).length
def State.freeUnits (s : State) (pool : Nat) : Nat :=
  (s.pool pool).units - ((s.allocated pool).map (·.2)).foldl (· + ·) 0

/-- The lowest free block of a class. -/
def State.lowestFree (s : State) (pool z : Nat) : Option Nat :=
  if z = 10 then
    ((List.range ((s.pool pool).units / 64)).find? (fun b => !(touchedBlocks (s.allocated pool)).contains b)).map (64 * ·)
  else (s.freeBlocks pool z).head?

/-- The unit that an allocation of class `z` takes: in the smallest class at or above `z` with a free block (R200). -/
def State.takeUnit (s : State) (pool z : Nat) : Option Nat :=
  ((List.range (11 - z)).map (fun i => s.lowestFree pool (z + i))).findSome? id

def budgetReg (c : Nat) : Nat := 0x80400 + 8 * c
def State.budgetOf (s : State) (c : Nat) : Nat := getBits (s.reg (budgetReg c)) 0 28
def State.budgetPool (s : State) (c : Nat) : Nat := getBits (s.reg (budgetReg c)) 30 2
def State.usedOf (s : State) (c : Nat) : Nat := nget 0 s.used c
def State.charge (s : State) (c n : Nat) : State := { s with used := nset 0 s.used c (s.usedOf c + n) }
def State.discharge (s : State) (c n : Nat) : State := { s with used := nset 0 s.used c (s.usedOf c - n) }

/-- `n` pages of a class for a context: all or none. -/
def State.allocPages (s : State) (pool z c : Nat) : Nat → Option (List Nat × State)
  | 0 => some ([], s)
  | n + 1 =>
    match s.takeUnit pool z with
    | none => none
    | some u =>
      let s1 := (s.setPage (pageKey pool u) { cls := z, refs := 1, pins := [], ctx := BitVec.ofNat 6 c }).charge c (classUnits z)
      match s1.allocPages pool z c n with
      | none => none
      | some r => some (u :: r.1, r.2)

/-- A row of `n` pages of one class where the budget and the pool permit it (R201, R202). -/
def State.allocRow (s : State) (pool z c n : Nat) : Option (List Nat × State) :=
  if decide (s.usedOf c + n * classUnits z ≤ s.budgetOf c) && (s.pool pool).en then s.allocPages pool z c n else none

/-- A page without references and pins is released (R211). Where its frame-table entry reads uncorrectable the page stays
out of the buddy system for good, with FT_ERR and its record. -/
def State.releaseIf (s : State) (key : Nat) : State :=
  let p := s.page key
  if p.cls = 0 || p.refs ≠ 0 || p.pins ≠ [] then s
  else
    let fa := (s.pool (key / 2 ^ 28)).ft + 8 * (key % 2 ^ 28)
    let s1 := s.discharge p.ctx.toNat (classUnits p.cls)
    if s.dram.linePoison (fa / 64) then
      (s1.setReg 0x80004 (s1.reg 0x80004 ||| 0x40000000#32)).record 0x0209 srcKvp 2 stUncorrectable (toLE 8 (dramBase + fa))
    else { s1 with pages := nerase s1.pages key }

def State.addRef (s : State) (key : Nat) : State := s.setPage key { s.page key with refs := (s.page key).refs + 1 }
def State.dropRef (s : State) (key : Nat) : State :=
  (s.setPage key { s.page key with refs := (s.page key).refs - 1 }).releaseIf key
def State.addPin (s : State) (r : CmdRef) (key : Nat) : State :=
  s.setPage key { s.page key with pins := (s.page key).pins ++ [r] }
def State.dropPin (s : State) (r : CmdRef) (key : Nat) : State :=
  (s.setPage key { s.page key with pins := (s.page key).pins.filter (fun x => x ≠ r) }).releaseIf key

/-! ### Sequences and their tables (R203, R204) -/

def rowEnd (r : Row) : Nat := r.start + 2 ^ r.z
def Seq.reserved (q : Seq) : Nat := match q.rows.getLast? with | some r => rowEnd r | none => 0
def Seq.rstride (q : Seq) : Nat := (64 + 8 * q.streams + 63) / 64 * 64
def Seq.tableBytes (q : Seq) : Nat := 64 + q.maxrows * q.rstride
def Seq.pageIds (q : Seq) : List PageId := (q.rows.map (fun r => r.pageIds q.pool)).flatten

/-- The core-map address of a page. -/
def State.pageAddr (s : State) (pool unit : Nat) : Nat := dramBase + (s.pool pool).base + unit * (s.pool pool).unitBytes

def headerBytes (q : Seq) : List Byte :=
  toLE 4 q.v ++ toLE 4 q.reserved ++ toLE 2 q.rows.length ++ toLE 2 q.streams ++ toLE 2 q.maxrows ++ toLE 1 q.pool.toNat ++
  toLE 1 q.pref ++ toLE 4 q.rstride ++ List.replicate 44 0

/-- A page-table entry (Table 4). -/
def State.pte (s : State) (q : Seq) (z : Nat) (p : Page) : Nat :=
  (if p.dirty then 2 ^ 63 else 0) + s.pageAddr q.pool.toNat p.unit % 2 ^ 40 / 64 * 64 + q.pool.toNat * 16 + z

def State.rowBytes (s : State) (q : Seq) (r : Row) : List Byte :=
  padTo q.rstride (toLE 4 r.start ++ toLE 1 r.z ++ List.replicate 59 0 ++ (r.pages.map (fun p => toLE 8 (s.pte q r.z p))).flatten)

/-- A sequence's whole table; rows at or above ROWS are zero. -/
def State.tableOf (s : State) (q : Seq) : List Byte :=
  padTo q.tableBytes (headerBytes q ++ (q.rows.map (s.rowBytes q)).flatten)

/-- Table bytes are written under the device memory key (Table 4 of R313). -/
def State.writeTable (s : State) (q : Seq) : State :=
  (s.dramUse (q.table - dramBase) (s.tableOf q).length).dramPut (q.table - dramBase) (s.tableOf q) [] ((s.keyTag devKeySlot).getD 0)

/-- A sequence slot takes a value, and its table is written. -/
def State.storeSeq (s : State) (n : Nat) (q : Seq) : State := (s.setSeq n q).writeTable q

/-- The table lies inside the context's table window (R210, R415). -/
def State.inTableWindow (s : State) (c a len : Nat) : Bool :=
  decide (dramBase ≤ a) && (List.range 4).any (fun i =>
    let w := s.window c i
    w.en && w.table && decide (w.base ≤ a - dramBase) && decide (a - dramBase + len ≤ w.base + w.size))

/-! ### Rows (R202, R206) -/

/-- A new row of a sequence: of its preferred class, or the class-4 fall-back. -/
def State.newRow (s : State) (q : Seq) : Option (Row × State) :=
  let mk := fun (z : Nat) => (s.allocRow q.pool.toNat z q.ctx.toNat q.streams).map (fun r =>
    (({ start := q.reserved, z := z, pages := r.1.map (fun u => ({ unit := u, dirty := false } : Page)) } : Row), r.2))
  match mk q.pref with
  | some r => some r
  | none => mk 4

/-- The four sections of a page that hold a run of its first positions: offset and bytes (R197). -/
def Pool.spans (p : Pool) (z n : Nat) : List (Nat × Nat) :=
  let c := 2 ^ z
  [(0, n * p.ek), (c * p.ek, n * p.ss), (c * (p.ek + p.ss), n * p.ev), (c * (p.ek + p.ss + p.ev), n * p.ss)]

/-- The allocator's copy of the first positions of a page, under the sequence's context key; poison goes with the data. -/
def State.copyPage (s : State) (pool c z n src dst : Nat) : State :=
  let p := s.pool pool
  let s1 := (p.spans z n).foldl (fun s sp =>
    let a := s.pageAddr pool src - dramBase + sp.1
    let d := s.pageAddr pool dst - dramBase + sp.1
    let x := s.dramRead c a sp.2
    x.2.2.dramWrite c d x.1 x.2.1) s
  s1.bump 0x80010 0 32 (((p.spans z n).map (fun sp => (linesOf (s.pageAddr pool dst - dramBase + sp.1) sp.2).length)).foldl (· + ·) 0)

/-- The row that holds position V shares a page. -/
def State.needsCow (s : State) (n : Nat) : Bool :=
  let q := s.seq n
  q.rows.any (fun r => decide (r.start < q.v) && decide (q.v < rowEnd r) &&
    r.pages.any (fun p => decide (1 < (s.page (pageKey q.pool.toNat p.unit)).refs)))

/-- Copy on write of the row that holds position V; none where no row of its class can be allocated (R206 step 2). -/
def State.cowSeq (s : State) (n : Nat) : Option State :=
  let q := s.seq n
  match q.rows.zipIdx.find? (fun e => decide (e.1.start < q.v) && decide (q.v < rowEnd e.1)) with
  | none => some s
  | some (r, i) =>
    if r.pages.all (fun p => decide ((s.page (pageKey q.pool.toNat p.unit)).refs ≤ 1)) then some s
    else match s.allocRow q.pool.toNat r.z q.ctx.toNat q.streams with
      | none => none
      | some (us, s1) =>
        let pairs := r.pages.zip us
        let s2 := pairs.foldl (fun s e => s.copyPage q.pool.toNat q.ctx.toNat r.z (q.v - r.start) e.1.unit e.2) s1
        let s3 := pairs.foldl (fun s e => s.dropRef (pageKey q.pool.toNat e.1.unit)) s2
        some (s3.storeSeq n { q with rows := q.rows.set i { r with pages := pairs.map (fun e => { e.1 with unit := e.2 }) } })

/-- New rows until the sequence covers a length (R206 step 3): whether it succeeded, and the state, in which rows stand. -/
def State.growSeq (s : State) (n upto : Nat) : Nat → Bool × State
  | 0 => (true, s)
  | f + 1 =>
    let q := s.seq n
    if upto ≤ q.reserved then (true, s)
    else if q.maxrows ≤ q.rows.length then (false, s)
    else match s.newRow q with
      | none => (false, s)
      | some (r, s1) => (s1.storeSeq n { q with rows := q.rows ++ [r] }).growSeq n upto f

/-! ### The start of a RUN (R206) -/

def State.kvEnabled (s : State) : Bool := bitOf (s.reg 0x80000) 0
def maxPositions : Nat := 1048576

/-- Step 1 for one named slot and append count. -/
def State.kvCheck (s : State) (c : BitVec 6) (e : BitVec 10 × Nat) : Bool :=
  let q := s.seq e.1.toNat
  let want := q.v + e.2
  let extra := if want ≤ q.reserved then 0 else (want - q.reserved + 2 ^ q.pref - 1) / 2 ^ q.pref
  q.st = .live && q.ctx = c && decide (want ≤ maxPositions) && decide (q.rows.length + extra ≤ q.maxrows)

/-- The pages of the rows that hold positions from V to V + T - 1 (step 5). -/
def Seq.appendPages (q : Seq) (t : Nat) : List PageId :=
  ((q.rows.filter (fun r => decide (r.start < q.v + t) && decide (q.v < rowEnd r))).map (fun r => r.pageIds q.pool)).flatten

/-- Steps 2 and 3 over the named sequences. -/
def State.kvGrow (s : State) (names : List (BitVec 10 × Nat)) : Bool × State :=
  let live := names.filter (fun e => decide (0 < e.2))
  let a := live.foldl (fun (acc : Bool × State) e =>
    if acc.1 then (match acc.2.cowSeq e.1.toNat with | some s1 => (true, s1) | none => (false, acc.2)) else acc) (true, s)
  live.foldl (fun (acc : Bool × State) e =>
    if acc.1 then acc.2.growSeq e.1.toNat ((acc.2.seq e.1.toNat).v + e.2) 65537 else acc) a

/-- The KV start: whether it succeeded, the pins, the append set, and the state. The pins are taken on what the sequences
referenced when step 1 began, before step 2 can drop a page. -/
def State.kvStart (s : State) (r : CmdRef) (names : List (BitVec 10 × Nat)) : Bool × List PageId × List PageId × State :=
  if names = [] then (true, [], [], s)
  else if !s.kvEnabled || !names.all (s.kvCheck r.ctx) then (false, [], [], s)
  else
    let pins := (names.map (fun e => (s.seq e.1.toNat).pageIds)).flatten.eraseDups
    let s1 := pins.foldl (fun s p => s.addPin r p.key) s
    let g := s1.kvGrow names
    if g.1 then
      (true, pins, (names.map (fun e => if e.2 = 0 then [] else (g.2.seq e.1.toNat).appendPages e.2)).flatten, g.2)
    else (false, [], [], pins.foldl (fun s p => s.dropPin r p.key) g.2)

/-! ### The commit (R207) -/

def Row.markDirty (r : Row) (lo hi : Nat) : Row :=
  if r.start < hi ∧ lo < rowEnd r then { r with pages := r.pages.map (fun p => { p with dirty := true }) } else r

/-- One sequence of a RUN that ended well. -/
def State.kvCommit (s : State) (c : BitVec 6) (e : BitVec 10 × Nat × Nat) : State :=
  let q := s.seq e.1.toNat
  let t := e.2.2
  if t = 0 || q.st ≠ .live || q.ctx ≠ c then s
  else s.storeSeq e.1.toNat { q with v := q.v + t, rows := q.rows.map (fun r => r.markDirty q.v (q.v + t)) }

end Sys2Proof.Machine
end

