-- ==== Sys2Proof/Machine/CoreDma.lean ====
section
/-! DEFINITION. The DMA engine (R153, R173, R182 to R190): descriptors, their checks, the transfer of bytes with poison,
RING transfers, and the end of waits for protected bytes (R80). -/

namespace Sys2Proof.Machine

/-! ### Descriptors (Tables 5 and 6 of R182) -/

structure DPart where
  src : Nat
  dst : Nat
  len : Nat
  rows : Nat
  spitch : Nat
  dpitch : Nat
  cstep : Nat
  deriving DecidableEq, Repr

structure DDesc where
  kind : Nat
  ring : Nat
  parts : Nat
  flags : Nat
  ps : List DPart
  deriving DecidableEq, Repr

def dPart (b : List Byte) (o : Nat) : DPart :=
  { src := leAt b o 6, dst := leAt b (o + 6) 6, len := leAt b (o + 12) 4, rows := leAt b (o + 16) 2, spitch := leAt b (o + 18) 4,
    dpitch := leAt b (o + 22) 4, cstep := leAt b (o + 26) 2 }
def dDesc (b : List Byte) : DDesc :=
  let n := byteAt b 2
  { kind := byteAt b 0, ring := byteAt b 1, parts := n, flags := byteAt b 3, ps := dPart b 8 :: (if n = 2 then [dPart b 0x24] else []) }

def DPart.ok (p : DPart) (kind : Nat) : Bool :=
  decide (1 ≤ p.len) && decide (p.len ≤ 1048576) && decide (1 ≤ p.rows) && (kind ≠ 1 || p.src = 0) &&
  (kind ≠ 2 || (p.len % 4 = 0 && decide (p.src < 2 ^ 32)))

/-- The refusals with ST_BITSTREAM of R184 that the bytes decide. -/
def dDescOk (b : List Byte) : Bool :=
  let d := dDesc b
  decide (d.kind ≤ 2) && (if d.kind = 1 then decide (d.ring ≤ 15) else d.ring = 0) && (d.parts = 1 || d.parts = 2) &&
  decide (d.flags < 4) && (d.kind = 0 || d.flags = 0) && (d.parts = 2 || decide (d.flags < 2)) && allZero (bytesAt b 4 4) &&
  (d.parts = 2 || allZero (bytesAt b 0x24 28)) && d.ps.all (fun p => p.ok d.kind)

/-- Source and destination of a part for a logical core (R182). -/
def DDesc.srcOf (d : DDesc) (i : Nat) (p : DPart) (n : Nat) : Nat := p.src + (if d.flags / 2 ^ i % 2 = 1 then p.cstep * n else 0)
def DDesc.dstOf (d : DDesc) (i : Nat) (p : DPart) (n : Nat) : Nat := p.dst + (if d.flags / 2 ^ i % 2 = 1 then 0 else p.cstep * n)

/-- The destination rows of a descriptor as map ranges, in walk order, and the source rows of a COPY. -/
def DDesc.dstRows (d : DDesc) (n : Nat) : List (Nat × Nat) :=
  (d.ps.zipIdx.map (fun e => (List.range e.1.rows).map (fun r => (d.dstOf e.2 e.1 n + r * e.1.dpitch, e.1.len)))).flatten
def DDesc.srcRows (d : DDesc) (n : Nat) : List (Nat × Nat) :=
  if d.kind = 0 then
    (d.ps.zipIdx.map (fun e => (List.range e.1.rows).map (fun r => (d.srcOf e.2 e.1 n + r * e.1.spitch, e.1.len)))).flatten
  else []

/-! ### The core address map (R173) -/

inductive Place where
  | ram (m : MemSel) (off : Nat)
  | dram (off : Nat)
  deriving DecidableEq, Repr

/-- The space that holds a whole range. -/
def placeOf (n : Nat) (a len : Nat) : Option Place :=
  let c := BitVec.ofNat 4 n
  let within := fun (base size : Nat) => decide (base ≤ a) && decide (a + len ≤ base + size)
  if within 0 0x400000 then some (.ram (.cmem c) a)
  else if within 0x400000 0x10000 then some (.ram (.bufA c) (a - 0x400000))
  else if within 0x420000 0x20000 then some (.ram (.bufB c) (a - 0x420000))
  else if within 0x440000 0x10000 then some (.ram (.bufD c) (a - 0x440000))
  else if within shmBase shmSize then some (.ram .shm (a - shmBase))
  else if within dramBase dramBytes then some (.dram (a - dramBase))
  else none

/-- A source row lies in a place that the core's command may read (R181, R184, R208, R415). -/
def State.srcOk (s : State) (n : Nat) (k : Cmd) (r : Nat × Nat) : Bool :=
  match placeOf n r.1 r.2 with
  | none => false
  | some (.ram .shm o) => s.shmOk (s.core n).slot [kindWork, kindArgs] o r.2
  | some (.ram _ _) => true
  | some (.dram o) => s.dramRangeOk k false o r.2

def State.dstOk (s : State) (n : Nat) (k : Cmd) (ring : Bool) (r : Nat × Nat) : Bool :=
  match placeOf n r.1 r.2 with
  | none => false
  | some (.ram .shm o) => !ring && s.shmOk (s.core n).slot [kindWork] o r.2
  | some (.ram (.bufD _) _) => !ring
  | some (.ram _ _) => true
  | some (.dram o) => !ring && s.dramRangeOk k true o r.2

/-- Every DRAM row has its key (R313). -/
def State.rowKeyed (s : State) (n : Nat) (k : Cmd) (r : Nat × Nat) : Bool :=
  match placeOf n r.1 r.2 with
  | some (.dram o) => s.dramKeyed k.ref.ctx.toNat o r.2
  | _ => true

/-- A command that no core runs stands for the rights of none. -/
def Cmd.blank : Cmd :=
  { ref := { ctx := 0, spool := 0, idx := 0 }, bytes := [], phase := false, order := 0, door := 0, stage := .ended, status := 0,
    begin_ := 0, end_ := 0, cores := 0, codes := [], pass := 0, result := 0, host := none, pins := [], appends := [], seqs := [],
    forced := [], cut := false, slot := 0, done := 0 }
def State.cmdOf (s : State) (n : Nat) : Cmd :=
  match (s.core n).cmd with
  | some r => (s.cmd? r).getD { Cmd.blank with ref := r }
  | none => Cmd.blank

/-- The RING partition of the core's bitstream that carries a ring number. -/
def State.hasRing (s : State) (slot : Option (BitVec 3)) (ring : Nat) : Bool :=
  slot.isSome && s.parts.any (fun e => e.2.slot = slot && e.2.kind.toNat = kindRing && e.2.ring.toNat = ring)

/-! ### Dispatch and issue -/

def opDma (s : State) (n : Nat) (k : Core) : CoreInstr → Option State
  | .dma g tw cw ts => some (if k.hasRoom .dma then s.setCore n (k.dispatch .dma (.dma g tw cw ts)) else s)
  | _ => none

def execDma (c : BitVec 4) (s : State) : Host.Outcome State Fault Refusal := .next (s.frontStep c.toNat (opDma s c.toNat))

/-- A DMA issues: its descriptor is read once and checked (R153, R182, R184). -/
def dmaIssue (s : State) (n : Nat) (f : DmaF) (d : Disp) : State :=
  let k := s.core n
  let a := d.x0.toNat
  let m := MemSel.cmem (BitVec.ofNat 4 n)
  if a % 64 ≠ 0 ∨ !k.inPort 3 a 64 then s.excDisp n stBounds d
  else
    let t := s.touch m a 64
    if t.2 ≠ .clean then t.1.excDisp n t.2.status d
    else
      let b := (t.1.ram m).bytes a 64
      let dd := dDesc b
      let cm := t.1.cmdOf n
      if !dDescOk b || (dd.kind = 1 && !t.1.hasRing k.slot dd.ring) then t.1.excDisp n stBitstream d
      else if !((dd.srcRows n).all (t.1.srcOk n cm) && (dd.dstRows n).all (t.1.dstOk n cm (dd.kind = 1))) then
        t.1.excDisp n stBounds d
      else if !(dd.srcRows n ++ dd.dstRows n).all (t.1.rowKeyed n cm) then t.1.excDisp n stKey d
      else (t.1.modCore n (fun k =>
        (({ k with dma := { k.dma with pend := k.dma.pend.drop 1 } }.consume f.cw f.tw).liftUsigs .dma).addFlight .dma
          (newFlight d b))).takeTag n

def execDmaIssue (c : BitVec 4) (s : State) : Host.Outcome State Fault Refusal :=
  let n := c.toNat
  let k := s.core n
  match k.dma.pend with
  | d :: _ =>
    (match dmaOf d.ins with
    | some f =>
      if s.unitsRun n && k.mayIssue n .dma d then .next (dmaIssue s n f d) else .next s
    | none => .next s)
  | [] => .next s

/-! ### Transfer -/

/-- The flight is one of the four that the engine works on, and no earlier one writes its destination (R185 rule 1). -/
def Core.dmaActive (k : Core) (n : Nat) (f : Flight) : Bool :=
  let rows := (dDesc f.desc).dstRows n
  (k.dma.flights.take 4).any (fun g => g.d.sn = f.d.sn) &&
  k.dma.flights.all (fun g => !(decide (g.d.sn < f.d.sn) && ((dDesc g.desc).dstRows n).any (fun r => overlaps r rows)))

/-- Bytes that a flight may not yet touch: destinations that an issued instruction reads (R80, R110), sources in D that a
drain writes. -/
def Core.dmaHeld (k : Core) (n : Nat) (f : Flight) : Bool :=
  let d := dDesc f.desc
  (d.dstRows n).any (fun r => match placeOf n r.1 r.2 with | some (.ram m o) => k.writeHeld m o r.2 | _ => false) ||
  (d.srcRows n).any (fun r => match placeOf n r.1 r.2 with | some (.ram m o) => k.readHeld m o r.2 | _ => false)

/-- A row read: its bytes, their poison, and whether the read found an uncorrectable granule (R189). -/
def State.readRow (s : State) (n : Nat) (r : Nat × Nat) : List Byte × List Bool × Bool × State :=
  match placeOf n r.1 r.2 with
  | some (.ram m o) =>
    let t := s.touch m o r.2
    let ram := t.1.ram m
    (ram.bytes o r.2, if t.2 = .clean then [] else (List.range r.2).map (fun i => ram.poisoned (o + i) 1), t.2 = .ue, t.1)
  | some (.dram o) =>
    let x := s.dramRead (s.cmdOf n).ref.ctx.toNat o r.2
    (x.1, x.2.1, false, x.2.2)
  | none => ([], [], false, s)

/-- The places in DRAM of positions below V that a write reaches: key, key scales, value and value scales of each (R197, R208). -/
def State.oldSpans (s : State) (k : Cmd) (off len : Nat) : List (Nat × Nat) :=
  (k.seqs.map (fun e =>
    let q := s.seq e.1.toNat
    let p := s.pool q.pool.toNat
    let rows := if e.2.2 = 0 then [] else q.rows.filter (fun r => decide (r.start < e.2.1) && decide (e.2.1 < rowEnd r))
    (rows.map (fun r => (r.pages.map (fun pg =>
      let a := s.pageAddr q.pool.toNat pg.unit - dramBase
      let c := 2 ^ r.z
      if !rangesMeet a (classUnits r.z * p.unitBytes) off len then []
      else ((List.range (e.2.1 - r.start)).map (fun j =>
        let sp := [(a + j * p.ek, p.ek), (a + c * p.ek + j * p.ss, p.ss), (a + c * (p.ek + p.ss) + j * p.ev, p.ev),
          (a + c * (p.ek + p.ss + p.ev) + j * p.ss, p.ss)]
        if anyMeet sp off len then sp else [])).flatten)).flatten)).flatten)).flatten

/-- A write below V leaves the contents of those positions undefined: free bytes (R208). -/
def State.loseBelow (s : State) (k : Cmd) (off len : Nat) : State :=
  (s.oldSpans k off len).foldl (fun s r =>
    let d := s.drawBytes r.2
    d.2.dramWrite k.ref.ctx.toNat r.1 d.1 []) s

def State.writeRow (s : State) (n : Nat) (a : Nat) (bs : List Byte) (flags : List Bool) : State :=
  match placeOf n a bs.length with
  | some (.ram m o) => s.putRam m o bs flags
  | some (.dram o) => (s.dramWrite (s.cmdOf n).ref.ctx.toNat o bs flags).loseBelow (s.cmdOf n) o bs.length
  | none => s

/-- COPY: rows in walk order, each read and then written. -/
def State.copyRows (s : State) (n : Nat) : List ((Nat × Nat) × (Nat × Nat)) → State × Bool
  | [] => (s, false)
  | (src, dst) :: t =>
    let x := s.readRow n src
    let r := (x.2.2.2.writeRow n dst.1 x.1 x.2.1).copyRows n t
    (r.1, x.2.2.1 || r.2)

/-- FILL: the pattern repeated across each row. -/
def fillRow (pattern len : Nat) : List Byte := (List.range len).map (fun i => BitVec.ofNat 8 (pattern / 256 ^ (i % 4)))
def State.fillRows (s : State) (n : Nat) (d : DDesc) : State :=
  d.ps.zipIdx.foldl (fun s e => (List.range e.1.rows).foldl (fun s r =>
    s.writeRow n (d.dstOf e.2 e.1 n + r * e.1.dpitch) (fillRow e.1.src e.1.len) []) s) s

/-- RING: the piece's bytes, with the poison of their granules, packed into the rows. -/
def State.pieceRows (s : State) (n : Nat) (data : List Byte) (flags : List Bool) : List (Nat × Nat) → State
  | [] => s
  | r :: t =>
    (s.writeRow n r.1 (data.take r.2) (flags.take r.2)).pieceRows n (data.drop r.2) (flags.drop r.2) t

/-- Once a transfer no longer waits for protected bytes, the engine waits only where another of its transfers does. -/
def Core.dmaWait (k : Core) (n sn : Nat) : Bool :=
  k.dma.wait && (k.dma.flights.take 4).any (fun g => decide (g.d.sn ≠ sn) && k.dmaHeld n g)

/-- The flight leaves the engine, with its tag. -/
def State.dmaDrop (s : State) (n sn : Nat) : State :=
  (s.modCore n (fun k => { k with dma := { k.dma.dropFlight sn with wait := k.dmaWait n sn } })).giveTag n

/-- COPY and FILL move their bytes and reach the release point; a RING transfer does once its piece is taken. -/
def dmaRelease (s : State) (n : Nat) (f : Flight) (ts : BitVec 6) : State :=
  let d := dDesc f.desc
  let k := s.core n
  if !k.dmaActive n f then s
  else if d.kind = 1 then (if f.phase = 1 then (s.dmaDrop n f.d.sn).modCore n (fun k => k.setTack ts) else s)
  else if k.dmaHeld n f then s.setCore n { k with dma := { k.dma with wait := true } }
  else if d.kind = 2 then (((s.fillRows n d).dmaDrop n f.d.sn).modCore n (fun k => k.setTack ts)).note n true (d.dstRows n)
  else
    let r := s.copyRows n ((d.srcRows n).zip (d.dstRows n))
    let s1 := (r.1.dmaDrop n f.d.sn).note n true (d.dstRows n)
    if r.2 || f.ue then s1.excDisp n stUncorrectable f.d else s1.modCore n (fun k => k.setTack ts)

/-- A unit instruction reaches its release point (R143): DMA here; VLD, VST and NORM, whose effect came with their issue. -/
def execReleasePoint (c : BitVec 4) (u : CoreUnit) (flight : Nat) (s : State) : Host.Outcome State Fault Refusal :=
  let n := c.toNat
  let k := s.core n
  if !s.unitsRun n then .next s
  else match u with
    | .dma =>
      (match findFlight k.dma flight with
      | some f => (match dmaOf f.d.ins with | some x => .next (dmaRelease s n f x.ts) | none => .next s)
      | none => .next s)
    | .vector =>
      (match findFlight k.vec flight with
      | some f =>
        (match f.d.ins with
        | .red _ _ _ _ _ _ _ _ => .next s
        | .topk _ _ _ _ _ _ _ _ _ _ => .next s
        | i => .next (s.setCore n ({ k with vec := k.vec.dropFlight flight }.setTack (vecTacks i).2.2)))
      | none => .next s)
    | _ => .next s

/-! ### RING transfers (R183, R268) -/

def ringKey (slot ring : Nat) : Nat := 16 * slot + ring
def State.ringQ (s : State) (slot ring : Nat) : List Piece := nget [] s.rings (ringKey slot ring)
def State.setRingQ (s : State) (slot ring : Nat) (ps : List Piece) : State :=
  { s with rings := nset [] s.rings (ringKey slot ring) ps }

def takeFirst (pass : Word) (core : BitVec 4) : List Piece → List Piece
  | [] => []
  | p :: t => if !p.taken && p.pass = pass && p.core = core then { p with taken := true } :: t else p :: takeFirst pass core t

/-- Space is free once a piece and all before it are taken (R267). -/
def freeTaken (ps : List Piece) : List Piece := ps.dropWhile (fun p => p.taken)

/-- The RING partition of a ring: its byte offset in shared memory and its size (R267). -/
def State.ringPart (s : State) (slot ring : Nat) : Option (Nat × Nat) :=
  (s.parts.find? (fun e => e.2.slot = some (BitVec.ofNat 3 slot) && e.2.kind.toNat = kindRing && e.2.ring.toNat = ring)).map
    (fun e => (e.2.base * 0x10000, e.2.size * 0x10000))

/-- The shared-memory ranges of bytes of a partition from a place in it, which go on at its start past its end. Where the bytes of
staged pieces lie inside the partition is the model's choice (DESIGN CHOICE, log entry 95). -/
def ringSpans (part : Nat × Nat) (at_ len : Nat) : List (Nat × Nat) :=
  if at_ + len ≤ part.2 then [(part.1 + at_, len)] else [(part.1 + at_, part.2 - at_), (part.1, at_ + len - part.2)]

/-- A read of a staged piece: its bytes, the poison of each, and what the read found (R188, R189). -/
def State.pieceRead (s : State) (slot ring : Nat) (p : Piece) : List Byte × List Bool × Taint × State :=
  match s.ringPart slot ring with
  | none => ([], [], .clean, s)
  | some part =>
    let sp := ringSpans part p.at_ p.len
    let t := s.touchAll (sp.map (fun r => (.shm, r.1, r.2)))
    ((sp.map (fun r => t.1.shm.bytes r.1 r.2)).flatten,
     if t.2 = .clean then [] else (sp.map (fun r => (List.range r.2).map (fun i => t.1.shm.poisoned (r.1 + i) 1))).flatten, t.2, t.1)

/-- The place after the last piece of a ring. -/
def ringNext (size : Nat) (q : List Piece) : Nat :=
  match q.getLast? with
  | none => 0
  | some p => (p.at_ + p.len) % size

/-- A piece is written into its ring's partition and stands last on the ring. -/
def State.putPiece (s : State) (slot ring : Nat) (pass : Word) (core : BitVec 4) (data : List Byte) : State :=
  match s.ringPart slot ring with
  | none => s
  | some part =>
    let a := ringNext part.2 (s.ringQ slot ring)
    let sp := ringSpans part a data.length
    let s1 := (sp.foldl (fun (acc : List Byte × State) r => (acc.1.drop r.2, acc.2.writeRam .shm r.1 (acc.1.take r.2))) (data, s)).2
    s1.setRingQ slot ring (s1.ringQ slot ring ++ [{ pass := pass, core := core, at_ := a, len := data.length, taken := false }])

def DDesc.bytes (d : DDesc) : Nat := (d.ps.map (fun p => p.len * p.rows)).foldl (· + ·) 0

/-- A RING transfer that has not taken its piece, and an earlier one of the same ring that has not taken its own. -/
def DDesc.ringOf (d : DDesc) (ring : Nat) : Bool := d.kind = 1 && d.ring = ring
def Core.ringAhead (k : Core) (f : Flight) : Nat :=
  (k.dma.flights.filter (fun g => decide (g.d.sn < f.d.sn) && (dDesc g.desc).ringOf (dDesc f.desc).ring && g.phase = 0)).length

/-- The piece of a RING transfer is staged: the core's untaken pieces of its pass on that ring go to its transfers in issue
order (R183). -/
def State.pieceReady (s : State) (n : Nat) (f : Flight) : Bool :=
  let k := s.core n
  let cm := s.cmdOf n
  let have_ := (s.ringQ (k.slot.getD 0).toNat (dDesc f.desc).ring).filter (fun p =>
    !p.taken && p.pass = cm.pass && p.core = BitVec.ofNat 4 n)
  decide (k.ringAhead f < have_.length)

/-- An active RING transfer waits for its piece (R186). -/
def State.waitsPiece (s : State) (n : Nat) (f : Flight) : Bool :=
  (dDesc f.desc).kind = 1 && f.phase = 0 && (s.core n).dmaActive n f && !s.pieceReady n f

def ringTake (s : State) (n : Nat) (f : Flight) : State :=
  let k := s.core n
  let d := dDesc f.desc
  let slot := (k.slot.getD 0).toNat
  let cm := s.cmdOf n
  let c := BitVec.ofNat 4 n
  let first := k.ringAhead f = 0
  match (s.ringQ slot d.ring).find? (fun p => !p.taken && p.pass = cm.pass && p.core = c) with
  | none => s
  | some p =>
    if !first || !k.dmaActive n f then s
    else if d.bytes ≠ p.len then (s.dmaDrop n f.d.sn).excDisp n stBitstream f.d
    else if k.dmaHeld n f then s.setCore n { k with dma := { k.dma with wait := true } }
    else
      let s1 := s.setRingQ slot d.ring (freeTaken (takeFirst cm.pass c (s.ringQ slot d.ring)))
      let x := s1.pieceRead slot d.ring p
      let s2 := (x.2.2.2.pieceRows n x.1 x.2.1 (d.dstRows n)).note n true (d.dstRows n)
      if x.2.2.1 = .ue then (s2.dmaDrop n f.d.sn).excDisp n stUncorrectable f.d
      else s2.modCore n (fun k =>
        { k with dma := { k.dma.modFlight f.d.sn (fun g => { g with phase := 1 }) with wait := k.dmaWait n f.d.sn } })

/-- A RING transfer takes the core's next piece of its pass (R183). -/
def execRingPieceTake (c : BitVec 4) (flight : Nat) (s : State) : Host.Outcome State Fault Refusal :=
  let n := c.toNat
  match findFlight (s.core n).dma flight with
  | some f => if s.unitsRun n && (dDesc f.desc).kind = 1 && f.phase = 0 then .next (ringTake s n f) else .next s
  | none => .next s

/-! ### Waits for protected bytes -/

/-- The ranges of the core's memories that a unit waits to write. -/
def Core.heldWrites (k : Core) (n : Nat) : CoreUnit → List (MemSel × Nat × Nat)
  | .vector =>
    (match k.vec.pend with
    | d :: _ => (match d.ins with
      | .vst _ _ _ fmt sp lm1 _ _ _ =>
        let r := vmemRanges sp fmt lm1 d.x0 d.x1
        [(spaceMem n sp, r.2.1, r.2.2.1), (spaceMem n sp, r.2.2.2.1, r.2.2.2.2)]
      | _ => [])
    | [] => [])
  | .dma =>
    ((k.dma.flights.take 4).map (fun f => ((dDesc f.desc).dstRows n).filterMap (fun r =>
      match placeOf n r.1 r.2 with | some (.ram m o) => some (m, o, r.2) | _ => none))).flatten
  | .wringer =>
    (match k.wrg.flights with
    | f :: _ => (match wrgOf f.d.ins with | some w => if w.comp then [] else [wexpDest n w f.d f.blk] | none => [])
    | [] => [])
  | _ => []

/-- A matrix instruction still reads some of the ranges. -/
def Flight.readsAny (f : Flight) (ws : List (MemSel × Nat × Nat)) : Bool :=
  ws.any (fun w => match w.1 with
    | .bufA _ => anyMeet (f.readsOf true) w.2.1 w.2.2
    | .bufB _ => anyMeet (f.readsOf false) w.2.1 w.2.2
    | _ => false)

/-- A Mangle instruction still reads some of the ranges. -/
def Flight.mglReadsAny (m : Ram) (f : Flight) (ws : List (MemSel × Nat × Nat)) : Bool :=
  ws.any (fun w => match w.1 with
    | .cmem _ => anyMeet (f.mglReads m) w.2.1 w.2.2
    | _ => false)

/-- No earlier Mangle instruction writes what the instruction reads (R110). -/
def Core.mglFree (k : Core) (f : Flight) : Bool :=
  k.mgl.flights.all (fun g => !(decide (g.d.sn < f.d.sn) && (f.mglReads k.cmem).any (fun r => anyMeet g.mglWrites r.1 r.2)))

/-- The memory of a range, as `Flight.fed` numbers it. -/
def fedMem : MemSel → Nat
  | .bufA _ => 0
  | .bufB _ => 1
  | .cmem _ => 2
  | _ => 3

/-- Those of some operand ranges that meet a range of others. -/
def metBy (mem : Nat) (rs : List (Nat × Nat)) (ws : List (MemSel × Nat × Nat)) : List (Nat × Nat × Nat) :=
  (rs.filter (fun r => ws.any (fun w => fedMem w.1 = mem && rangesMeet r.1 r.2 w.2.1 w.2.2))).map (fun r => (mem, r))

/-- A matrix instruction whose feeders have read what meets some ranges; its other operand ranges stay protected (R80). -/
def Flight.feed (f : Flight) (ws : List (MemSel × Nat × Nat)) : Flight :=
  { f with fed := f.fed ++ metBy 0 (f.readsOf true) ws ++ metBy 1 (f.readsOf false) ws }

/-- A Mangle instruction that has read what meets some ranges: its later effect is computed from memory as it stood when it first
read so. -/
def Flight.mglFeed (m : Ram) (f : Flight) (ws : List (MemSel × Nat × Nat)) : Flight :=
  if f.mglReadsAny m ws then { f with fed := f.fed ++ metBy 2 (f.mglReads m) ws, seen := some (f.seen.getD m) } else f

/-- The instructions that protect some of the ranges have read them: the matrix feeders, and Mangle. -/
def Core.readNow (k : Core) (ws : List (MemSel × Nat × Nat)) : Core :=
  { k with mat := { k.mat with flights := k.mat.flights.map (fun (f : Flight) => f.feed ws) },
           mgl := { k.mgl with flights := k.mgl.flights.map (fun (f : Flight) => f.mglFeed k.cmem ws) } }

/-- A unit waits under protection: of the vector unit its head, which may issue but for that (R120). -/
def Core.protWaits (k : Core) (n : Nat) : CoreUnit → Bool
  | .vector =>
    (match k.vec.pend with
    | d :: _ => k.vecReady d && k.firstTo n d.sn (consumes d.ins) && k.vecHeld n d
    | [] => false)
  | u => (k.unit u).wait

/-- What a unit waits to write has been read, or a drain has written what it waits to read: the wait ends, and the vector
unit's head issues. Not while a Mangle instruction itself waits for an earlier one to write what it reads. -/
def execProtectedWaitEnd (c : BitVec 4) (u : CoreUnit) (s : State) : Host.Outcome State Fault Refusal :=
  let n := c.toNat
  let k := s.core n
  let ws := k.heldWrites n u
  if !s.unitsRun n || !k.protWaits n u then .next s
  else if k.mgl.flights.any (fun f => f.mglReadsAny k.cmem ws && !k.mglFree f) then .next s
  else
    let k1 := k.readNow ws
    let s1 := s.setCore n (k1.setUnit u { (k1.unit u) with wait := false })
    .next (if u = .vector then vecTry s1 n else s1)

/-! ### Undefined destinations (R19) -/

/-- A place in memory as a whole range. -/
def State.scramblePlace (s : State) (n : Nat) (r : Nat × Nat) : State :=
  match placeOf n r.1 r.2 with
  | some (.ram m o) => s.scramble m o r.2
  | some (.dram o) => let d := s.drawBytes r.2; d.2.dramWrite (s.cmdOf n).ref.ctx.toNat o d.1 []
  | none => s

/-- Map ranges become undefined: free bytes, but where the core's command may no longer write. -/
def State.scrambleMap (s : State) (n : Nat) (rs : List (Nat × Nat)) : State :=
  (rs.filter (fun r => decide (0 < r.2))).foldl (fun s r =>
    if s.dstOk n (s.cmdOf n) false r then s.scramblePlace n r else s) s

/-- A core's part of a command that ended without results: what it had written is undefined (R19). -/
def State.undefine (s : State) (n : Nat) : State :=
  (s.scrambleMap n (s.core n).wrote).modCore n (fun k => { k with wrote := [] })

end Sys2Proof.Machine
end

