-- ==== Sys2Proof/Machine/DramCtl.lean ====
section
/-! DEFINITION. The DRAM controller (R303 to R330): the address map, queues, checks of lines, refresh and row protection,
self-refresh, timing sets and the switch, initialisation and clearing, margins and probes. -/

namespace Sys2Proof.Machine

/-! ### State of the channels -/

/-- The channels serve commands: initialised, no switch under way, and this one awake. -/
def State.chAwake (s : State) (ch : Nat) : Bool := s.dram.ready && !s.dram.switching && !s.dram.selfRef.getLsbD ch
/-- CFG_ERR of DRM_STATUS. -/
def State.drmCfgErr (s : State) : State := s.setReg 0x50000 (s.reg 0x50000 ||| 0x00800000#32)

/-! ### Requests (R313 to R315) -/

/-- The tag of an access under a key slot; 127 stands for no key. -/
def State.reqTag (s : State) (key : BitVec 7) : Option Nat := if key.toNat = 127 then some rawTag else s.keyTag key.toNat

/-- A line's bytes with some replaced. -/
def overlayLine (bs : List Byte) : List (BitVec 6 × Byte) → List Byte
  | [] => bs
  | (o, b) :: t => overlayLine (bs.set o.toNat b) t

def coversLine (wr : List (BitVec 6 × Byte)) : Bool := (List.range 64).all (fun i => wr.any (fun e => e.1.toNat = i))

/-- A write takes effect in the order of its acceptance; one that covers a part of its line keeps the line's poison. Its merge read, which
checks and counts, comes as the line is served (R311). -/
def State.lineWrite (s : State) (l : Nat) (wr : List (BitVec 6 × Byte)) (tag : Nat) : State :=
  let old := !coversLine wr && !s.dram.uncleared (64 * l) && s.dram.linePoison l
  s.dramPut (64 * l) (overlayLine (s.dramBytesAt (64 * l) 64 tag) wr) (List.replicate 64 old) tag

/-- The place of a bank among all banks. -/
def DAddr.bankKey (a : DAddr) : Nat := bankIx a.ch a.bank

/-- A read is accepted: it takes the line as it stands, behind every write accepted before it. An entry that covers its whole line answers
it without a read of DRAM; for one that still waits for its merge read it waits (R315). -/
def State.acceptRead (s : State) (ch : Nat) (req : Requester) (line : Nat) (key : BitVec 7) (tag : Nat) : State :=
  if 64 ≤ (s.dram.reads ch).length then s
  else
    let q : DReq := { req := req, line := line, key := key, wr := false, us := s.us, data := s.dramBytesAt (64 * line) 64 tag,
                      bad := (s.dramPoison (64 * line) 64).any id, full := (s.dram.writes ch).any (fun x => x.line = line && x.full),
                      merge := (s.dram.writes ch).any (fun x => x.line = line && !x.full) }
    s.modDram (fun d => (d.setReads ch (d.reads ch ++ [q])).drainRule ch)

/-- A write to a line in the queue merges into its entry. -/
def State.acceptWrite (s : State) (ch : Nat) (q : DReq) (wr : List (BitVec 6 × Byte)) (tag : Nat) : State :=
  let w := s.dram.writes ch
  if w.any (fun x => x.line = q.line) then
    (s.lineWrite q.line wr tag).modDram (fun d => d.setWrites ch (w.map (fun (x : DReq) =>
      if x.line = q.line then { x with full := x.full || q.full } else x)))
  else if 64 ≤ w.length then s
  else (s.lineWrite q.line wr tag).modDram (fun d => (d.setWrites ch (d.writes ch ++ [q])).drainRule ch)

/-- A request reaches the controller; without a key nothing is written. -/
def execDramRequest (req : Requester) (line : Nat) (key : BitVec 7) (wr : List (BitVec 6 × Byte)) (s : State) :
    Host.Outcome State Fault Refusal :=
  let ch := (lineAddr line).ch
  match s.reqTag key with
  | none => .next s
  | some tag =>
    .next (if !s.dram.ready || decide (dramLines ≤ line) then s
      else
        let s1 := s.modDram (fun d => { d with lastReq := nset 0 d.lastReq ch s.us })
        if wr = [] then s1.acceptRead ch req line key tag
        else s1.acceptWrite ch { req := req, line := line, key := key, wr := true, us := s.us, data := [], bad := false,
                                    full := coversLine wr, merge := false } wr tag)

/-! ### Row protection (R318, R319) -/

def State.rfm (s : State) (b : Nat) : State :=
  (s.bump 0x50048 0 32 1).modDram (fun d => { d with raa := nset 0 d.raa b (nget 0 d.raa b - Config.raaDec) })

/-- A row's count reaches THRESH. -/
def State.hammered (s : State) (a : DAddr) (req : Requester) : State :=
  let v := w32 (req.toNat * 2 ^ 26 + a.ch * 2 ^ 22 + a.bank * 2 ^ 18 + a.row)
  let s1 := (s.rfm (bankIx a.ch a.bank)).setRecord 0x50044 v
  let s2 := s1.record 0x0205 srcDrm 0 0 (regCopy (s1.reg 0x50044) 0x50044)
  s2.modDram (fun d => { d with throttled := d.throttled ++ [(bankIx a.ch a.bank, req)] })

/-- The table of a bank with one more activation of a row, as a frequent-items summary of 256 counters: a row of the table counts, a
new one takes a free counter, and where none is free every counter falls by one (R319, log entry 68). -/
def countRow (t : NMap Nat) (b k : Nat) : NMap Nat :=
  let mine := t.filter (fun e => e.1 / 131072 = b)
  if nget 0 t k ≠ 0 || decide (mine.length < 256) then nset 0 t k (nget 0 t k + 1)
  else mine.foldl (fun t e => nset 0 t e.1 (e.2 - 1)) t

def actKey (b : Nat) (req : Requester) : Nat := 32 * b + req.toNat

/-- An activation of a row for a requester; none when the row is open. -/
def State.activateRow (s : State) (a : DAddr) (req : Requester) : State :=
  let b := bankIx a.ch a.bank
  if nget 0 s.dram.openRow b = a.row + 1 then s
  else
    let k := rowIx a.ch a.bank a.row
    let table := countRow s.dram.rowCount b k
    let n := nget 0 table k
    let s1 := s.modDram (fun d =>
      { d with openRow := nset 0 d.openRow b (a.row + 1), raa := nset 0 d.raa b (nget 0 d.raa b + 1), rowCount := table,
               lastAct := nset 0 d.lastAct (actKey b req) (s.us + 1) })
    let s2 := if Config.raaImt ≤ nget 0 s1.dram.raa b then s1.rfm b else s1
    if n = getBits (s.reg 0x50040) 0 16 && decide (nget 0 s.dram.rowCount k < n) then s2.hammered a req else s2

/-- A throttled requester's last activation in a bank lies less than THROTTLE back (R319). -/
def State.throttleHeld (s : State) (b : Nat) (req : Requester) : Bool :=
  s.dram.throttled.contains (b, req) && decide (1000 * (s.us + 1 - nget 0 s.dram.lastAct (actKey b req)) < getBits (s.reg 0x50040) 16 16)

/-- An activation is held: every one of a bank while its count is at RAAMMT, and a throttled requester's. -/
def State.actHeld (s : State) (a : DAddr) (req : Requester) : Bool :=
  let b := bankIx a.ch a.bank
  nget 0 s.dram.openRow b ≠ a.row + 1 && (decide (Config.raaMmt ≤ nget 0 s.dram.raa b) || s.throttleHeld b req)

/-! ### Checks of a line (R308, R326) -/

/-- A lane's count reaches LIMIT. -/
def State.laneAlarm (s : State) (ch lane : Nat) : State :=
  let s1 := s.setRecord 0x50030 (w32 (ch * 2 ^ 20 + lane * 2 ^ 15))
  (s1.record 0x0204 srcDrm 1 0 (regCopy (s1.reg 0x50030) 0x50030)).emit (.mgmtSignal 0x0204)

/-- One corrected error of a lane. -/
def State.laneError (s : State) (ch lane : Nat) : State :=
  let k := 32 * ch + lane
  let w := nget 0 s.dram.laneWin k + 1
  let s1 := s.modDram (fun d =>
    { d with laneTotal := nset 0 d.laneTotal k (min 65535 (nget 0 d.laneTotal k + 1)), laneWin := nset 0 d.laneWin k w })
  if w = getBits (s.reg 0x5002C) 16 16 then s1.laneAlarm ch lane else s1

/-- The byte symbols of a codeword that an event names as in error. -/
def badSymbols (symbols : List (BitVec 7)) : List (BitVec 7) := (symbols.filter (fun x => decide (x.toNat < 68))).eraseDups

/-- The lanes on which link ECC has corrected a bit of a burst: an event names lane x as 96 + x (R326, log entry 98). -/
def State.linkErrors (s : State) (ch : Nat) (symbols : List (BitVec 7)) : State :=
  if !bitOf s.dram.active.mode 25 then s
  else (symbols.filter (fun x => decide (96 ≤ x.toNat) && decide (x.toNat < 114))).foldl (fun s x => s.laneError ch (x.toNat - 96)) s

/-- A write that covers a whole line waits in the queue: it was accepted after the reads that wait, and its data remains (R312, R315). -/
def State.replaced (s : State) (l : Nat) : Bool := (s.dram.writes (lineAddr l).ch).any (fun x => x.line = l && x.full)

/-- A read of a line with the byte symbols found in error: corrected, or the line poisoned. -/
def State.checkLine (s : State) (l : Nat) (symbols : List (BitVec 7)) (patrol : Bool) : State :=
  let bad := badSymbols symbols
  if bad = [] || s.dram.uncleared (64 * l) then s
  else if bad.length ≤ 2 then
    ((bad.filter (fun x => decide (x.toNat < 64))).foldl (fun s x => s.laneError (lineAddr l).ch (x.toNat % 16)) s).bump 0x5004C 0 32 1
  else
    let s1 := if s.replaced l then s
      else s.modDram (fun d => { d with mem := { d.mem with poison := nset false d.mem.poison l true } })
    let s2 := s1.setRecord 0x50050 (w32 (boolNat patrol * 2 ^ 30 + l))
    s2.record 0x0202 srcDrm 2 stUncorrectable (regCopy (s2.reg 0x50050) 0x50050)

/-! ### Service of a channel (R308, R309, R314, R315) -/

def State.rowHit (s : State) (q : DReq) : Bool :=
  decide (nget 0 s.dram.openRow (lineAddr q.line).bankKey = (lineAddr q.line).row + 1)

/-- The read that issues next, of those that wait for no merge and that no row protection holds: a host's, one older than 2 us, a row
hit, the oldest. -/
def State.pickRead (s : State) (ch : Nat) : Option DReq :=
  let q := (s.dram.reads ch).filter (fun x => !x.merge && (x.full || !s.actHeld (lineAddr x.line) x.req))
  (q.find? (fun x => x.req.toNat = 19)).or ((q.find? (fun x => decide (2 < s.us - x.us))).or ((q.find? s.rowHit).or q.head?))

/-- A read waits for the merge of an entry (R315). -/
def State.mergeAwaited (s : State) (ch line : Nat) : Bool := (s.dram.reads ch).any (fun x => x.merge && x.line = line)

/-- The write that issues next: while draining is on the oldest, else the oldest whose merge a read waits for. -/
def State.pickWrite (s : State) (ch : Nat) : Option DReq :=
  (s.dram.writes ch).find? (fun x =>
    (s.dram.drain.getLsbD ch || s.mergeAwaited ch x.line) && !s.actHeld (lineAddr x.line) x.req)

/-- The decoder finds a line's error uncorrectable. -/
def State.lineFails (s : State) (l : Nat) (symbols : List (BitVec 7)) : Bool :=
  !s.dram.uncleared (64 * l) && decide (2 < (badSymbols symbols).length)

/-- The transfers of a core that read a line have met an uncorrectable one (R189). -/
def State.dmaFails (s : State) (req : Requester) (l : Nat) : State :=
  let n := req.toNat
  if 16 ≤ n then s
  else s.modCore n (fun k => { k with dma := { k.dma with flights := k.dma.flights.map (fun (f : Flight) =>
    if ((dDesc f.desc).srcRows n).any (fun r => rangesMeet r.1 r.2 (dramBase + 64 * l) 64) then { f with ue := true } else f) } })

/-- A read's line is checked and delivered; a host's completes over BAR2, and a core's transfer learns of an uncorrectable line. One
that the write queue answers reads no DRAM. -/
def State.serveRead (s : State) (ch : Nat) (q : DReq) (symbols : List (BitVec 7)) : State :=
  let fails := !q.full && s.lineFails q.line symbols
  let s1 := if q.full then s
    else ((s.activateRow (lineAddr q.line) q.req).linkErrors ch symbols).checkLine q.line symbols false
  let s2 := s1.modDram (fun d => (d.setReads ch ((d.reads ch).erase q)).drainRule ch)
  let s3 := if fails then s2.dmaFails q.req q.line else s2
  if q.req.toNat = 19 then s3.emit (.read q.data (q.bad || fails)) else s3

/-- The reads that wait for a line's merge take the merged line, with its poison (R315). -/
def Dram.merged (d : Dram) (ch line : Nat) (part bad : Bool) : Dram :=
  d.setReads ch ((d.reads ch).map (fun (x : DReq) =>
    if x.merge && x.line = line then { x with merge := false, full := true, bad := if part then bad else x.bad } else x))

/-- A line of the write queue goes to its channel. A write that covers part of its line first reads and checks it: a line that is
poisoned or fails keeps poison through the merge, which is counted and recorded once (R311). -/
def State.serveWrite (s : State) (ch : Nat) (q : DReq) (symbols : List (BitVec 7)) : State :=
  let s1 := s.activateRow (lineAddr q.line) q.req
  let s2 := if q.full then s1 else (s1.linkErrors ch symbols).checkLine q.line symbols false
  let bad := !q.full && s2.dram.linePoison q.line
  let s3 := if bad then s2.mergePoison q.line else s2
  s3.modDram (fun d => ((d.setWrites ch ((d.writes ch).erase q)).merged ch q.line (!q.full) bad).drainRule ch)

/-- The channel serves its queues, reads before writes (R314). -/
def execDramReadReturn (ch : BitVec 4) (symbols : List (BitVec 7)) (s : State) : Host.Outcome State Fault Refusal :=
  let c := ch.toNat
  if !s.chAwake c then .next s
  else match s.pickRead c with
    | some q => .next (s.serveRead c q symbols)
    | none => (match s.pickWrite c with
      | some q => .next (s.serveWrite c q symbols)
      | none => .next s)

/-! ### Refresh (R317, R318) -/

/-- Refreshes of a bank issue. -/
def Dram.refresh (d : Dram) (b n : Nat) : Dram :=
  { d with raa := nset 0 d.raa b (nget 0 d.raa b - n * Config.raaDec), openRow := nset 0 d.openRow b 0 }

/-- A refresh falls due: it issues, and one of those owed with it, or it is postponed while fewer than eight are owed. With eight owed
one issues and eight stay owed. -/
def execDramRefresh (ch : BitVec 4) (bank : BitVec 4) (issue : Bool) (s : State) : Host.Outcome State Fault Refusal :=
  let b := bankIx ch.toNat bank.toNat
  let owed := nget 0 s.dram.owed b
  .next (if !s.chAwake ch.toNat then s
    else if issue then
      s.modDram (fun d => { d.refresh b (if owed = 0 then 1 else 2) with owed := nset 0 d.owed b (owed - 1) })
    else if owed < 8 then s.modDram (fun d => { d with owed := nset 0 d.owed b (owed + 1) })
    else s.modDram (fun d => d.refresh b 1))

def execMr4Poll (mult : Nat) (s : State) : Host.Outcome State Fault Refusal :=
  .next (if s.dram.ready then s.modDram (fun d => { d with mr4 := mult }) else s)

def execHammerWindow (s : State) : Host.Outcome State Fault Refusal :=
  .next (s.modDram (fun d => { d with rowCount := [], throttled := [], lastAct := [] }))

def execLaneWindow (s : State) : Host.Outcome State Fault Refusal := .next (s.modDram (fun d => { d with laneWin := [] }))

/-! ### Self-refresh (R320) -/

def execSelfRefreshEntry (ch : BitVec 4) (s : State) : Host.Outcome State Fault Refusal :=
  let c := ch.toNat
  .next (if s.chAwake c && getBits (s.reg 0x50008) 0 16 ≠ 0 && s.dram.reads c = [] && s.dram.writes c = [] &&
        decide (getBits (s.reg 0x50008) 0 16 ≤ s.us - nget 0 s.dram.lastReq c) then
      s.modDram (fun d => { d with selfRef := setBit16 d.selfRef c true, openRow := d.openRow.filter (fun e => e.1 / 16 ≠ c) })
    else s)

/-- A request wakes its channel alone; during a switch of timing sets a channel in self-refresh stays so and requests wait (R322). -/
def execSelfRefreshExit (ch : BitVec 4) (s : State) : Host.Outcome State Fault Refusal :=
  let c := ch.toNat
  .next (if !s.dram.switching && s.dram.selfRef.getLsbD c && (s.dram.reads c ≠ [] || s.dram.writes c ≠ []) then
      s.modDram (fun d => { d with selfRef := setBit16 d.selfRef c false })
    else s)

/-! ### Temperature (R325) -/

def bandLow : Nat → Int
  | 0 => -1000
  | 1 => 40
  | 2 => 70
  | _ => 90
def bandHigh : Nat → Int
  | 0 => 40
  | 1 => 70
  | 2 => 90
  | _ => 1000

/-- The temperature has left a band by more than 3 degrees. -/
def outOfBand (band : Nat) (t : Int) : Bool := decide (t < bandLow band - 3) || decide (bandHigh band + 3 < t)

/-- The temperature is read. When it leaves the active set's band BAND_EVT is set, an event is recorded and the management controller
is told. -/
def execDramTempSample (temp : BitVec 8) (s : State) : Host.Outcome State Fault Refusal :=
  let left := s.dram.ready && outOfBand (getBits s.dram.active.mode 26 2) temp.toInt
  let s1 := (s.setReg 0x5005C (temp.setWidth 32)).modDram (fun d => { d with bandOut := left })
  .next (if left && !s.dram.bandOut then
      ((s1.setReg 0x50000 (s1.reg 0x50000 ||| 0x00400000#32)).record 0x0206 srcDrm 0 0 (regCopy (s1.reg 0x5005C) 0x5005C)).emit
        (.mgmtSignal 0x0206)
    else s1)

/-! ### Patrol and clearing (R312, R330) -/

/-- The bank of a line is idle: no read of the bank waits, and no write while draining is on. -/
def State.bankIdle (s : State) (a : DAddr) : Bool :=
  (s.dram.reads a.ch).all (fun x => (lineAddr x.line).bank ≠ a.bank) &&
    (!s.dram.drain.getLsbD a.ch || (s.dram.writes a.ch).all (fun x => (lineAddr x.line).bank ≠ a.bank))

/-- Lines of one channel, and the `i`-th of them: patrol takes them in ascending order (log entry 41). -/
def channelLines : Nat := 47185920
def channelLine (ch i : Nat) : Nat :=
  let g := i / 15
  15 * (16 * g + (ch ^^^ g ^^^ (g / 16) ^^^ (g / 256)) % 16) + i % 15

/-- The line of a channel that patrol reads next: it resumes where it stopped (R312). -/
def State.patrolNext (s : State) (ch : Nat) : Nat := channelLine ch (nget 0 s.dram.patrol ch % channelLines)
/-- Passes that every channel has completed. -/
def Dram.passes (d : Dram) : Nat :=
  ((List.range 16).map (fun c => nget 0 d.patrol c / channelLines)).foldl min (nget 0 d.patrol 0 / channelLines)

/-- Patrol, requester 20, reads its next line of a channel in an idle slot of the bank. -/
def execDramPatrol (line : Nat) (symbols : List (BitVec 7)) (s : State) : Host.Outcome State Fault Refusal :=
  let a := lineAddr line
  if !s.chAwake a.ch || decide (dramLines ≤ line) || !s.bankIdle a || s.actHeld a 20 || line ≠ s.patrolNext a.ch then .next s
  else
    let s1 := (((s.activateRow a 20).linkErrors a.ch symbols).checkLine line symbols true).modDram (fun d =>
      { d with patrol := nset 0 d.patrol a.ch (nget 0 d.patrol a.ch + 1) })
    .next (if s.dram.passes < s1.dram.passes then s1.setReg 0x50058 (s1.reg 0x50058 + 1) else s1)

/-- One unit is cleared; the last ends the clearing. -/
def execDramClearUnit (unit : Nat) (s : State) : Host.Outcome State Fault Refusal :=
  let d := s.dram
  if !d.ready || !d.clearing || decide (dramUnits ≤ unit) || nget false d.cleared unit then .next s
  else .next (s.modDram (fun d => d.clearUnit unit ((s.keyTag devKeySlot).getD 0)))

/-! ### Check lines (R307, R308) -/

/-- The check line of a group: 4 check bytes for each of its 15 data lines, over the ciphertext, and the poison word with both copies
of each line's bit. The code's generator is not given: the check bytes are free (log entry 97). -/
def Dram.checkLine (d : Dram) (g : Nat) : List Byte :=
  let bits := ((List.range 15).map (fun i => boolNat (d.linePoison (15 * g + i)) * 2 ^ i)).foldl (· + ·) 0
  ((List.range 15).map (fun i =>
    let l := 15 * g + i
    let cipher := recodeLine (d.lineKey l) rawTag l (d.mem.bytes (64 * l) 64)
    (List.range 4).map (Config.lineCheck cipher))).flatten ++ toLE 4 (bits + 2 ^ 15 * bits)

/-! ### Timing sets (R321, R322, R329) -/

/-- MODE's fields lie in range: a rate of Table 3, and no link ECC below 6,400 MT/s. -/
def modeOk (v : Word) : Bool := decide (getBits v 28 3 ≤ 4) && (!bitOf v 25 || decide (getBits v 28 3 ≤ 2))
def State.shadowSel (s : State) : Bool := bitOf (s.reg 0x50010) 0
def Dram.moving (d : Dram) : Bool := d.switching || d.initing

/-- A management write of DRM_TSET_MODE with VALID = 1 to the shadow set. -/
def execShadowFreeze (val : Word) (s : State) : Host.Outcome State Fault Refusal :=
  let d := s.dram
  .next (if !bitOf val 31 || !s.shadowSel || d.switching || bitOf d.shadow.mode 31 then s
    else if !modeOk val then s.drmCfgErr
    else s.modDram (fun d => { d with shadow := { d.shadow with mode := val &&& 0xFE000000#32 }, mrwDone := !d.ready }))

/-- A management write of DRM_TSET_MODE with VALID = 0: a frozen set opens; an open one takes the fields. -/
def execShadowOpen (val : Word) (s : State) : Host.Outcome State Fault Refusal :=
  let d := s.dram
  .next (if bitOf val 31 || !s.shadowSel || d.switching then s
    else if bitOf d.shadow.mode 31 then
      s.modDram (fun d => { d with shadow := { d.shadow with mode := d.shadow.mode &&& 0x7FFFFFFF#32 }, mrwDone := false })
    else if !modeOk val then s.drmCfgErr
    else s.modDram (fun d => { d with shadow := { d.shadow with mode := val &&& 0x7E000000#32 } }))

def execMrwDone (s : State) : Host.Outcome State Fault Refusal :=
  .next (if s.dram.ready && bitOf s.dram.shadow.mode 31 && !s.dram.moving then s.modDram (fun d => { d with mrwDone := true }) else s)

/-- The highest DRAM rate of the power mode in force, as a code of RATE (Table 2 of R439): 6,400 MT/s in Quiet, 4,266 in Background. -/
def State.rateLimit (s : State) : Nat :=
  if s.pwr.dev = .background then 3 else if s.pwr.mode = 0 then 2 else 0

/-- A management write of DRM_SWITCH. A switch to a rate above the power mode's limit is none that firmware makes (R439, R442): it has no
effect (log entry 105). -/
def execDramSwitch (val : Word) (s : State) : Host.Outcome State Fault Refusal :=
  let d := s.dram
  .next (if !bitOf val 31 then s
    else if decide (getBits d.shadow.mode 28 3 < s.rateLimit) then s
    else if !(bitOf d.shadow.mode 31 && d.mrwDone && !d.moving) then s.drmCfgErr
    else s.modDram (fun d => if d.ready then { d with switching := true } else { d with initing := true }))

/-- DRM_TSET_MODE as the active set reads it. -/
def Dram.activeMode (d : Dram) : Word := (d.active.mode &&& 0x7FFFFFFF#32) ||| (if d.ready then 0x80000000#32 else 0)

/-- Steps 3 to 5 of Table 5. -/
def execDramSwitchDone (s : State) : Host.Outcome State Fault Refusal :=
  let d := s.dram
  if !d.switching then .next s
  else
    let old := d.activeMode
    let s1 := s.modDram (fun d =>
      { d with active := d.shadow, shadow := { d.active with mode := old }, flip := !d.flip, mrwDone := true, switching := false,
               openRow := [], bandOut := false })
    .next (s1.record 0x0207 srcDrm 0 0 (toLE 4 old.toNat ++ [0, 0, 0, 0] ++ toLE 4 s1.dram.activeMode.toNat))

/-- The controller once its channels are initialised (step 4 of R329); after a POR the clearing starts. -/
def Dram.initialised (d : Dram) : Dram :=
  { d with active := d.shadow, shadow := { d.active with mode := d.active.mode &&& 0x7FFFFFFF#32 }, flip := !d.flip, mrwDone := false,
           initing := false, ready := true, seen := true, selfRef := 0, openRow := [], bandOut := false,
           clearing := d.clearing || d.fresh, cleared := if d.fresh then [] else d.cleared, fresh := false }

/-! ### Probes (R327) -/

/-- A management write of DRM_PROBE with GO. -/
def execDrmProbe (val : Word) (s : State) : Host.Outcome State Fault Refusal :=
  .next (if !bitOf val 31 || s.dram.probing then s
    else if 17 < getBits val 21 5 then s.drmCfgErr
    else ((s.setReg 0x50034 (val &&& 0x7FFFE000#32)).setReg 0x50038 0).modDram (fun d => { d with probing := true }))

def execProbeDone (errors : BitVec 11) (s : State) : Host.Outcome State Fault Refusal :=
  .next (if s.dram.probing && decide (errors.toNat ≤ 1024) then
      (s.setReg 0x50038 (0x80000000#32 ||| errors.setWidth 32)).modDram (fun d => { d with probing := false })
    else s)

end Sys2Proof.Machine
end

