-- ==== Sys2Proof/Machine/Gen.lean ====
section
/-! DEFINITION. The identity registers of block GEN (R4, R25), which the fuses fix. -/

namespace Sys2Proof.Machine

def deviceId (grade : BitVec 2) : Nat := if grade = 0 then 0x4C10 else if grade = 1 then 0x4C0E else 0x4C0C
def State.genId (s : State) : Word := w32 (deviceId s.fuses.grade * 65536 + Config.vendorId.toNat)
def State.genRev (s : State) : Word := w32 s.fuses.stepping.toNat
def State.genGrade (s : State) : Word := w32 (s.fuses.grade.toNat * 256 + s.coreCount)
def State.genCoreEnable (s : State) : Word := w32 s.fuses.mask.toNat
/-- Two bits for each logical core; none above the last one. -/
def State.genCoreRidge (s : State) : Word :=
  w32 (((List.range s.coreCount).map (fun n => s.ridge n * 4 ^ n)).foldl (· + ·) 0)
def genCap : Word := 0x48808040#32
def genMem : Word := 0x20083020#32

end Sys2Proof.Machine
end

