-- ==== Sys2Proof/Machine/Pattern.lean ====
section
/-! DEFINITION. The pattern generators and checkers (R503 to R505): patterns, the run under way with its condition, counts, and how a run
ends. -/

namespace Sys2Proof.Machine

/-- The two taps of a pattern's polynomial, by PATTERN of TST_CTRL: PRBS7, 15, 23 and 31. -/
def prbsTaps (pattern : Nat) : Nat × Nat := [(7, 6), (15, 14), (23, 18), (31, 28)].getD pattern (31, 28)
/-- One bit of a pattern: the sum of the bits at the taps, which enters the register at its low end. -/
def prbsStep (pattern : Nat) (r : BitVec 31) : BitVec 31 :=
  let t := prbsTaps pattern
  let b := (r.getLsbD (t.1 - 1)).xor (r.getLsbD (t.2 - 1))
  ((r <<< 1) ||| BitVec.ofNat 31 (boolNat b)) &&& BitVec.ofNat 31 (2 ^ t.1 - 1)
def prbsAfter (pattern : Nat) : Nat → BitVec 31 → BitVec 31
  | 0, r => r
  | n + 1, r => prbsAfter pattern n (prbsStep pattern r)
/-- The register of a lane's generator at its start: all ones, advanced by 1,000 bits for each lane number. -/
def prbsStart (pattern lane : Nat) : BitVec 31 := prbsAfter pattern (1000 * lane) (BitVec.ofNat 31 (2 ^ (prbsTaps pattern).1 - 1))
/-- Bit `k` that a generator sends from a register: its high end. -/
def prbsBit (pattern : Nat) (r : BitVec 31) (k : Nat) : Bool := (prbsAfter pattern k r).getLsbD ((prbsTaps pattern).1 - 1)
/-- A checker locks on received bits: its register loads the first of them, and the 64 that follow match what it then predicts. -/
def prbsLocks (pattern : Nat) (rx : List Bool) : Bool :=
  let t := prbsTaps pattern
  rx.length = t.1 + 64 && (List.range 64).all (fun i =>
    rx.getD (t.1 + i) false = (rx.getD i false).xor (rx.getD (t.1 - t.2 + i) false))

def tstSel : Nat := 0xE0000
def tstCtrl : Nat := 0xE0004
def State.modTst (s : State) (f : Tst → Tst) : State := { s with tst := f s.tst }

/-- Groups of an interface, and lanes of a group (Table 10). -/
def tstGroups (i : Nat) : Nat := [1, 4, 16, 8].getD i 0
def tstLanes (i : Nat) : Nat := [8, 8, 18, 144].getD i 0
/-- The groups that a run works on. -/
def tstOn (i group : Nat) (all : Bool) : List Nat :=
  if all then List.range (tstGroups i) else if group < tstGroups i then [group] else []
/-- A lane by the value of TST_SEL that names it. -/
def laneIx (i group lane : Nat) : Nat := i * 65536 + group * 256 + lane
def Tst.selected (t : Tst) : List Nat :=
  ((tstOn t.iface.toNat t.group.toNat t.all).map (fun g => (List.range (tstLanes t.iface.toNat)).map (laneIx t.iface.toNat g))).flatten

def State.ctxsOff (s : State) : Bool := (List.range 64).all (fun c => !(s.ctx c).en)
/-- Table 10's condition for an interface and some of its groups. -/
def State.tstPermitted (s : State) (i : Nat) (groups : List Nat) : Bool :=
  match i with
  | 0 => s.tap.testMode
  | 1 => groups.all (fun g => (s.port g).st = 0)
  | 2 => s.dram.ready && s.ctxsOff
  | 3 => s.store.ready && s.ctxsOff
  | _ => false
/-- Modes of an interface: DRAM and flash have internal loopback alone. -/
def tstModeOk (i mode : Nat) : Bool := decide (i < 2) || mode = 0
def tstMode (r : Word) : Nat := getBits r 26 2

/-- The condition holds while the run goes on: no URGENT Darner work on a die under test. -/
def State.tstHolds (s : State) : Bool :=
  let t := s.tst
  let groups := tstOn t.iface.toNat t.group.toNat t.all
  s.tstPermitted t.iface.toNat groups &&
  !(t.iface = 3 && s.store.marks.any (fun m => m.1 = .urgent && groups.contains (m.2 / 8192)))

/-- A run goes on: it was started, and its condition has held since (R504). -/
def State.tstRuns (s : State) : Bool := s.tst.running && s.tstHolds

/-- The bits that a lane sends or receives in a microsecond, where the manual gives its rate: that of its port (R386). -/
def State.laneRate (s : State) (l : Nat) : Option Nat :=
  if l / 65536 = 1 then some (if (s.port (l / 256 % 256)).rate16 then 16000 else 32000) else none

/-- A lane's checker with all that it has counted at a moment: a locked one goes on counting while its run does. -/
def State.checkerAt (s : State) (l now : Nat) : Checker :=
  let k := nget Checker.reset s.tst.lanes l
  if !k.lock || !s.tst.running then k
  else
    let n := match s.laneRate l with
      | some r => r * (now - k.since)
      | none => Config.testBits k.draw (now - k.since)
    { k with bits := k.bits + n, errs := min 0x7FFFFFFF (k.errs + min n (Config.testErrs k.draw n)) }

/-- Every selected lane's count as it stands at a moment. -/
def State.tstCount (s : State) (now : Nat) : State :=
  s.modTst (fun t => { t with lanes := t.selected.foldl (fun ls l => nset Checker.reset ls l (s.checkerAt l now)) t.lanes })

def State.tstOr (s : State) (m : Word) : State := s.setReg tstCtrl (s.reg tstCtrl ||| m)
/-- A run ends with DONE, with the counts of a moment. -/
def State.tstEnd (s : State) (now : Nat) : State :=
  ((s.tstCount now).modTst (fun t => { t with running := false, counting := false })).tstOr 0x40000000#32
/-- A run whose condition has stopped holding stops at once, with ABORTED (R504). -/
def State.tstBreak (s : State) : State := if s.tst.running && !s.tstHolds then (s.tstEnd s.us).tstOr 0x20000000#32 else s

end Sys2Proof.Machine
end

