-- ==== Sys2Proof/Machine/HostOps.lean ====
section
/-! DEFINITION. Shared operations on host commands (R363 to R374): fields, order, start and end, host data, the
completion record; the flush of the event recorder (R480) and the mailbox's answer (R377). -/

namespace Sys2Proof.Machine

/-! ### Fields and order -/

def Cmd.tag (k : Cmd) : Nat := k.u 2 2

/-- Commands of the same spool that come before it in index order (R364). -/
def State.earlier (s : State) (k : Cmd) : List Cmd :=
  s.cmds.filter (fun j => j.ref.ctx = k.ref.ctx && j.ref.spool = k.ref.spool && decide (j.order < k.order))
def Cmd.begun (k : Cmd) : Bool := k.stage = .started || k.stage = .ended
/-- Every earlier command of the spool has ended. -/
def State.allEnded (s : State) (k : Cmd) : Bool := (s.earlier k).all (fun j => j.stage = .ended)
def State.allBegun (s : State) (k : Cmd) : Bool := (s.earlier k).all Cmd.begun

/-! ### Start and end -/

def State.startCmd (s : State) (r : CmdRef) : State :=
  s.modCmd r (fun (k : Cmd) => { k with stage := .started, begin_ := s.us })

/-- A command lets go of the sequences that it holds busy and of its read pins (R205, R207). -/
def State.letGo (s : State) (r : CmdRef) : State :=
  let s1 := (nkeys s.seqs (fun q => q.busy = some r)).foldl (fun s n =>
    if (s.seq n).busy = some r then s.setSeq n { s.seq n with busy := none } else s) s
  let keys := nkeys s1.pages (fun p => p.pins.contains r)
  keys.foldl (fun s key => s.dropPin r key) s1

/-- The data of a STATUS_OTHER record. -/
def otherData (r : CmdRef) (code : Nat) : List Byte :=
  toLE 2 code ++ toLE 1 r.ctx.toNat ++ toLE 1 r.spool.toNat ++ toLE 2 r.idx.toNat

/-- The conditions of an operation besides the one reported are recorded (R18, R509). -/
def State.recordOthers (s : State) (r : CmdRef) (st : Nat) (codes : List Nat) : State :=
  ((codes.eraseDups).filter (fun c => c ≠ st && c ≠ stOk)).foldl (fun s c => s.record 0x0B01 srcHif 0 c (otherData r c)) s

/-- A command's end: its status is decided. A command that never started has its start and its end at one moment. -/
def State.endCmd (s : State) (r : CmdRef) (status : Nat) : State :=
  (s.modCmd r (fun (k : Cmd) =>
    { k with stage := .ended, status := BitVec.ofNat 16 status, end_ := s.us,
             begin_ := if k.stage = .started then k.begin_ else s.us })).letGo r

/-- The end of a command for which several conditions hold. -/
def State.endWith (s : State) (r : CmdRef) (codes : List Nat) : State :=
  (s.recordOthers r (worst codes) codes).endCmd r (worst codes)

/-! ### Completion records (R370, R371) -/

def sat32 (n : Nat) : Nat := min n 0xFFFFFFFF
/-- The lowest core whose own exception set the status; 0xFF when none did. -/
def Cmd.coreField (k : Cmd) : Nat :=
  (((List.range 16).find? (fun n => k.codes.any (fun e => e.1.toNat = n && e.2 = k.status)))).getD 0xFF

def Cmd.record (k : Cmd) : List Byte :=
  toLE 2 k.tag ++ toLE 2 k.status.toNat ++ toLE 2 k.ref.idx.toNat ++ toLE 1 k.ref.spool.toNat ++ toLE 1 (boolNat k.phase) ++
  toLE 8 k.result.toNat ++ toLE 4 (sat32 (k.begin_ - k.door)) ++ toLE 4 (sat32 (k.end_ - k.begin_)) ++
  toLE 1 k.coreField ++ toLE 1 k.op ++ List.replicate 6 0

/-- The record goes to the command's index in the completion ring, then the context's vector fires (R37); the command is
no longer held. An emergency shutdown writes no record (R453). -/
def State.writeRecord (s : State) (k : Cmd) : State :=
  let sp := s.spool k.ref.ctx.toNat k.ref.spool.toNat
  let addr := sp.cplLo.toNat + 2 ^ 32 * sp.cplHi.toNat + 32 * k.ref.idx.toNat
  let s1 := { s with cmds := s.cmds.eraseP (fun j => j.ref = k.ref) }
  let s2 := if k.status.toNat = stDiscarded then s1.bump 0xD0008 16 16 1 else s1
  if s.aon.seq = .emergency then s2
  else (s2.emit (.hostWrite addr k.record)).signal (4 + k.ref.ctx.toNat)

/-- The conditions of an operation that no command names, besides the one reported (R18). Table 7 of R475 gives the record the identity
of a command, which such an operation has not: those bytes are free (log entry 91). -/
def State.recordAlso (s : State) (codes : List Nat) : State :=
  ((codes.eraseDups).filter (fun c => c ≠ worst codes && c ≠ stOk)).foldl (fun (s : State) c =>
    let d := s.drawBytes 4
    d.2.record 0x0B01 srcHif 0 c (toLE 2 c ++ d.1)) s

/-- The conditions that apply. -/
def condList (cs : List (Bool × Nat)) : List Nat := (cs.filter (·.1)).map (·.2)

/-! ### Rows of host commands -/

/-- Commands are served: not in Idle (Table 3 of R443), and the sequencer is ON (R449), or a start-up quarantine holds it in STARTING, where every command ends with
ST_TAMPER (R425). -/
def State.serves (s : State) : Bool :=
  s.pwr.dev ≠ .idle && (s.aon.seq = .on || (s.aon.seq = .starting && s.sec.quarantine))

/-- What ends every command: a quarantine (R425), and a DEVICE fault that the self-test of an FLR has confirmed (R470). -/
def State.stopConds (s : State) : List Nat :=
  condList [(s.sec.quarantine, stTamper), (s.ras.deviceFault && s.ras.flrFailed, stFenced)]

/-- What stands between a fetched command and its start besides its own conditions: a device that serves commands, what ends every
command, a DEVICE fault (R470), the conditions given, and the spool's order. `act` is what the command does once these have passed,
and again while it runs. -/
def State.hostCmd (s : State) (r : CmdRef) (op : Nat) (conds : Cmd → List Nat) (ordered : State → Cmd → Bool)
    (act : Cmd → State) : State :=
  match s.cmd? r with
  | none => s
  | some k =>
    if k.op ≠ op || k.stage = .ended || !s.serves then s
    else if s.stopConds ≠ [] then s.endWith r (s.stopConds ++ (if k.stage = .fetched then conds k else []))
    else if s.ras.deviceFault then s
    else if k.stage = .started || k.stage = .placing || k.stage = .waiting then act k
    else if conds k ≠ [] then s.endWith r (conds k)
    else if !ordered s k then s
    else act k

/-- What a failed read of host memory adds to a command's conditions (R372). -/
def Cmd.hostConds (k : Cmd) : List Nat :=
  match k.host with
  | some .error => [stUncorrectable]
  | some .poisoned => [stPoisoned]
  | _ => []

/-- A command that needs host data asks for it when it starts, and goes on when the data has come (R372). -/
def State.withHost (s : State) (k : Cmd) (addr len : Nat) (go : List Byte → State) : State :=
  match k.host with
  | none => if k.stage = .started then s else (s.startCmd k.ref).emit (.hostRead addr len)
  | some (.ok d) => go (padTo len d)
  | some .error => s.endCmd k.ref stUncorrectable
  | some .poisoned => s.endCmd k.ref stPoisoned

/-- A command that does everything at its start. -/
def State.atOnce (s : State) (r : CmdRef) (status : Nat) : State := (s.startCmd r).endCmd r status

/-! ### The mailbox (R377, R379) -/

def mgtReq (s : State) : List Byte := ((List.range 64).map (fun i => toLE 4 (s.reg (0x20100 + 4 * i)).toNat)).flatten
def mgtOp (s : State) : Nat := leAt (mgtReq s) 0 2
def mgtLen (s : State) : Nat := leAt (mgtReq s) 2 2
/-- A payload field of the request. -/
def mgtArg (s : State) (off len : Nat) : Nat := leAt (mgtReq s) (4 + off) len
def mgtBusy (s : State) : Bool := bitOf (s.reg 0x20000) 30

/-- The controller answers: response, STATUS and RSPLEN, DONE, vector 0; GO and BUSY clear. -/
def State.answer (s : State) (status : Nat) (rsp : List Byte) : State :=
  let s1 := (List.range ((rsp.length + 3) / 4)).foldl (fun s i => s.setReg (0x20200 + 4 * i) (w32 (leAt rsp (4 * i) 4))) s
  ((s1.setReg 0x20004 (w32 (status * 65536 + rsp.length))).setReg 0x20000 0x20000000#32).signal 0

/-- The controller answers an operation to which several conditions apply (R18). -/
def State.answerWith (s : State) (codes : List Nat) : State := (s.recordAlso codes).answer (worst codes) []

/-- A mailbox operation: it acts when the outstanding request names it; a wrong length ends with ST_BOUNDS. -/
def State.mailbox (s : State) (op len : Nat) (act : State) : State :=
  if !mgtBusy s || mgtOp s ≠ op then s
  else if mgtLen s ≠ len then s.answer stBounds []
  else act

end Sys2Proof.Machine
end

