-- ==== Sys2Proof/Machine/Models.lean ====
section
/-! DEFINITION. Models, layers and segments (R255 to R263): descriptors and their checks, the tiers of a segment's
granules, the mirror, codewords by extent, and the pass check of R266. -/

namespace Sys2Proof.Machine

/-! ### Descriptors (Tables 2 and 3 of R257) -/

structure Segm where
  handle : Nat
  kind : Nat
  hint : Nat
  experts : Nat
  start : Nat
  w : Nat
  dx : Nat
  fx : Nat
  deriving DecidableEq, Repr

def segAt (d : List Byte) (i : Nat) : Segm :=
  let o := 0x10 + 16 * i
  { handle := leAt d o 2, kind := byteAt d (o + 2) / 16, hint := byteAt d (o + 2) % 16, experts := byteAt d (o + 3),
    start := leAt d (o + 4) 4, w := leAt d (o + 8) 4, dx := leAt d (o + 12) 2 * 65536, fx := leAt d (o + 14) 2 * 65536 }
def descShare (d : List Byte) : Bool := byteAt d 0 % 2 = 1
def descSegs (d : List Byte) : Nat := byteAt d 1
def segsOf (d : List Byte) : List Segm := (List.range (descSegs d)).map (segAt d)

def kDense : Nat := 1
def kExpert : Nat := 2
def kDiff : Nat := 3
def pinDram : Nat := 0
def streamFlash : Nat := 1
def balance : Nat := 2
def hostTier : Nat := 3

/-- Granules of one string of a segment, and of all its experts. -/
def Segm.n (g : Segm) : Nat := g.w / 4096
def Segm.count (g : Segm) : Nat := if g.kind = kExpert then g.experts * g.n else g.n

/-- The BALANCE split (R260). -/
def balanceNf (w dx fx : Nat) : Nat :=
  let t : Int := ((w + dx + fx) * 384 / 657 : Nat) - (fx : Int)
  if t < 0 then 0 else min (w / 4096) (t.toNat / 4096)

/-- Flash granules of a segment by its hint (Table 4 of R259). -/
def Segm.nf (g : Segm) : Nat :=
  if g.hint = pinDram then 0 else if g.hint = streamFlash then g.count else if g.hint = balance then balanceNf g.w g.dx g.fx else 0
def Segm.dramGranules (g : Segm) : Nat := if g.hint = hostTier then 0 else g.count - g.nf
def Segm.flashGranules (g : Segm) : Nat := if g.hint = hostTier then 0 else g.count
def Segm.hostGranules (g : Segm) : Nat := if g.hint = hostTier then g.count else 0

/-- Where a granule lives (R259, R261): its tier, and its place there. -/
inductive GranPlace where
  | flash (cw : Nat)
  | mirror (k cw : Nat)
  | host (g : Nat)
  deriving DecidableEq, Repr

/-- Flash granules before granule `i` of a split of `n`. -/
def flashBefore (nf n i : Nat) : Nat := if n = 0 then 0 else i * nf / n

def Segm.place (g : Segm) (i : Nat) : GranPlace :=
  if g.hint = hostTier then .host (g.start + i)
  else
    let a := flashBefore g.nf g.count i
    if a < flashBefore g.nf g.count (i + 1) then .flash (g.start + a) else .mirror (i - a) (g.start + g.nf + (i - a))

/-- Codewords of the index section of a variant stream (R293). -/
def Segm.indexCws (g : Segm) : Nat := (4 * g.n + 4095) / 4096
/-- Codewords that the check of a descriptor asks of an extent: of a variant stream its index, the rest being R294's. -/
def Segm.span (g : Segm) : Nat := if g.kind = kDiff then g.indexCws else g.count

/-! ### A model's descriptors by generation -/

/-- The layers and mirror places that a generation of a model has (R278). -/
def Model.version (m : Model) (gen : Word) : List (List Byte) × List Nat :=
  if m.gen = gen then (m.layers, m.mir)
  else match m.old.find? (fun o => o.gen = gen) with
    | some o => (o.layers, o.mir)
    | none => ([], [])

/-- DRAM granules of the segments of a layer before segment `i`. -/
def dramBefore (d : List Byte) (i : Nat) : Nat := (((segsOf d).take i).map Segm.dramGranules).foldl (· + ·) 0
def layerDram (d : List Byte) : Nat := if descShare d then 0 else dramBefore d 3
def dramTotal (ls : List (List Byte)) : Nat := (ls.map layerDram).foldl (· + ·) 0
def sumSegs (f : Segm → Nat) (ls : List (List Byte)) : Nat :=
  (ls.map (fun d => if descShare d then 0 else ((segsOf d).map f).foldl (· + ·) 0)).foldl (· + ·) 0

/-- A segment of a model as a pass reads it: the model that owns it, the segment, and its mirror offset in DRAM. A SHARE
layer is the base's (R277). -/
structure SegRef where
  owner : Nat
  seg : Segm
  mir : Nat
  deriving DecidableEq, Repr

def segIn (owner : Nat) (v : List (List Byte) × List Nat) (layer i : Nat) : Option SegRef :=
  match v.1[layer]? with
  | none => none
  | some d =>
    if i < descSegs d then
      some { owner := owner, seg := segAt d i, mir := v.2.getD layer 0 + 4096 * dramBefore d i }
    else none

def State.segOf (s : State) (m : Nat) (gen : Word) (layer i : Nat) : Option SegRef :=
  let md := s.model m
  let v := md.version gen
  match v.1[layer]? with
  | none => none
  | some d =>
    if descShare d then
      let b := s.model md.base.toNat
      segIn md.base.toNat (b.layers, b.mir) layer i
    else segIn m v layer i

/-- The base segment that a DIFF segment is coded against. -/
def State.baseSeg (s : State) (m layer i : Nat) : Option SegRef :=
  let b := (s.model m).base.toNat
  segIn b ((s.model b).layers, (s.model b).mir) layer i

/-! ### Codewords by extent -/

def cwKey (h o : Nat) : Nat := h * 2 ^ 32 + o
def State.extent (s : State) (h : Nat) : Extent := nget Extent.none s.store.exts h
def State.setExtent (s : State) (h : Nat) (e : Extent) : State :=
  { s with store := { s.store with exts := nset Extent.none s.store.exts h e } }
def State.codeword (s : State) (h o : Nat) : Codeword := nget Codeword.none s.store.cws (cwKey h o)
def State.setCodeword (s : State) (h o : Nat) (c : Codeword) : State :=
  { s with store := { s.store with cws := nset Codeword.none s.store.cws (cwKey h o) c } }
/-- A stripe holds the codewords of one wordline of the 256 blocks of a row: 8 of each block (R226, R228). -/
def stripeCodewords : Nat := 2048
def Extent.codewords (e : Extent) : Nat := e.stripes.length * stripeCodewords

/-! ### Checks of descriptors (R258) -/

def segBytesOk (d : List Byte) (i : Nat) : Bool :=
  let g := segAt d i
  let zero := allZero (bytesAt d (0x10 + 16 * i) 16)
  if descSegs d ≤ i then zero
  else
    decide (1 ≤ g.kind) && decide (g.kind ≤ 3) && decide (g.hint ≤ 3) &&
    (if g.kind = kExpert then decide (1 ≤ g.experts) else g.experts = 0) && g.w % 4096 = 0 && decide (4096 ≤ g.w) &&
    (g.hint ≠ hostTier || g.handle = 0)

/-- A descriptor as supplied: its fields and zero bytes. -/
def descBytesOk (d : List Byte) : Bool :=
  decide (byteAt d 0 ≤ 1) && (if descShare d then allZero (d.drop 1)
  else decide (descSegs d ≤ 3) && allZero (bytesAt d 2 14) && (List.range 3).all (segBytesOk d))

def State.segOk (s : State) (m layer i : Nat) (g : Segm) : Bool :=
  let md := s.model m
  let ex := s.extent g.handle
  (if g.hint = hostTier then decide ((g.start + g.count) * 4096 ≤ md.hsize)
   else ex.st = .sealed_ && ex.model.toNat = m && decide (g.start + g.span ≤ ex.codewords)) &&
  (g.kind ≠ kExpert || g.hint = pinDram || g.hint = streamFlash) &&
  (g.kind ≠ kDiff || (md.variant && g.hint = streamFlash && (s.baseSeg m layer i).any (fun b => b.seg.w = g.w)))

/-- The checks of R258 for the descriptor of one layer of a model. R258 lists no case of a SHARE layer at a layer that the base does not
have: the model refuses it as the rest of its list (DESIGN CHOICE, log entry 106). -/
def State.descOk (s : State) (m layer : Nat) (d : List Byte) : Bool :=
  descBytesOk d &&
  (if descShare d then (s.model m).variant && ((s.model (s.model m).base.toNat).layers[layer]?).isSome
   else ((List.range (descSegs d)).map (fun i => s.segOk m layer i (segAt d i))).all id)

/-! ### The mirror (R262) -/

/-- The mirror ranges of a version: DRAM offset and bytes of each layer's granules. -/
def mirRanges (ls : List (List Byte)) (mir : List Nat) : List (Nat × Nat) :=
  ((ls.zip mir).map (fun e => (e.2, 4096 * layerDram e.1))).filter (fun r => decide (0 < r.2))

/-- Every mirror range in use: of current versions, of old ones, and of patches before their flip. -/
def State.mirUsed (s : State) : List (Nat × Nat) :=
  (s.models.map (fun e => mirRanges e.2.layers e.2.mir ++ (e.2.old.map (fun o => mirRanges o.layers o.mir)).flatten ++
    (match e.2.patch with | some p => mirRanges p.layers p.mir | none => []))).flatten

/-- A 64 KiB unit of the area that no range touches. -/
def unitClear (used : List (Nat × Nat)) (off : Nat) : Bool := !overlaps (off, unit64K) used
def State.mirFree (s : State) : Nat :=
  match s.mirrorArea with
  | none => 0
  | some a => ((List.range (a.2 / unit64K)).filter (fun i => unitClear s.mirUsed (a.1 + i * unit64K))).length

/-- The lowest run of units for a count of granules. -/
def State.mirAlloc (s : State) (granules : Nat) : Option Nat :=
  match s.mirrorArea with
  | none => none
  | some a =>
    let need := (granules + 15) / 16
    ((List.range (a.2 / unit64K + 1 - need)).find? (fun i =>
      decide (need ≤ a.2 / unit64K) && !overlaps (a.1 + i * unit64K, need * unit64K)
        (s.mirUsed.map (fun r => (r.1 / unit64K * unit64K, (r.1 + r.2 + unit64K - 1) / unit64K * unit64K - r.1 / unit64K * unit64K))))).map
      (fun i => a.1 + i * unit64K)

/-- The mirror places of consecutive layers from an offset. -/
def placeLayers : Nat → List (List Byte) → List Nat
  | _, [] => []
  | off, d :: t => off :: placeLayers (off + 4096 * layerDram d) t

/-- Every flash codeword that the DRAM granules of a layer are loaded from, with its mirror offset. -/
def mirLoads (d : List Byte) (off : Nat) : List (Nat × Nat × Nat) :=
  if descShare d then []
  else ((List.range (descSegs d)).map (fun i =>
    let g := segAt d i
    (List.range g.dramGranules).map (fun k => (g.handle, g.start + g.nf + k, off + 4096 * (dramBefore d i + k))))).flatten

/-- A load reads the flash copies and writes the mirror: none where a codeword is uncorrectable. -/
def State.mirFill (s : State) : List (Nat × Nat × Nat) → Option State
  | [] => some s
  | (h, o, a) :: t =>
    let c := s.codeword h o
    if c.bad || !c.programmed then none else ((s.dramUse a 4096).dramPut a (padTo 4096 c.data) [] rawTag).mirFill t

def loadsOf (ls : List (List Byte)) (mir : List Nat) : List (Nat × Nat × Nat) :=
  ((ls.zip mir).map (fun e => mirLoads e.1 e.2)).flatten

/-- The mirror places of a load that did not end well hold free bytes (R19). -/
def State.mirUndefine (s : State) (ls : List (List Byte)) (mir : List Nat) : State :=
  (mirRanges ls mir).foldl (fun (s : State) r => let d := s.drawBytes r.2; d.2.dramPut r.1 d.1 [] rawTag) s

/-! ### The pass check (R266) -/

def State.sentryOk (s : State) (m : Nat) (gen : Word) (e : SEntry) : Bool :=
  if e.kind = 0 then true
  else match s.segOf m gen e.layer e.seg with
    | none => false
    | some g =>
      if e.kind = 2 then g.seg.kind = kExpert && decide (e.count * e.piece ≤ g.seg.w)
      else decide (e.off + e.count * e.piece ≤ g.seg.w)

def State.passOk (s : State) (slot m : Nat) (sched : Nat) : Bool :=
  let b := s.bsSlot slot
  let gen := (s.model m).gen
  b.checked.contains (BitVec.ofNat 5 m, gen, BitVec.ofNat 8 sched) || (bsSchedule b.image sched).all (s.sentryOk m gen)

/-- The result of the check of a schedule is kept for the bitstream and the model's generation: a repeated pass is not checked
again. -/
def State.noteChecked (s : State) (slot m sched : Nat) : State :=
  let b := s.bsSlot slot
  let k := (BitVec.ofNat 5 m, (s.model m).gen, BitVec.ofNat 8 sched)
  if b.checked.contains k then s else s.setBs slot { b with checked := b.checked ++ [k] }

/-- Passes of a model, its variants' passes counted for a base as well: their SHARE and DIFF layers read it. -/
def State.passesOf (s : State) (m : Nat) : List Pass :=
  s.passes.filter (fun p => p.cmd.isSome && (p.model.toNat = m || ((s.model p.model.toNat).variant && (s.model p.model.toNat).base.toNat = m)))

end Sys2Proof.Machine
end

