-- ==== Sys2Proof/Machine/Store.lean ====
section
/-! DEFINITION. Shared operations of the weight store (R224 to R232, R242 to R250): physical blocks and their choice by wear,
rows and stripes, extents, codewords, Darner marks, retirement, and the shrink with its evictions. -/

namespace Sys2Proof.Machine

/-! ### Physical blocks (R220, R224, R225, R246) -/

def blkKey (die bank block : Nat) : Nat := die * 8192 + bank * 256 + block
def dieOf (key : Nat) : Nat := key / 8192
def bankOf (key : Nat) : Nat := key / 256 % 32
def blockOf (key : Nat) : Nat := key % 256
/-- The last four blocks of each bank hold the system partition (log entry 20). -/
def isSystem (key : Nat) : Bool := decide (252 ≤ key % 256)

/-- A block that production test retired (R225). -/
def State.isBad (s : State) (key : Nat) : Bool := s.fuses.badBlocks.contains key

/-- A block of a new part (R224, R225). -/
def State.newBlk (s : State) (key : Nat) : Blk :=
  if isSystem key then { Blk.fresh with st := .system }
  else if s.isBad key then { Blk.fresh with st := .retired }
  else Blk.fresh
def State.blk (s : State) (key : Nat) : Blk := nget (s.newBlk key) s.store.blks key
def State.setBlk (s : State) (key : Nat) (b : Blk) : State :=
  { s with store := { s.store with blks := nset (s.newBlk key) s.store.blks key b } }
def State.frow (s : State) (r : Nat) : FRow := nget FRow.empty s.store.rows r
def State.setFRow (s : State) (r : Nat) (x : FRow) : State :=
  { s with store := { s.store with rows := nset FRow.empty s.store.rows r x } }

/-- Blocks of a die retired since production. -/
def State.grown (s : State) (die : Nat) : Nat :=
  (s.store.blks.filter (fun e => dieOf e.1 = die && e.2.st = .retired && !s.isBad e.1)).length
/-- GOOD, RESERVE and SPARE of a die: what is left above the rows fills the reserve to 64 first. -/
def State.good (s : State) (die : Nat) : Nat :=
  8064 - (s.fuses.badBlocks.filter (fun k => dieOf k = die && !isSystem k)).length - s.grown die
def State.beyondRows (s : State) (die : Nat) : Nat := s.good die - 32 * (s.store.capRows + 2)
def State.reserve (s : State) (die : Nat) : Nat := min 64 (s.beyondRows die)
def State.spare (s : State) (die : Nat) : Nat := s.beyondRows die - s.reserve die

def isFree (s : State) (key : Nat) : Bool := (s.blk key).st = .free

/-- The best of some blocks by P/E cycles, the first of equals. -/
def bestBlock (s : State) (better : Nat → Nat → Bool) : List Nat → Option Nat
  | [] => none
  | k :: t =>
    match bestBlock s better t with
    | none => some k
    | some b => if better (s.blk b).pe (s.blk k).pe then some b else some k

/-- The blocks of a bank outside the production system partition. -/
def bankKeys (die bank : Nat) : List Nat := (List.range 252).map (blkKey die bank)
def dieKeys (die : Nat) : List Nat := ((List.range 32).map (bankKeys die)).flatten

/-- The free good block with the fewest P/E cycles; ties to the lower bank, then the lower block. -/
def State.leastWorn (s : State) (keys : List Nat) : Option Nat := bestBlock s (fun a b => decide (a < b)) (keys.filter (isFree s))
def State.mostWorn (s : State) (keys : List Nat) : Option Nat := bestBlock s (fun a b => decide (b < a)) (keys.filter (isFree s))

/-! ### Rows (R226, R228, R232) -/

/-- Slot u is die u mod 8, bank u / 8. -/
def State.mapSlot (s : State) (row u : Nat) : State :=
  let pick := match s.leastWorn (bankKeys (u % 8) (u / 8)) with
    | some k => some k
    | none => s.leastWorn (dieKeys (u % 8))
  match pick with
  | none => s
  | some k =>
    let s1 := s.setBlk k { s.blk k with st := .mapped, row := row, slot := u, wl := 0, born := 0 }
    s1.setFRow row { s1.frow row with map := nset 65536 (s1.frow row).map u k }

def State.mapRow (s : State) (row : Nat) : State := (List.range 256).foldl (fun s u => s.mapSlot row u) s

/-- Rows that hold blocks. -/
def State.rowsMapped (s : State) : Nat := (s.store.rows.filter (fun e => e.2.map ≠ [])).length
def rowWaits (x : FRow) : Bool := x.st ≠ .empty && x.map = []

/-- Numbers 0 to 255 are rows. A number from 256 on stands for a row that an ALLOC has counted on and that compaction has still to
empty: its stripes take a row's place once one is EMPTY (R232). There is always one more of these. -/
def State.rowNumbers (s : State) : Nat := 257 + s.store.rows.length

/-- An EMPTY row opens; it gets its blocks at once unless CAP_ROWS + 2 rows have theirs (R232). -/
def State.openRow (s : State) : Option (Nat × State) :=
  match (List.range s.rowNumbers).find? (fun r => (s.frow r).st = .empty) with
  | none => none
  | some r =>
    let s1 := s.setFRow r { FRow.empty with st := .open_ }
    some (r, if s.rowsMapped < s.store.capRows + 2 && decide (r < 256) then s1.mapRow r else s1)

/-- The compaction row gets its blocks as it opens, whatever rows wait for theirs: the reserve holds them (DESIGN CHOICE, log entry
96). -/
def State.openComp (s : State) : Option (Nat × State) :=
  match (List.range 256).find? (fun r => (s.frow r).st = .empty) with
  | none => none
  | some r => some (r, (s.setFRow r { FRow.empty with st := .open_ }).mapRow r)

/-- The next stripe of an open row. -/
def State.takeFrom (s : State) (r : Nat) : Nat × State :=
  let x := s.frow r
  (x.next, s.setFRow r { x with next := x.next + 1, st := if x.next + 1 = 128 then .full else .open_ })

/-- The next stripe of the new-data row, and then of the row that opens after it. -/
def State.takeData (s : State) : Option ((Nat × Nat) × State) :=
  let row := match s.store.dataRow with
    | some r => some (r, s)
    | none => s.openRow
  match row with
  | none => none
  | some (r, s1) =>
    let t := s1.takeFrom r
    some ((r, t.1), { t.2 with store := { t.2.store with dataRow := if t.1 = 127 then none else some r } })

def State.takeStripes (s : State) : Nat → Option (List (Nat × Nat) × State)
  | 0 => some ([], s)
  | n + 1 =>
    match s.takeData with
    | none => none
    | some (x, s1) => (s1.takeStripes n).map (fun (r : List (Nat × Nat) × State) => (x :: r.1, r.2))

/-! ### Live and dead stripes (R228, R232) -/

def Extent.inUse (e : Extent) : Bool := e.st ≠ .free
def State.liveStripes (s : State) : List (Nat × Nat) :=
  (s.store.exts.map (fun e => if e.2.inUse then e.2.stripes else [])).flatten
def State.live (s : State) : Nat := s.liveStripes.length
def State.handedOut (s : State) : Nat := (s.store.rows.map (fun e => e.2.next)).foldl (· + ·) 0
def State.dead (s : State) : Nat := s.handedOut - s.live
def State.rowLive (s : State) (r : Nat) : Nat := (s.liveStripes.filter (fun x => x.1 = r)).length

/-! ### Extents and codewords (R228, R229) -/

/-- Handles are 1 to 65,535; which FREE one an ALLOC names is left open: the first from a free start. -/
def State.freshHandle (s : State) : Option (Nat × State) :=
  let d := s.drawBits 16
  ((List.range 65535).map (fun i => (d.1.toNat + i) % 65535 + 1)).find? (fun h => !(s.extent h).inUse) |>.map (fun h => (h, d.2))

/-- A codeword is accepted: in the assembly area, being programmed, or programmed. -/
def State.accepted (s : State) (h o : Nat) : Bool := s.codeword h o ≠ Codeword.none
/-- The eight codewords of a unit of an extent. -/
def unitOffsets (stripe u : Nat) : List Nat := (List.range 8).map (fun i => stripe * stripeCodewords + u * 8 + i)
def State.programmedIn (s : State) (h lo n : Nat) : Nat :=
  (s.store.cws.filter (fun e => decide (cwKey h lo ≤ e.1) && decide (e.1 < cwKey h (lo + n)) && e.2.programmed)).length
def State.stripeDone (s : State) (h i : Nat) : Bool := s.programmedIn h (i * stripeCodewords) stripeCodewords = stripeCodewords
def State.extentDone (s : State) (h : Nat) : Bool :=
  let n := (s.extent h).codewords
  s.programmedIn h 0 n = n
/-- The lowest stripe of an extent with an unprogrammed unit. -/
def State.lowestOpen (s : State) (h : Nat) : Nat :=
  ((List.range (s.extent h).stripes.length).find? (fun i => !s.stripeDone h i)).getD 0

/-- The metadata record of a codeword (R222, Table 2). -/
def State.cwRecord (s : State) (h o : Nat) : List Byte :=
  let c := s.codeword h o
  toLE 2 h ++ toLE 1 (s.extent h).model.toNat ++ toLE 1 (boolNat c.pad) ++ toLE 4 o ++ toLE 8 c.seq ++
  toLE 4 (crc32c (padTo 4096 c.data)) ++ List.replicate 44 0

/-- What the cells hold of a programmed codeword: data, record and the parity over both. R222 gives the parity's size and not its
code: it is free (log entry 97). -/
def State.cwCells (s : State) (h o : Nat) : List Byte :=
  let m := padTo 4096 (s.codeword h o).data ++ s.cwRecord h o
  m ++ (List.range 448).map (Config.ldpcParity m)

/-- A sealing extent whose units are all programmed is SEALED. -/
def State.sealTry (s : State) (h : Nat) : State :=
  let e := s.extent h
  if e.st = .sealing && s.extentDone h then s.setExtent h { e with st := .sealed_ } else s

/-- Where a stripe and unit of an extent stand: physical block and wordline; none while the row waits for blocks. -/
def State.unitPlace (s : State) (h stripe u : Nat) : Option (Nat × Nat) :=
  match (s.extent h).stripes[stripe]? with
  | none => none
  | some (r, w) =>
    let k := nget 65536 (s.frow r).map u
    if k = 65536 then none else some (k, w)

/-- The physical block and wordline of a codeword (R227). -/
def State.cwPlace (s : State) (h o : Nat) : Option (Nat × Nat) :=
  s.unitPlace h (o / stripeCodewords) (o % stripeCodewords / 8)

/-! ### Emptying rows (R247) -/

/-- A block is handed to an erase. One that is to be retired stays so (R248). -/
def State.startErase (s : State) (key : Nat) : State :=
  s.setBlk key { s.blk key with st := .erasing, pulses := 0, copyTo := none }

/-- Darner marks of a block go. -/
def State.unmark (s : State) (key : Nat) : State :=
  { s with store := { s.store with marks := s.store.marks.filter (fun m => m.2 ≠ key) } }

/-- A row takes another number, with its stripes. -/
def State.renameRow (s : State) (r q : Nat) : State :=
  let s1 := (s.setFRow q (s.frow r)).setFRow r .empty
  { s1 with store := { s1.store with
      dataRow := if s1.store.dataRow = some r then some q else s1.store.dataRow,
      exts := s1.store.exts.map (fun e => (e.1, { e.2 with stripes := e.2.stripes.map (fun x => if x.1 = r then (q, x.2) else x) })) } }

/-- A row that waits gets a row number where it has none, and its blocks. -/
def State.mapWaitingRow (s : State) (r : Nat) : State :=
  if s.store.capRows + 2 ≤ s.rowsMapped then s
  else if r < 256 then s.mapRow r
  else match (List.range 256).find? (fun q => (s.frow q).st = .empty) with
    | none => s
    | some q => (s.renameRow r q).mapRow q

/-- Rows that wait for blocks get them while there is room. -/
def State.mapWaiting (s : State) : State := (nkeys s.store.rows rowWaits).foldl State.mapWaitingRow s

/-- A shrink whose compaction has ended is over (R249 step 2). -/
def State.shrinkEnd (s : State) : State :=
  if s.store.shrink && s.store.need = 0 && decide (s.rowsMapped ≤ s.store.capRows + 2) then
    { s with store := { s.store with shrink := false } }
  else s

/-- A row that holds no live stripe loses its blocks to erases and is EMPTY; so do the destinations of their copies under way. -/
def State.emptyRow (s : State) (r : Nat) : State :=
  let mapped := (s.frow r).map.map (·.2)
  let keys := mapped ++ mapped.filterMap (fun k => (s.blk k).copyTo)
  let s1 := keys.foldl (fun (s : State) k => (s.startErase k).unmark k) s
  let s2 := s1.setFRow r .empty
  (({ s2 with store := { s2.store with compacting := none } }).mapWaiting).shrinkEnd

/-- The row under compaction is emptied once its last live stripe has left. -/
def State.compactTry (s : State) : State :=
  match s.store.compacting with
  | some r => if s.rowLive r = 0 then s.emptyRow r else s
  | none => s

/-- FREE: the stripes are dead, and the codewords are gone (R228). -/
def State.freeExtent (s : State) (h : Nat) : State :=
  let s1 := s.setExtent h .none
  ({ s1 with store :=
      { s1.store with cws := s1.store.cws.filter (fun e => e.1 / 2 ^ 32 ≠ h),
                      programming := s1.store.programming.map (fun (p : Nat × Nat × Nat × Nat) => if p.1 = h then (0, p.2) else p) } }).compactTry

def State.extentsOf (s : State) (m : Nat) : List Nat := nkeys s.store.exts (fun e => e.inUse && e.model.toNat = m)
def State.freeModelExtents (s : State) (m : Nat) : State := (s.extentsOf m).foldl State.freeExtent s

/-! ### Marks (R245) -/

def State.mark (s : State) (c : Mark) (key : Nat) : State :=
  if (s.blk key).st ≠ .mapped || s.store.marks.contains (c, key) then s
  else ({ s with store := { s.store with marks := s.store.marks ++ [(c, key)] } }).tstBreak

def markClasses : List Mark := [.urgent, .queued, .retention, .compact, .wear]

/-- A block's entry moves to URGENT (R241). -/
def State.markUrgent (s : State) (key : Nat) : State :=
  let s1 := { s with store := { s.store with marks := s.store.marks.filter (fun m => m ≠ (Mark.queued, key)) } }
  s1.mark .urgent key

/-- The block of a die that the Darner takes next: the highest class, then the oldest mark. -/
def State.nextMark (s : State) (die : Nat) : Option (Mark × Nat) :=
  markClasses.findSome? (fun c => s.store.marks.find? (fun m =>
    m.1 = c && dieOf m.2 = die && (s.blk m.2).st = .mapped && (s.blk m.2).copyTo = none))

/-- The store starts work: READY, and no emergency shutdown under way (R251). -/
def State.storeOpen (s : State) : Bool := s.store.ready && s.aon.seq ≠ .emergency && s.pwr.dev ≠ .idle

/-! ### Evictions and the shrink (R249, R250, R277, R281, R408) -/

/-- A key slot empties: its generation rises when it held a key, and a context's key-derived fields go with its key (R402, R429). -/
def State.emptySlot (s : State) (n : Nat) : State :=
  let k := s.keySlot n
  if k.kind = .empty then s
  else
    let s1 := s.setKeySlot n { KeySlot.empty with gen := k.gen + 1 }
    if 8 ≤ n ∧ n < 72 then
      s1.setCtx (n - 8) { s1.ctx (n - 8) with sealed_ := false, hostrw := false, idereq := false, ulink := false }
    else s1

/-- A key fills a slot, with the next generation. -/
def State.fillSlot (s : State) (n : Nat) (k : KeySlot) : State := s.setKeySlot n { k with gen := (s.keySlot n).gen + 1 }

def State.blob (s : State) (n : Nat) : Option Blob := nget none s.sec.blobs n
/-- Both copies of a slot's blob. -/
def State.setBlob (s : State) (n : Nat) (b : Option Blob) : State :=
  { s with sec := { s.sec with blobs := nset none (nset none s.sec.blobs n b) (128 + n) b } }

/-- A model's weight binding ends, with its blob (R408). -/
def State.unbindWeight (s : State) (m : Nat) : State := (s.emptySlot (weightKeySlot m)).setBlob (weightKeySlot m) none

/-- A load that something else stops ends with a failure whose code the manual does not give: a free one. -/
def State.stopLoad (s : State) (m : Nat) : State :=
  match (s.model m).loader with
  | none => s
  | some r =>
    let d := s.drawFail
    ((d.2.mirUndefine (d.2.model m).layers (d.2.model m).mir).setModel m { d.2.model m with loader := none }).endCmd r d.1

/-- A PATCH before its flip ends with a status; the extents that it would have named stay. -/
def State.dropPatch (s : State) (m status : Nat) : State :=
  match (s.model m).patch with
  | none => s
  | some p => (s.setModel m { s.model m with patch := none }).endCmd p.ref status

def State.evictOne (s : State) (m : Nat) (forced : Bool) : State :=
  let s1 := (s.dropPatch m stBounds).stopLoad m
  let s2 := (s1.freeModelExtents m).setModel m { Model.free with evicted := true }
  (s2.unbindWeight m).record 0x0305 srcStr 0 0 (toLE 1 m ++ toLE 1 (boolNat forced))

/-- A model and, with a base, every variant of it. -/
def State.evictModel (s : State) (m : Nat) (forced : Bool) : State :=
  let vs := nkeys s.models (fun x => x.st ≠ .free && x.variant && x.base.toNat = m)
  (m :: vs).foldl (fun s x => s.evictOne x forced) s

def State.needNow (s : State) : Nat := s.live - 128 * (s.store.capRows - 1)

/-- The time of the latest read of a model's extents. -/
def State.lastRead (s : State) (m : Nat) : Int :=
  match (s.extentsOf m).map (fun h => (s.extent h).lastRead) with
  | [] => 0
  | t :: ts => ts.foldl max t

/-- The model whose latest extent read is oldest, among those that hold live stripes. -/
def State.oldestModel (s : State) : Nat :=
  let ms := (List.range 32).filter (fun m => s.extentsOf m ≠ [])
  (ms.find? (fun m => ms.all (fun n => decide (s.lastRead m ≤ s.lastRead n)))).getD 0

/-- NEED is computed again: a capacity row goes once it is 0, else a candidate is named (R249 steps 2, 3 and 5). -/
def State.shrinkGo (s : State) : State :=
  let need := s.needNow
  let s1 := { s with store := { s.store with need := need } }
  if need = 0 then ({ s1 with store := { s1.store with capRows := s1.store.capRows - 1 } }).shrinkEnd
  else { s1 with store := { s1.store with candidate := BitVec.ofNat 5 s.oldestModel } }

/-- FLS_SHRINK's value. -/
def State.shrinkReg (s : State) : Word :=
  w32 (boolNat s.store.shrink * 2 ^ 31 + boolNat s.store.forced * 2 ^ 30 + s.store.candidate.toNat * 2 ^ 16 + s.store.need)

/-- The record of a shrink: it signals vector 1, and so has class 3 (R249, R461; log entry 32). -/
def State.recordShrink (s : State) : State := s.record 0x0304 srcFls 3 0 (regCopy s.shrinkReg 0x60064)

/-- A shrink starts (R249 step 1), with its event and vector 1. -/
def State.shrinkStart (s : State) : State :=
  let s1 := { s with store := { s.store with shrink := true, need := s.needNow } }
  let s2 := if s1.store.need = 0 then s1 else { s1 with store := { s1.store with candidate := BitVec.ofNat 5 s1.oldestModel } }
  if s2.store.need = 0 then s2.recordShrink.shrinkGo else s2.recordShrink

/-- RESERVE at 16 while NEED is above 0: the candidate goes without consent, with an event (R250, Table 7 of R475). -/
def State.shrinkForce (s : State) (die : Nat) : State :=
  if s.store.shrink && decide (0 < s.store.need) && decide (s.reserve die ≤ 16) then
    let m := s.store.candidate.toNat
    ((({ s with store := { s.store with forced := true } }).recordShrink).evictModel m true).shrinkGo
  else s

/-- A system block has failed or reached its 100,000 cycles: the least-worn free good block of its bank takes its place (R224). -/
def State.replaceSystem (s : State) (key : Nat) : State :=
  match s.leastWorn (bankKeys (dieOf key) (bankOf key)) with
  | some k => s.setBlk k { Blk.fresh with st := .system, pe := (s.blk k).pe }
  | none => s

/-- A block is retired, with its record; a die without spares starts a shrink (R225, R248, R249). -/
def State.retireBlock (s : State) (key cause : Nat) (recorded : Bool) : State :=
  let die := dieOf key
  let s0 := (s.setBlk key { Blk.fresh with st := .retired, pe := (s.blk key).pe, segs := (s.blk key).segs }).unmark key
  let s1 := if (s.blk key).st = .system then s0.replaceSystem key else s0
  let s2 := if recorded then
      s1.record 0x0303 srcFls 0 0 (toLE 1 die ++ toLE 1 (bankOf key) ++ toLE 1 (blockOf key) ++ toLE 1 cause)
    else s1
  let s3 := if decide (s2.reserve die < 64) && s2.spare die = 0 && !s2.store.shrink then s2.shrinkStart else s2
  s3.shrinkForce die

/-- A block that is to be retired once its data has moved, and at once when it holds none. -/
def State.retireLater (s : State) (key cause : Nat) (recorded : Bool) : State :=
  let b := s.blk key
  match b.st with
  | .mapped => (s.setBlk key { b with retire := some cause }).mark .urgent key
  | .free => s.retireBlock key cause recorded
  | .erasing => s.setBlk key { b with retire := some cause }
  | .dest => s.setBlk key { b with retire := some cause }
  | .retired => s
  | .system => s.retireBlock key cause recorded

/-! ### Policy values (Tables 8 to 13) -/

def State.progBanks (s : State) : Nat := getBits (s.reg 0x60000) 8 5 + 1
def State.darnerMin (s : State) : Nat := getBits (s.reg 0x60000) 0 5 + 1

def State.threshQueue (s : State) : Nat := getBits (s.reg 0x60010) 0 24
def State.threshUrgent (s : State) : Nat := getBits (s.reg 0x60014) 0 24
def State.threshHold (s : State) : Nat := getBits (s.reg 0x60018) 0 24
def State.ecRefresh (s : State) : Nat := getBits (s.reg 0x6001C) 16 8
def State.days (s : State) : Nat := getBits (s.reg 0x6001C) 0 8
def State.spread (s : State) : Nat := getBits (s.reg 0x60020) 0 10
def State.ckptInterval (s : State) : Nat := getBits (s.reg 0x60024) 0 6
def State.asmStripes (s : State) : Nat := getBits (s.reg 0x60028) 20 6

/-- The segment of a codeword's place is held: its new reads wait until the block's copy flips (R241). -/
def State.cwHeld (s : State) (h o : Nat) : Bool :=
  match s.cwPlace h o with
  | some (key, w) => decide (s.threshHold ≤ nget 0 (s.blk key).segs (w / 16))
  | none => false

/-- A read has waited under HOLD. -/
def State.flagHold (s : State) : State := s.setReg 0x60004 (s.reg 0x60004 ||| 0x10000000#32)

/-- The interface carries transfers: not below 0.75 V (R235). -/
def State.flashMoves (s : State) : Bool := decide (750 ≤ s.store.vccq)

/-! ### Banks at work (R233, R234) -/

/-- Page reads of a die under way. -/
def State.dieReads (s : State) (die : Nat) : Bool := s.store.reads.any (fun r => dieOf r.key = die && decide (s.us < r.until_))
/-- A page of the block is named by a read under way (R231). -/
def State.readsOf (s : State) (key : Nat) : Bool := s.store.reads.any (fun r => r.key = key && decide (s.us < r.until_))
/-- A bank (die and bank as one number) holds an erase that has begun, other than that of a block. -/
def State.bankErases (s : State) (bank : Nat) (except : Nat) : Bool :=
  s.store.blks.any (fun e => e.1 / 256 = bank && e.1 ≠ except && e.2.st = .erasing && decide (0 < e.2.pulses))
/-- The banks of a die that hold the programs of a copy, an erase, or a unit's program. -/
def State.copyBanks (s : State) (die : Nat) : List Nat :=
  (s.store.blks.filter (fun e => dieOf e.1 = die && e.2.st = .dest)).map (fun e => e.1 / 256)
def State.eraseBanks (s : State) (die : Nat) : List Nat :=
  (s.store.blks.filter (fun e => dieOf e.1 = die && e.2.st = .erasing && decide (0 < e.2.pulses))).map (fun e => e.1 / 256)
def State.unitBanks (s : State) (die : Nat) : List Nat :=
  (s.store.programming.filter (fun p => dieOf p.2.2.2 = die)).map (fun p => p.2.2.2 / 256)
def State.slotsUsed (s : State) (die : Nat) : Nat := (s.copyBanks die ++ s.eraseBanks die ++ s.unitBanks die).eraseDups.length

/-- The destination of a copy: the least worn free block of another bank, or the most worn for levelling (R242, R246). -/
def State.copyDest (s : State) (c : Mark) (key : Nat) : Option Nat :=
  let keys := (dieKeys (dieOf key)).filter (fun k => bankOf k ≠ bankOf key)
  if c = .wear then s.mostWorn keys else s.leastWorn keys

/-- The copy that the Darner makes next in a die, with its destination. A COMPACT mark stands for moves of stripes, which need no
destination block. -/
def State.nextCopy (s : State) (die : Nat) : Option (Mark × Nat × Nat) :=
  match s.nextMark die with
  | none => none
  | some (c, key) => if c = .compact then none else (s.copyDest c key).map (fun dst => (c, key, dst))
/-- A copy waits for a program slot of a die. -/
def State.darnerWaits (s : State) (die : Nat) : Bool := (s.nextCopy die).isSome
def State.urgentWaits (s : State) (die : Nat) : Bool := (s.nextCopy die).any (fun e => e.1 = .urgent)

/-- A slot for a unit of the OPEN extent: after URGENT work that waits, and after those that the Darner's work keeps (Table 4). -/
def State.unitSlot (s : State) (die : Nat) : Bool :=
  let kept := if s.darnerWaits die then s.darnerMin - (s.copyBanks die).eraseDups.length else 0
  !s.dieReads die || (!s.urgentWaits die && decide (s.slotsUsed die + kept < s.progBanks))

/-- A slot for an erase: after every copy and unit that waits (Table 4). -/
def State.eraseSlot (s : State) (die : Nat) (unitWaits : Bool) : Bool :=
  !s.dieReads die || (!s.darnerWaits die && !unitWaits && decide (s.slotsUsed die < s.progBanks))

/-- A slot for a copy of the Darner: at once for URGENT work and for its first DARNER_MIN banks, else after the units that wait. -/
def State.darnerSlot (s : State) (die : Nat) (urgent unitWaits : Bool) : Bool :=
  !s.dieReads die || (decide (s.slotsUsed die < s.progBanks) &&
    (urgent || decide ((s.copyBanks die).eraseDups.length < s.darnerMin) || !unitWaits))

def State.asmOn (s : State) : Bool := bitOf (s.reg 0x60028) 31

end Sys2Proof.Machine
end

