-- ==== Sys2Proof/Machine/RunCmd.lean ====
section
/-! DEFINITION. RUN from its checks to its end (R335, R336, R367, R368, R140, R168, R192, R193, R206, R207, R420), the
passes it starts and ends (R266 to R270), NOP, and the end of every command (R37, R370). -/

namespace Sys2Proof.Machine

/-! ### The command's fields (Table 5 of R366) -/

def Cmd.rSlot (k : Cmd) : Nat := k.u 4 1
def Cmd.rEntry (k : Cmd) : Nat := k.u 5 1
def Cmd.rModel (k : Cmd) : Nat := k.u 6 1
def Cmd.rNseq (k : Cmd) : Nat := k.u 7 1
def Cmd.rArgAddr (k : Cmd) : Nat := k.u 8 8
def Cmd.rArgLen (k : Cmd) : Nat := k.u 0x10 2
def Cmd.rOrder (k : Cmd) : Bool := k.u 1 1 % 2 = 1
def Cmd.seqWord (k : Cmd) (i : Nat) : Nat := k.u (0x20 + 4 * i) 4
/-- The named slots with their append counts. -/
def Cmd.rSeqs (k : Cmd) : List (BitVec 10 × Nat) :=
  (List.range k.rNseq).map (fun i => (BitVec.ofNat 10 (k.seqWord i), k.seqWord i / 1024 % 131072))

/-- R365 for a RUN. -/
def runFormatOk (k : Cmd) : Bool :=
  decide (k.u 1 1 < 2) && decide (k.rSlot ≤ 7) && decide (k.rEntry ≤ 31) && decide (k.rModel ≤ 31) && decide (k.rNseq ≤ 8) &&
  k.rArgAddr % 4 = 0 && decide (k.rArgLen ≤ 3840) && k.rArgLen % 4 = 0 && allZero (bytesAt k.bytes 0x12 14) &&
  (List.range 8).all (fun i =>
    if i < k.rNseq then decide (k.seqWord i < 2 ^ 27) && decide (k.seqWord i / 1024 ≤ 65536)
    else k.seqWord i = 0) &&
  (List.range k.rNseq).all (fun i => freshAt (fun (e : BitVec 10 × Nat) => e.1) k.rSeqs i)

/-! ### What a RUN needs -/

def entryOf (b : List Byte) (e : Nat) : Entry := (bsEntries b).getD e { gangs := 0, sched := 0xFF, flags := 0 }
def gangsOf (b : List Byte) (e : Nat) : List Gang :=
  ((indexed (bsGangs b)).filter (fun g => (entryOf b e).gangs.getLsbD g.1)).map (·.2)
/-- The cores that an entry starts (R335). -/
def entryCores (b : List Byte) (e : Nat) : BitVec 16 := (gangsOf b e).foldl (fun m g => m ||| g.cores) 0
/-- The start word of a core for an entry. -/
def startWord (b : List Byte) (e n : Nat) : Nat :=
  match (gangsOf b e).find? (fun g => g.cores.getLsbD n) with
  | some g => (match bsImage b g.image with | some im => bsStart b im e | none => 0)
  | none => 0

/-- The argument area of a bitstream as a shared-memory offset (R368). -/
def argArea (b : List Byte) : Option Nat :=
  let need := 4096 * (bsEntries b).length
  match (bsParts b).find? (fun p => p.kind = kindArgs) with
  | some p => if need ≤ p.size * unit64K then some (p.base * unit64K) else none
  | none =>
    match (bsParts b).find? (fun p => p.kind = kindWork) with
    | some p => if need ≤ p.size * unit64K then some ((p.base + p.size) * unit64K - need) else none
    | none => none

/-- A released key of a model that permits a context and a bitstream's signer (R408, R412). -/
def State.keyPermits (s : State) (m ctx keyid : Nat) : Bool :=
  let k := s.keySlot (weightKeySlot m)
  k.kind = .weight && k.use.getLsbD ctx && k.keymask.getLsbD keyid && s.sec.destroyWait ≠ some (BitVec.ofNat 7 (weightKeySlot m))

def State.keyOk (s : State) (m ctx keyid : Nat) : Bool :=
  s.keyPermits m ctx keyid && (!(s.model m).variant || s.keyPermits (s.model m).base.toNat ctx keyid)

/-- A command of the ADMIN context whose body is SLOT or MODEL alone passes its format checks (R365). -/
def State.bareOk (s : State) (k : Cmd) : Bool :=
  (s.ctx k.ref.ctx.toNat).admin && decide (k.u 1 1 < 2) && allZero (k.bytes.drop 5)

/-- Commands of a kind that name a byte value at 0x04 and whose doorbells precede a command, but those that end with a refusal. -/
def State.aheadOf (s : State) (k : Cmd) (op v : Nat) : Bool :=
  s.cmds.any (fun j => j.op = op && j.u 4 1 = v && decide (j.order < k.order) && j.stage ≠ .ended && s.bareOk j)

/-- The model check (R350, R280): bound or a variant of it, with the bitstream's layers, and loaded or loading. -/
def State.modelOk (s : State) (k : Cmd) : Bool :=
  let b := s.bsSlot k.rSlot
  let m := s.model k.rModel
  (k.rModel = b.model.toNat || (m.variant && m.base = b.model)) && (m.st = .ready || m.st = .loading) &&
  m.layers.length = bsLayers b.image && !s.aheadOf k 0x26 k.rModel

/-- The slot of a RUN or BSACT holds a bitstream, and no BSFREE precedes it (R351). -/
def State.slotOk (s : State) (k : Cmd) : Bool :=
  ((s.bsSlot k.rSlot).st = .resident || (s.bsSlot k.rSlot).st = .active) && !s.aheadOf k 0x32 k.rSlot

/-- Stage 2 of R367: the first failure's code. -/
def State.runStage2 (s : State) (k : Cmd) : Option Nat :=
  let b := s.bsSlot k.rSlot
  if !(s.slotOk k && decide (k.rEntry < (bsEntries b.image).length)) then some stBitstream
  else if !(s.ctx k.ref.ctx.toNat).cls && (entryOf b.image k.rEntry).flags % 2 = 1 then some stClass
  else if !s.modelOk k then some stBounds
  else if !s.keyOk k.rModel k.ref.ctx.toNat (bsKeyId b.image) then some stKey
  else if (argArea b.image).isNone then some stBounds
  else none

def execRun (r : CmdRef) (s : State) : Host.Outcome State Fault Refusal :=
  .next (s.hostCmd r 0x01 (fun k => if runFormatOk k then [] else [stBounds])
    (fun s k => if k.rOrder then s.allEnded k else s.allBegun k)
    (fun k =>
      if k.stage ≠ .fetched then s
      else match s.runStage2 k with
        | some c => s.endCmd r c
        | none => s.modCmd r (fun (k : Cmd) => { k with stage := .waiting, slot := BitVec.ofNat 3 k.rSlot })))

/-- NOP: a body of zero bytes, ST_OK at its start (R366). -/
def execCmdNop (r : CmdRef) (s : State) : Host.Outcome State Fault Refusal :=
  .next (s.hostCmd r 0x00 (fun k => if k.u 1 1 < 2 && allZero (k.bytes.drop 4) then [] else [stBounds]) State.allEnded
    (fun _ => s.atOnce r stOk))

/-! ### Waits before the start (stage 3 of R367) -/

/-- The sequences that a command needs free before its start (R205). -/
def Cmd.needs (k : Cmd) : List Nat :=
  if k.isRun then k.rSeqs.map (fun e => e.1.toNat)
  else if k.op = 0x10 || k.op = 0x11 || k.op = 0x14 || k.op = 0x15 || k.op = 0x16 then [k.u 4 2]
  else []

/-- A command may take its sequences: none is busy for another, and no earlier waiting command needs one of them. -/
def State.mayTake (s : State) (k : Cmd) : Bool :=
  k.needs.all (fun n => (s.seq n).busy = none || (s.seq n).busy = some k.ref) &&
  s.cmds.all (fun j => !(j.stage = .waiting && decide (j.order < k.order) && j.needs.any (fun n => k.needs.contains n)))

def State.take (s : State) (k : Cmd) : State :=
  k.needs.foldl (fun s n => s.setSeq n { s.seq n with busy := some k.ref }) s

/-- The active bitstreams whose cores overlap a mask. -/
def State.activeOver (s : State) (m : BitVec 16) : List Nat :=
  (List.range 8).filter (fun i => (s.bsSlot i).st = .active && bsCores (s.bsSlot i).image &&& m ≠ 0)

/-- A RUN or BSACT that needs a switch first (R348). -/
def State.needsSwitch (s : State) (slot : Nat) : Bool := (s.bsSlot slot).st = .resident

/-- The cores that a waiting RUN or BSACT holds later ones from (Table 10 of R348, R336). -/
def State.footprint (s : State) (k : Cmd) : BitVec 16 :=
  let slot := k.u 4 1
  let b := s.bsSlot slot
  if s.needsSwitch slot then
    (s.activeOver (bsCores b.image)).foldl (fun m i => m ||| bsCores (s.bsSlot i).image) (bsCores b.image)
  else if k.isRun then entryCores b.image k.rEntry
  else 0

def Cmd.usesCores (k : Cmd) : Bool := k.isRun || k.op = 0x31
def Cmd.onCores (k : Cmd) : Bool := k.isRun && (k.stage = .placing || k.stage = .started)

/-- Cores are in use, or wanted by an earlier command, or the partitions serve another context (R193, R336, R348). -/
def State.coresBusy (s : State) (k : Cmd) : Bool :=
  let f := s.footprint k
  s.cmds.any (fun j => j.ref ≠ k.ref && (
    (j.onCores && j.cores &&& f ≠ 0) ||
    (j.usesCores && j.stage = .waiting && decide (j.order < k.order) && s.footprint j &&& f ≠ 0) ||
    (j.isRun && j.stage = .fetched && j.rSlot = k.rSlot && decide (j.order < k.order) && s.footprint j &&& f ≠ 0) ||
    (j.onCores && j.slot.toNat = k.rSlot && j.ref.ctx ≠ k.ref.ctx)))

def State.anyCore (s : State) (m : BitVec 16) (p : Core → Bool) : Bool := (maskCores m).any (fun n => p (s.core n))
def Core.isRetired (k : Core) : Bool := k.fence = .retired
def Core.isTesting (k : Core) : Bool := k.fence = .testing

/-- What else holds a RUN that has its sequences: a core under test, a model that loads, a switch, cores in use. -/
def State.runHeld (s : State) (k : Cmd) : Bool :=
  let m := s.model k.rModel
  s.anyCore (s.footprint k) Core.isTesting || m.st ≠ .ready || (m.variant && (s.model m.base.toNat).st ≠ .ready) ||
  s.needsSwitch k.rSlot || s.coresBusy k

/-! ### Clearing on a change of context (R192, R193, R420) -/

def Core.clearFor (k : Core) (ctx : BitVec 6) : Core :=
  if k.owner = some ctx then k
  else { k with cmem := .zero, bufA := .zero, bufB := .zero, bufD := .zero, v := [], tiles := [], acc := [],
                mat := { k.mat with flights := [] }, owner := some ctx }

/-- A partition takes an owner, and is zeroed where that changes it. An ARGS partition is compared as a WORK partition is (R193, Table 7
of R420), though its register shows no owner (R195). -/
def State.clearPart (s : State) (n : Nat) (ctx : BitVec 6) : State :=
  let p := s.part n
  if p.owner = some ctx then s
  else { (s.setPart n { p with owner := some ctx }) with shm := s.shm.clear (p.base * unit64K) (p.size * unit64K) }

def State.clearCodec (s : State) (n : Nat) : State :=
  let p := s.part n
  { s with shm := s.shm.clear (p.base * unit64K) (p.size * unit64K) }

/-- The partitions of a bitstream for a command's context. -/
def State.clearParts (s : State) (slot : Nat) (ctx : BitVec 6) : State :=
  let of := fun (kinds : List Nat) => nkeys s.parts (fun p => p.slot = some (BitVec.ofNat 3 slot) && kinds.contains p.kind.toNat)
  let s1 := (of [kindWork, kindArgs]).foldl (fun s n => s.clearPart n ctx) s
  let b := s.bsSlot slot
  let s2 := if b.lastCtx = some ctx then s1 else (of [kindCodec]).foldl State.clearCodec s1
  s2.setBs slot { b with lastCtx := some ctx }

/-! ### Passes (R268 to R270) -/

/-- The number after a pass number, 0 skipped. -/
def nextPass (n : Word) : Word := if n + 1 = 0 then 1 else n + 1

/-- Keys of host granules of one pass. -/
def hostSpan : Nat := 2 ^ 40

/-- Every piece of a pass leaves the rings of its slot. -/
def State.dropPieces (s : State) (slot : BitVec 3) (no : Word) : State :=
  (List.range 16).foldl (fun s r => s.setRingQ slot.toNat r (freeTaken ((s.ringQ slot.toNat r).filter (fun p => p.pass ≠ no || p.taken)))) s

/-- A pass goes with its pieces, staged or in flight: host granules that were read for it are not kept (R269, R270). -/
def State.dropPass (s : State) (p : Pass) : State :=
  let s1 := s.dropPieces p.slot p.no
  { s1 with passes := s1.passes.filter (fun q => q.no ≠ p.no), hostGran := s1.hostGran.filter (fun e => e.1 / hostSpan ≠ p.no.toNat || e.2 = some []) }

/-- The pass that runs ahead of a bitstream's next RUN (R269). -/
def State.aheadPass (s : State) (slot : Nat) : Option Pass :=
  s.passes.find? (fun p => p.cmd = none && p.slot.toNat = slot)

/-- A RUN starts its pass: the one staged ahead where it is of the same schedule, model and generation, else a new one. -/
def State.startPass (s : State) (r : CmdRef) (slot sched m : Nat) : Word × State :=
  let gen := (s.model m).gen
  let s0 := s.setModel m { s.model m with use := (s.aon.calSec.toNat : Int) }
  let fresh := fun (s : State) =>
    let no := nextPass s.passNo
    (no, { s with passNo := no, passes := s.passes ++
      [{ no := no, slot := BitVec.ofNat 3 slot, sched := BitVec.ofNat 8 sched, model := BitVec.ofNat 5 m, gen := gen,
         cmd := some r, pos := [], routes := [], failed := false }] })
  match s0.aheadPass slot with
  | none => fresh s0
  | some p =>
    if p.sched.toNat = sched && p.model.toNat = m && p.gen = gen then
      (p.no, { s0 with passes := s0.passes.map (fun q => if q.no = p.no then { q with cmd := some r } else q) })
    else fresh (s0.dropPass p)

def State.passOfCmd (s : State) (r : CmdRef) : Option Pass := s.passes.find? (fun p => p.cmd = some r)

/-- The extents that some layers name. -/
def namedBy (ls : List (List Byte)) : List Nat :=
  (ls.map (fun d => if descShare d then [] else ((segsOf d).filter (fun g => g.hint ≠ hostTier)).map Segm.handle)).flatten

/-- The extents that a model's descriptors name, current or deferred. -/
def Model.names (m : Model) : List Nat := namedBy m.layers ++ (m.old.map (fun o => namedBy o.layers)).flatten

/-- Extents named no longer are freed. -/
def State.freeUnnamed (s : State) (m : Nat) (hs : List Nat) : State :=
  (hs.eraseDups.filter (fun h => (s.extent h).inUse && (s.extent h).model.toNat = m && !(s.model m).names.contains h)).foldl
    State.freeExtent s

/-- An old version of a model goes once no pass reads it, with the extents that nothing names any more (R279 step 5). -/
def State.dropOld (s : State) (m : Nat) : State :=
  let md := s.model m
  let used := fun (o : OldVersion) => s.passes.any (fun p => p.model.toNat = m && p.gen = o.gen && p.cmd.isSome)
  let gone := ((md.old.filter (fun o => !used o)).map (fun o => namedBy o.layers)).flatten
  (s.setModel m { md with old := md.old.filter used }).freeUnnamed m gone

/-- The engine goes on with the next pass of the same model and generation (R269). -/
def State.runAhead (s : State) (p : Pass) : State :=
  let m := s.model p.model.toNat
  if m.st ≠ .ready || m.gen ≠ p.gen then s
  else
    let no := nextPass s.passNo
    { s with passNo := no, passes := s.passes ++ [{ p with no := no, cmd := none, pos := [], routes := [], failed := false }] }

/-- A pass ends with its command: the pieces that no core has taken are discarded; LEFTOVER when the command ended well, and the next
pass stands ready to be staged; after any other end the pass staged ahead starts again under a new number. -/
def State.endPass (s : State) (r : CmdRef) (ok : Bool) : State :=
  match s.passOfCmd r with
  | none => s
  | some p =>
    let left := (List.range 16).any (fun i => (s.ringQ p.slot.toNat i).any (fun q => q.pass = p.no && !q.taken))
    let s1 := (s.dropPass p).dropOld p.model.toNat
    let s2 := if left && ok then s1.setReg 0x7000C (s1.reg 0x7000C ||| 0x08000000#32) else s1
    match s2.aheadPass p.slot.toNat with
    | some a =>
      if ok then s2
      else
        let s3 := s2.dropPass a
        let no := nextPass s3.passNo
        { s3 with passNo := no, passes := s3.passes ++ [{ a with no := no, pos := [], routes := [], failed := false }] }
    | none => if ok then s2.runAhead p else s2

/-! ### The argument block (R368) -/

def State.argBlock (s : State) (k : Cmd) (args : List Byte) : List Byte :=
  padTo 4096 (toLE 4 k.pass.toNat ++ toLE 1 k.rEntry ++ toLE 1 k.ref.ctx.toNat ++ toLE 1 k.rNseq ++ [0] ++ toLE 2 k.rArgLen ++
    toLE 2 k.tag ++ List.replicate 20 0 ++
    padTo 128 ((k.seqs.map (fun e => toLE 8 (s.seq e.1.toNat).table ++ toLE 4 e.2.1 ++ toLE 4 e.2.2)).flatten) ++
    List.replicate 96 0 ++ args)

/-! ### The start -/

/-- The state of R140 on one core; the request wakes its island (R31). -/
def State.startCore (s : State) (k : Cmd) (b : List Byte) (arg n : Nat) : State :=
  let ctx := k.ref.ctx
  s.modCore n (fun (c0 : Core) =>
    let c := c0.clearFor ctx
    let c1 := { c with run := true, gated := false, cmd := some k.ref, pc := BitVec.ofNat 14 (startWord b k.rEntry n), peer := false, front := .running,
                       g := [], pendingG := [], slds := [], tacks := 1, sat := false, code := none, wrote := [],
                       mat := { c.mat with pend := [], usigs := [], wait := false } }
    ((c1.setG 1 (BitVec.ofNat 64 (shmBase + arg))).setG 2 (BitVec.ofNat 64 n)).setG 3
      (BitVec.ofNat 64 (ctx.toNat + 256 * boolNat (s.ctx ctx.toNat).cls)))

/-- Stages 5 and 6 of R367 once the argument data is here. -/
def State.placeAndStart (s : State) (k : Cmd) (args : List Byte) : State :=
  let b := (s.bsSlot k.rSlot).image
  let off := (argArea b).getD 0 + 4096 * k.rEntry
  let s1 := s.writeRam .shm off (s.argBlock k args)
  ((maskCores k.cores).foldl (fun s n => s.startCore k b off n) s1).startCmd k.ref

/-- A command that has a pass and no started core ends (R269, R270). -/
def State.endBefore (s : State) (r : CmdRef) (status : Nat) : State := (s.endPass r false).endCmd r status
/-- The same where several conditions hold (R18). -/
def State.endBeforeWith (s : State) (r : CmdRef) (codes : List Nat) : State :=
  (s.recordOthers r (worst codes) codes).endBefore r (worst codes)

/-- Stage 4 of R367: pass check, KV start, clearing. -/
def State.runBegin (s : State) (k : Cmd) : State :=
  let r := k.ref
  let b := (s.bsSlot k.rSlot).image
  let en := entryOf b k.rEntry
  if en.sched ≠ 0xFF && !s.passOk k.rSlot k.rModel en.sched then s.endCmd r stBounds
  else
    let s0 := if en.sched ≠ 0xFF then s.noteChecked k.rSlot k.rModel en.sched else s
    let names := k.rSeqs
    let seqs := names.map (fun e => (e.1, (s0.seq e.1.toNat).v, e.2))
    let kv := s0.kvStart r names
    let conds := condList [(!kv.1, stBounds),
      ((names.any (fun e => decide (0 < e.2) && s0.needsCow e.1.toNat)) && (s0.keyTag (ctxKeySlot r.ctx.toNat)).isNone, stKey)]
    if conds ≠ [] then (if kv.1 then s else kv.2.2.2).endWith r conds
    else
      let cores := entryCores b k.rEntry
      let s1 := (maskCores cores).foldl (fun s n => s.modCore n (fun c => c.clearFor r.ctx)) kv.2.2.2
      let s2 := s1.clearParts k.rSlot r.ctx
      let p := if en.sched ≠ 0xFF then s2.startPass r k.rSlot en.sched k.rModel else (0, s2)
      let s3 := p.2.modCmd r (fun (k : Cmd) =>
        { k with stage := .placing, cores := cores, pins := kv.2.1, appends := kv.2.2.1, seqs := seqs, pass := p.1,
                 result := p.1.setWidth 64 })
      match s3.cmd? r with
      | none => s3
      | some k1 =>
        if k1.rArgLen = 0 then s3.placeAndStart k1 []
        else s3.emit (.hostRead k1.rArgAddr k1.rArgLen)

/-- What ends a RUN that waits: its slot, or its model, key or cores (R280, R351, R427, R464). -/
def State.waitConds (s : State) (k : Cmd) : List Nat :=
  let b := s.bsSlot k.rSlot
  if !s.slotOk k then [stBitstream]
  else condList [(!s.modelOk k, stBounds), (!s.keyOk k.rModel k.ref.ctx.toNat (bsKeyId b.image), stKey),
    (s.anyCore (entryCores b.image k.rEntry) Core.isRetired, stFenced)]

/-- A RUN that waits: what ends it before its start, what it waits for, and its start. -/
def State.runWaiting (s : State) (k : Cmd) : State :=
  if s.waitConds k ≠ [] then s.endWith k.ref (s.waitConds k)
  else if !s.mayTake k then s
  else
    let s1 := s.take k
    if s1.runHeld k then s1 else s1.runBegin k

/-- A RUN whose argument data has come. -/
def State.runPlacing (s : State) (k : Cmd) : State :=
  match k.host with
  | none => s
  | some (.ok d) =>
    if s.anyCore k.cores Core.isRetired then s.endBefore k.ref stFenced
    else if s.anyCore k.cores Core.isTesting then s
    else s.placeAndStart k (padTo k.rArgLen d)
  | some _ => s.endBeforeWith k.ref (k.hostConds ++ condList [(s.anyCore k.cores Core.isRetired, stFenced)])

def execRunStart (r : CmdRef) (s : State) : Host.Outcome State Fault Refusal :=
  match s.cmd? r with
  | none => .next s
  | some k =>
    if !k.isRun || !(k.stage = .waiting || k.stage = .placing) || !s.serves then .next s
    else if s.stopConds ≠ [] then .next (s.endBeforeWith r s.stopConds)
    else if s.ras.deviceFault then .next s
    else if k.stage = .waiting then .next (s.runWaiting k)
    else .next (s.runPlacing k)

/-! ### The end (R168, R37) -/

/-- A spool one of whose started commands runs on a core between steps 1 and 5 of a fault (R465). -/
def State.affected (s : State) (ctx : BitVec 6) (spool : BitVec 3) : Bool :=
  s.cmds.any (fun j => j.ref.ctx = ctx && j.ref.spool = spool && j.stage = .started && j.isRun &&
    (maskCores j.cores).any (fun n => (s.core n).faultStep = 1 || (s.core n).faultStep = 2))

/-- The codes that a command carries to its end: of its cores, of its pass or an abort, and of a sequence that has gone (R213). -/
def Cmd.conds (k : Cmd) : List Nat :=
  k.codes.map (fun e => e.2.toNat) ++ k.forced.map (fun c => c.toNat) ++ (if k.cut then [stAborted] else [])

/-- The conditions that a RUN ends with (R168, R508): the cores' codes and a code of the pass or of an abort. -/
def State.runConds (s : State) (k : Cmd) : List Nat :=
  let own := k.conds
  if own = [] then [if (maskCores k.cores).any (fun n => (s.core n).sat) then stSaturated else stOk] else own

def runOk (status : Nat) : Bool := status = stOk || status = stSaturated

/-- A RUN whose cores have all ended: status, commit, the end of its pass, its record (R37). -/
def State.endRun (s : State) (k : Cmd) (conds : List Nat) : State :=
  let st := worst conds
  let s1 := s.recordOthers k.ref st conds
  let s2 := if runOk st then k.seqs.foldl (fun s e => s.kvCommit k.ref.ctx e) s1
    else (maskCores k.cores).foldl State.undefine s1
  (s2.endPass k.ref (runOk st)).endCmd k.ref st

/-- A weight key whose destruction waited for passes goes once none is left (R427): the slot empties and the answer
follows. -/
def State.keyDestroyTry (s : State) : State :=
  match s.sec.destroyWait with
  | none => s
  | some slot =>
    let m := slot.toNat - 72
    if s.passesOf m ≠ [] then s
    else
      let s1 := s.unbindWeight m
      ({ s1 with sec := { s1.sec with destroyWait := none } }).emit (.spdm 0x7E (toLE 2 0x0104 ++ toLE 2 stOk ++ [0, 0, 0, 0]))

def State.finishRecord (s : State) (r : CmdRef) : State :=
  match s.cmd? r with
  | some k => (s.writeRecord k).keyDestroyTry
  | none => s

/-- A command ends: a RUN whose parts have ended gets its status; every ended command gets its record. A RUN of a spool
that a core fault affects waits for step 5 of the fault. -/
def execCommandEnd (r : CmdRef) (s : State) : Host.Outcome State Fault Refusal :=
  match s.cmd? r with
  | none => .next s
  | some k =>
    if (s.ras.deviceFault && !s.ras.flrFailed) || s.aon.seq = .emergency then .next s
    else if k.stage = .ended then .next (s.finishRecord r)
    else if k.isRun && k.stage = .started && s.coresOf r = [] && !s.affected r.ctx r.spool then
      .next ((s.endRun k (s.runConds k)).finishRecord r)
    else .next s

end Sys2Proof.Machine
end

