-- ==== Sys2Proof/Machine/Spools.lean ====
section
/-! DEFINITION. Contexts and spools (R360 to R364, R371 to R374, R378): doorbells, command fetch, aborts, enabling and
disabling. -/

namespace Sys2Proof.Machine

/-- The function is reached over its link: trained and out of reset. -/
def State.linkOpen (s : State) : Bool := s.pcie.linkUp && !s.pcie.perst

/-- Registers that a host access reaches take host writes only while the link is open. -/
def State.byHost (s : State) (t : State) : State := if s.linkOpen then t else s

/-! ### HIF_CMD_ERR (R357, R362, R372, R509) -/

def State.hifErr (s : State) (kind ctx spool idx : Nat) : State :=
  let v := w32 (kind * 2 ^ 28 + ctx * 2 ^ 22 + spool * 2 ^ 19 + idx)
  let s1 := s.setRecord 0x10040 v
  s1.record 0x0B02 srcHif (if kind = 2 then 3 else 0) 0 (regCopy (s1.reg 0x10040) 0x10040)

/-! ### Doorbells (R361 to R363) -/

def Spool.size (p : Spool) : Nat := 2 ^ p.log2.toNat
/-- Entries between the head and a tail. -/
def Spool.upTo (p : Spool) (tail : Nat) : Nat := (tail + p.size - p.head.toNat) % p.size

/-- The first entries of a list of tail writes. -/
def takeDoors : List (Nat × Nat × Nat) → Nat → List (Nat × Nat × Nat)
  | [], _ => []
  | (c, us, o) :: t, n => if n = 0 then [] else (min c n, us, o) :: takeDoors t (n - c)

def doorCount (ds : List (Nat × Nat × Nat)) : Nat := (ds.map (fun d => d.1)).foldl (· + ·) 0

/-- A tail write to an enabled spool: the new entries take the next places of the doorbell order. -/
def State.newTail (s : State) (c p tail : Nat) : State :=
  let sp := s.spool c p
  let want := sp.upTo tail
  let have_ := doorCount sp.doors
  let doors := if have_ < want then sp.doors ++ [(want - have_, s.us, s.orders)] else takeDoors sp.doors want
  { (s.setSpool c p { sp with tail := BitVec.ofNat 12 tail, doors := doors }) with orders := s.orders + (want - have_) }

/-- A doorbell write is an exit event (R445). -/
def execDoorbell (ctx : BitVec 6) (spool : BitVec 3) (val : Word) (s : State) : Host.Outcome State Fault Refusal :=
  let c := ctx.toNat
  let p := spool.toNat
  let tail := val.toNat % 4096
  let sp := s.spool c p
  .next (s.byHost (
    if !(s.ctx c).en || !sp.en then (s.hifErr 1 c p 0).exitIdle
    else if sp.size ≤ tail then (s.hifErr 0 c p 0).exitIdle
    else (s.newTail c p tail).exitIdle))

/-! ### Fetch (R361, R363, R372) -/

/-- Opcodes of Tables 5 and 7. -/
def knownOps : List Nat :=
  [0x00, 0x01, 0x10, 0x11, 0x12, 0x13, 0x14, 0x15, 0x16, 0x20, 0x21, 0x22, 0x23, 0x24, 0x25, 0x26, 0x27, 0x28, 0x29, 0x30, 0x31, 0x32]

/-- The time and place in doorbell order of the next entry, and the tail writes without it. -/
def nextDoor : List (Nat × Nat × Nat) → Option ((Nat × Nat) × List (Nat × Nat × Nat))
  | [] => none
  | (c, us, o) :: t => if c ≤ 1 then some ((us, o), t) else some ((us, o), (c - 1, us, o + 1) :: t)

/-- The spool fetches: both enables are set, no fetch error holds it, an entry is valid, no DEVICE fault has stopped fetching (after
an FLR whose self-test failed every command ends with ST_FENCED, R470), and the device is not in or entering Idle. Neither of the driver's conditions of R361 is checked. -/
def State.fetches (s : State) (c p : Nat) : Bool :=
  let sp := s.spool c p
  s.linkOpen && (s.ctx c).en && sp.en && !sp.halted && sp.head ≠ sp.tail && (!s.ras.deviceFault || s.ras.flrFailed) && s.serves &&
  (s.pwr.dev = .active || s.pwr.dev = .background)

/-- The host address of command entry i (R360). -/
def Spool.entryAddr (p : Spool) (i : Nat) : Nat := p.cmdLo.toNat + 2 ^ 32 * p.cmdHi.toNat + 64 * i

def Cmd.fetched (ref : CmdRef) (bytes : List Byte) (phase : Bool) (order door : Nat) : Cmd :=
  { ref := ref, bytes := padTo 64 bytes, phase := phase, order := order, door := door, stage := .fetched, status := 0, begin_ := 0,
    end_ := 0, cores := 0, codes := [], pass := 0, result := 0, host := none, pins := [], appends := [], seqs := [], forced := [], cut := false,
    slot := 0, done := 0 }

/-- The head moves on; PHASE changes with the lap. -/
def Spool.next (p : Spool) (doors : List (Nat × Nat × Nat)) : Spool :=
  if p.head.toNat + 1 = p.size then { p with head := 0, phase := !p.phase, doors := doors }
  else { p with head := p.head + 1, doors := doors }

/-- The read of the entry at a spool's head leaves. -/
def State.askEntry (s : State) (c p : Nat) : State := s.emit (.hostRead ((s.spool c p).entryAddr (s.spool c p).head.toNat) 64)

/-- A command fetch fails: the spool stops fetching, with FETCH_ERR and its record (R372). -/
def State.fetchFails (s : State) (c p : Nat) : State :=
  let sp := s.spool c p
  ((s.askEntry c p).setSpool c p { sp with halted := true, fetchErr := true }).hifErr 2 c p sp.head.toNat

/-- A command fetch completes: the read of the entry at the head leaves, and with its data the entry is held, or the spool stops
fetching. An opcode of no table ends with ST_BOUNDS. The order in which the reads of several spools return is the host memory's
(log entry 2). -/
def execCommandFetch (ctx : BitVec 6) (spool : BitVec 3) (entry : HostRead) (s0 : State) : Host.Outcome State Fault Refusal :=
  let c := ctx.toNat
  let p := spool.toNat
  let sp := s0.spool c p
  let s := s0.askEntry c p
  if !s0.fetches c p then .next s0
  else match entry with
    | .ok bytes =>
      (match nextDoor sp.doors with
      | none => .next s0
      | some d =>
        let ref : CmdRef := { ctx := ctx, spool := spool, idx := sp.head }
        let k := Cmd.fetched ref bytes sp.phase d.1.2 d.1.1
        let s1 := { (s.setSpool c p (sp.next d.2)) with cmds := s.cmds ++ [k] }
        .next (if knownOps.contains k.op then s1 else s1.endWith ref (s.stopConds ++ [stBounds])))
    | _ => .next (s0.fetchFails c p)

/-! ### Aborts (R374) -/

/-- A started RUN stops on every core as a peer and carries a status of its own (R374, R213). -/
def State.stopRun (s : State) (r : CmdRef) (status : Nat) : State :=
  (s.peerStop r []).modCmd r (fun (k : Cmd) => { k with forced := k.forced ++ [BitVec.ofNat 16 status] })

/-- An abort of one fetched command. -/
def State.abortCmd (s : State) (k : Cmd) : State :=
  if k.stage = .ended || s.affected k.ref.ctx k.ref.spool then s
  else if k.stage = .started then (if k.isRun then s.stopRun k.ref stAborted else s)
  else s.endBefore k.ref stAborted

def execDbAbort (ctx : BitVec 6) (val : Word) (s : State) : Host.Outcome State Fault Refusal :=
  let spool := BitVec.ofNat 3 (getBits val 16 3)
  .next (s.byHost (
    if !(s.ctx ctx.toNat).en then s.hifErr 1 ctx.toNat spool.toNat 0
    else match s.cmd? { ctx := ctx, spool := spool, idx := BitVec.ofNat 12 (getBits val 0 12) } with
      | some k => s.abortCmd k
      | none => s))

/-! ### Enabling and disabling (R373, R378) -/

/-- Fetched commands that have not started end with ST_ABORTED. -/
def State.abortUnstarted (s : State) (of : Cmd → Bool) : State :=
  (s.cmds.filter (fun k => of k && k.stage ≠ .started && k.stage ≠ .ended)).foldl (fun s k => s.endBefore k.ref stAborted) s

/-- The context and spool that HIF_SPL_SEL names. -/
def State.selSpool (s : State) : Nat × Nat := (getBits (s.reg 0x10020) 0 6, getBits (s.reg 0x10020) 6 3)
def State.selCtx (s : State) : Nat := getBits (s.reg 0x10010) 0 6

/-- The selected spool meets a fetch error in the very cycle of a write of HIF_SPL_CFG. -/
def State.fetchErrNow (s : State) (data : RegData) : Bool := bitOf data.set 29 && s.fetches s.selSpool.1 s.selSpool.2
def State.sameCycleFetch (s : State) (data : RegData) : State :=
  if s.fetchErrNow data then s.fetchFails s.selSpool.1 s.selSpool.2 else s

/-- FETCH_ERR is write-one-to-clear, and stays where the device sets it in the same cycle (R12). -/
def Spool.ackErr (p : Spool) (val : Word) (again : Bool) : Spool := if bitOf val 29 && !again then { p with fetchErr := false } else p

/-- A write of HIF_SPL_CFG with EN = 1. -/
def execSpoolEnable (data : RegData) (s0 : State) : Host.Outcome State Fault Refusal :=
  let val := data.val
  let again := s0.fetchErrNow data
  let s := s0.sameCycleFetch data
  let c := s.selSpool.1
  let p := s.selSpool.2
  let sp := s.spool c p
  let k := getBits val 0 4
  .next (s0.byHost (
    if !bitOf val 31 then s0
    else if sp.en then s.setSpool c p (sp.ackErr val again)
    else if getBits sp.cmdLo 0 12 ≠ 0 || getBits sp.cplLo 0 12 ≠ 0 || decide (k < 4) || decide (12 < k) then s
    else s.setSpool c p
      { (sp.ackErr val again) with
        en := true, halted := false, log2 := BitVec.ofNat 4 k, head := 0, tail := 0, phase := true, doors := [] }))

/-- A write of HIF_SPL_CFG with EN = 0; LOG2SIZE is written only where EN was 0 already. -/
def execSpoolDisable (data : RegData) (s0 : State) : Host.Outcome State Fault Refusal :=
  let val := data.val
  let again := s0.fetchErrNow data
  let s := s0.sameCycleFetch data
  let c := s.selSpool.1
  let p := s.selSpool.2
  let sp := s.spool c p
  .next (s0.byHost (
    if bitOf val 31 then s0
    else if sp.en then
      (s.setSpool c p { (sp.ackErr val again) with en := false, halted := false, doors := [] }).abortUnstarted
        (fun k => k.ref.ctx.toNat = c && k.ref.spool.toNat = p)
    else s.setSpool c p { (sp.ackErr val again) with log2 := BitVec.ofNat 4 (getBits val 0 4) }))

/-- Commands of a context that are fetched and not ended. -/
def State.inflight (s : State) (c : Nat) : Nat := (s.cmds.filter (fun k => k.ref.ctx.toNat = c && k.stage ≠ .ended)).length

/-- CLASS is written only while EN is 0 and nothing is in flight. -/
def State.newClass (s : State) (c : Nat) (val : Word) : Bool :=
  if (s.ctx c).en || s.inflight c ≠ 0 then (s.ctx c).cls else bitOf val 30

/-- A context that is enabled without a key gets a generated one, and is open (R414). -/
def State.openKey (s : State) (c : Nat) : State :=
  if (s.keySlot (ctxKeySlot c)).kind ≠ .empty then s
  else
    let s1 := s.fillSlot (ctxKeySlot c) { KeySlot.empty with kind := .context, ident := s.sec.idents, session := 7 }
    let s2 := { s1 with sec := { s1.sec with idents := s1.sec.idents + 1 } }
    s2.setCtx c { s2.ctx c with sealed_ := false, hostrw := true, idereq := false, ulink := false }

/-- A write of HIF_CTX_CFG with EN = 1: a pattern run that needs every context disabled stops (R504). -/
def execContextEnable (val : Word) (s : State) : Host.Outcome State Fault Refusal :=
  let c := s.selCtx
  .next (s.byHost (
    if !bitOf val 31 then s
    else
      let s1 := s.setCtx c { s.ctx c with en := true, cls := s.newClass c val }
      if (s.ctx c).en then s1 else (s1.openKey c).tstBreak))

/-- A write of HIF_CTX_CFG with EN = 0: fetching stops for every spool of the context. -/
def execContextDisable (val : Word) (s : State) : Host.Outcome State Fault Refusal :=
  let c := s.selCtx
  .next (s.byHost (
    if bitOf val 31 then s
    else (s.setCtx c { s.ctx c with en := false, cls := s.newClass c val }).abortUnstarted (fun k => k.ref.ctx.toNat = c)))

end Sys2Proof.Machine
end

