-- ==== Sys2Proof/Machine/KvCmds.lean ====
section
/-! DEFINITION. The sequence operations (R205, R210 to R215, R417) and the writes that enable and disable the allocator and
its pools (R216, R217). -/

namespace Sys2Proof.Machine

/-! ### Fields (Table 7 of R369) -/

def Cmd.kSlot (k : Cmd) : Nat := k.u 4 2
def Cmd.flagsOk (k : Cmd) : Bool := decide (k.u 1 1 < 2)
/-- The bytes from an offset to the end of the body are zero. -/
def Cmd.zeroFrom (k : Cmd) (off : Nat) : Bool := allZero (k.bytes.drop off)
def Cmd.zeroAt (k : Cmd) (off len : Nat) : Bool := allZero (bytesAt k.bytes off len)
def Cmd.slotOk (k : Cmd) : Bool := k.flagsOk && decide (k.kSlot < 1024)
def boundsUnless (ok : Bool) : List Nat := if ok then [] else [stBounds]

def tableOk (a : Nat) : Bool := a % 64 = 0

def createOk (k : Cmd) : Bool :=
  k.slotOk && decide (k.u 6 1 < 4) && decide (4 ≤ k.u 7 1) && decide (k.u 7 1 ≤ 10) && decide (1 ≤ k.u 8 2) &&
  decide (k.u 8 2 ≤ 4096) && decide (1 ≤ k.u 0xA 2) && decide (k.u 0xA 2 ≤ 16384) && k.zeroAt 0xC 4 && tableOk (k.u 0x10 8) &&
  k.zeroFrom 0x18
def forkOk (k : Cmd) : Bool :=
  k.slotOk && decide (k.u 6 2 < 1024) && decide (1 ≤ k.u 0xC 2) && decide (k.u 0xC 2 ≤ 16384) && k.zeroAt 0xE 2 &&
  tableOk (k.u 0x10 8) && k.zeroFrom 0x18
def truncateOk (k : Cmd) : Bool := k.slotOk && k.zeroAt 6 2 && k.zeroFrom 0xC
def slotOnlyOk (k : Cmd) : Bool := k.slotOk && k.zeroFrom 6
def writebackOk (k : Cmd) : Bool := k.slotOk && decide (k.u 6 1 < 2) && k.zeroAt 7 1 && k.zeroFrom 0x18
def evictOk (k : Cmd) : Bool := k.slotOk && k.zeroAt 6 2 && k.zeroFrom 0x18

/-! ### Conditions and waits -/

/-- The slot belongs to the command's context. -/
def State.owns (s : State) (k : Cmd) (n : Nat) : Bool := (s.seq n).ctx = k.ref.ctx
def State.isLive (s : State) (k : Cmd) (n : Nat) : Bool := (s.seq n).st = .live && s.owns k n

def State.markWaiting (s : State) (r : CmdRef) : State := s.modCmd r (fun (k : Cmd) => { k with stage := .waiting })

/-- ST_KEY where a context has no key. -/
def State.keyConds (s : State) (ctx : BitVec 6) : List Nat := condList [((s.keyTag (ctxKeySlot ctx.toNat)).isNone, stKey)]

/-- A sequence operation at its start: refused while the allocator is disabled, waiting while a sequence it names is busy. `more` are
conditions of its own that hold beside the refusal (R18). -/
def State.seqOp (s : State) (k : Cmd) (more : List Nat) (go : State) : State :=
  if !s.kvEnabled then s.endWith k.ref (stBounds :: more)
  else if !s.mayTake k then s.markWaiting k.ref
  else go

/-- An operation that succeeds or ends with ST_BOUNDS and no change. -/
def State.okOr (s : State) (k : Cmd) (ok : Bool) (t : State) : State :=
  if ok then (t.startCmd k.ref).endCmd k.ref stOk else s.endCmd k.ref stBounds

/-! ### CREATE and FORK -/

def createSeq (k : Cmd) : Seq :=
  { Seq.free with st := .live, ctx := k.ref.ctx, pool := BitVec.ofNat 2 (k.u 6 1), streams := k.u 8 2, pref := k.u 7 1,
                  maxrows := k.u 0xA 2, table := k.u 0x10 8 }

def State.doCreate (s : State) (k : Cmd) : State :=
  let q := createSeq k
  s.okOr k ((s.seq k.kSlot).st = .free && q.pool.toNat = s.budgetPool k.ref.ctx.toNat &&
    s.inTableWindow k.ref.ctx.toNat q.table q.tableBytes) (s.storeSeq k.kSlot q)

def execCreate (r : CmdRef) (s : State) : Host.Outcome State Fault Refusal :=
  .next (s.hostCmd r 0x10 (fun k => boundsUnless (createOk k)) State.allEnded (fun k => s.seqOp k [] (s.doCreate k)))

/-- The source's rows that cover positions 0 to n - 1, every DIRTY set. -/
def forkRows (q : Seq) (n : Nat) : List Row :=
  (q.rows.filter (fun r => decide (r.start < n))).map (fun r =>
    { r with pages := r.pages.map (fun p => { p with dirty := true }) })

def forkSeq (k : Cmd) (src : Seq) : Seq :=
  { src with v := k.u 8 4, maxrows := k.u 0xC 2, table := k.u 0x10 8, rows := forkRows src (k.u 8 4), host := 0, img := 0, busy := none }

def State.addRefs (s : State) (ps : List PageId) : State := ps.foldl (fun s p => s.addRef p.key) s
def State.dropRefs (s : State) (ps : List PageId) : State := ps.foldl (fun s p => s.dropRef p.key) s

def State.doFork (s : State) (k : Cmd) : State :=
  let src := s.seq (k.u 6 2)
  let q := forkSeq k src
  s.okOr k ((s.seq k.kSlot).st = .free && s.isLive k (k.u 6 2) && decide (k.u 8 4 ≤ src.v) && decide (q.rows.length ≤ q.maxrows) &&
    s.inTableWindow k.ref.ctx.toNat q.table q.tableBytes) ((s.addRefs q.pageIds).storeSeq k.kSlot q)

def execFork (r : CmdRef) (s : State) : Host.Outcome State Fault Refusal :=
  .next (s.hostCmd r 0x11 (fun k => boundsUnless (forkOk k)) State.allEnded (fun k => s.seqOp k [] (s.doFork k)))

/-! ### TRUNCATE and DROP (R213) -/

/-- A write-back is in progress on a slot: of WRITEBACK or of EVICT. -/
def State.slotTransfer (s : State) (n : Nat) : Bool :=
  match (s.seq n).busy with
  | some r => (match s.cmd? r with | some j => j.op = 0x14 || j.op = 0x15 | none => false)
  | none => false

/-- The RUN that holds a slot: a started one goes on and ends with ST_ABORTED in its time, one that has not started ends at once. -/
def State.hitRun (s : State) (n : Nat) : State :=
  match (s.seq n).busy with
  | none => s
  | some r =>
    match s.cmd? r with
    | none => s
    | some j =>
      if !j.isRun then s
      else if j.stage = .started then s.modCmd r (fun (j : Cmd) => { j with cut := true })
      else s.endBefore r stAborted

/-- DROP and TRUNCATE of a busy sequence do not wait (R205), but for a write-back (R213). -/
def State.cutOp (s : State) (k : Cmd) (go : State) : State :=
  if !s.kvEnabled then s.endCmd k.ref stBounds
  else if s.slotTransfer k.kSlot then s.markWaiting k.ref
  else go

def State.truncated (s : State) (n to_ : Nat) : State :=
  let s1 := s.hitRun n
  let q := s1.seq n
  let gone := { q with rows := q.rows.filter (fun r => decide (to_ ≤ r.start)) }
  let s2 := s1.dropRefs gone.pageIds
  s2.storeSeq n { q with v := to_, rows := q.rows.filter (fun r => decide (r.start < to_)) }

def State.doTruncate (s : State) (k : Cmd) : State :=
  let n := k.kSlot
  s.okOr k (s.isLive k n && decide (k.u 8 4 ≤ (s.seq n).v)) (s.truncated n (k.u 8 4))

def execTruncate (r : CmdRef) (s : State) : Host.Outcome State Fault Refusal :=
  .next (s.hostCmd r 0x12 (fun k => boundsUnless (truncateOk k)) State.allEnded (fun k => s.cutOp k (s.doTruncate k)))

def State.dropped (s : State) (n : Nat) : State :=
  let s1 := s.hitRun n
  (s1.dropRefs (if (s1.seq n).st = .live then (s1.seq n).pageIds else [])).setSeq n .free

def State.doDrop (s : State) (k : Cmd) : State :=
  let n := k.kSlot
  s.okOr k (((s.seq n).st = .live || (s.seq n).st = .evicted) && s.owns k n) (s.dropped n)

def execDrop (r : CmdRef) (s : State) : Host.Outcome State Fault Refusal :=
  .next (s.hostCmd r 0x13 (fun k => boundsUnless (slotOnlyOk k)) State.allEnded (fun k => s.cutOp k (s.doDrop k)))

/-! ### The image (R214, R417) -/

/-- The bytes of a slot's key: delivered ones, or those of a generated key. -/
def KeySlot.bytes (k : KeySlot) : List Byte := if k.key = [] then (List.range 64).map (Config.keyByte k.ident) else k.key

/-- The tweak of an image line of a sequence slot. -/
def imageTweak (slot line : Nat) : Nat := line % 2 ^ 48 + slot * 2 ^ 48 + 2 ^ 63

/-- Image bytes from an offset, line by line. -/
def imageCrypt (f : List Byte → Nat → List Byte → List Byte) (key : List Byte) (slot off : Nat) (bs : List Byte) : List Byte :=
  ((List.range (bs.length / 64)).map (fun i => f key (imageTweak slot (off / 64 + i)) (bytesAt bs (64 * i) 64))).flatten

/-- Bytes of a page of class `z`. -/
def Pool.pageBytes (p : Pool) (z : Nat) : Nat := classUnits z * p.unitBytes

/-- The pages of a sequence with their class, image offset and place in the table. -/
def imagePages (p : Pool) : List Row → Nat → List (Nat × Nat × Page)
  | [], _ => []
  | r :: t, off =>
    (r.pages.zipIdx.map (fun e => (r.z, off + e.2 * p.pageBytes r.z, e.1))) ++
      imagePages p t (off + r.pages.length * p.pageBytes r.z)

def imageBytes (p : Pool) (rows : List Row) : Nat := (rows.map (fun r => r.pages.length * p.pageBytes r.z)).foldl (· + ·) 0

/-- The pages that a write-back copies go to the host; none where a line of one is poisoned. -/
def State.sendPages (s : State) (slot : Nat) (q : Seq) (host : Nat) (full : Bool) : List (Nat × Nat × Page) → Option State
  | [] => some s
  | (z, off, pg) :: t =>
    if !(full || pg.dirty) then s.sendPages slot q host full t
    else
      let p := s.pool q.pool.toNat
      let x := s.dramRead q.ctx.toNat (s.pageAddr q.pool.toNat pg.unit - dramBase) (p.pageBytes z)
      if x.2.1.any id then none
      else
        let key := (s.keySlot (ctxKeySlot q.ctx.toNat)).bytes
        (x.2.2.emit (.hostWrite (host + off) (imageCrypt xtsEncrypt key slot off x.1))).sendPages slot q host full t

def cleanRows (full : Bool) (rows : List Row) : List Row :=
  rows.map (fun (r : Row) => { r with pages := r.pages.map (fun (p : Page) => if full || p.dirty then { p with dirty := false } else p) })

/-- A write-back of a slot: the state after it with the image's bytes, or none where it meets poison. -/
def State.writeBack (s : State) (n host : Nat) (full : Bool) : Option (Nat × State) :=
  let q := s.seq n
  let p := s.pool q.pool.toNat
  match s.sendPages n q host full (imagePages p q.rows 0) with
  | none => none
  | some s1 =>
    let q1 := { q with rows := cleanRows full q.rows }
    let off := imageBytes p q.rows
    let s2 := s1.storeSeq n q1
    let table := imageCrypt xtsEncrypt (s.keySlot (ctxKeySlot q.ctx.toNat)).bytes n off (s2.tableOf q1)
    some (off + q.tableBytes, s2.emit (.hostWrite (host + off) table))

/-- What a write-back needs besides a LIVE slot: room in the host area. -/
def State.imageFits (s : State) (n size : Nat) : Bool :=
  let q := s.seq n
  decide (imageBytes (s.pool q.pool.toNat) q.rows + q.tableBytes ≤ size)

def State.endResult (s : State) (r : CmdRef) (result : Nat) : State :=
  ((s.startCmd r).modCmd r (fun (k : Cmd) => { k with result := BitVec.ofNat 64 result })).endCmd r stOk

def State.doWriteback (s : State) (k : Cmd) (full : Bool) (after : State → Nat → State) : State :=
  let n := k.kSlot
  let conds := boundsUnless (s.isLive k n && s.imageFits n (k.u 0x10 8)) ++ s.keyConds k.ref.ctx
  if conds ≠ [] then s.endWith k.ref conds
  else match s.writeBack n (k.u 8 8) full with
    | none => s.atOnce k.ref stPoisoned
    | some (bytes, s1) => (after s1 bytes).endResult k.ref bytes

def execWriteback (r : CmdRef) (s : State) : Host.Outcome State Fault Refusal :=
  .next (s.hostCmd r 0x14 (fun k => boundsUnless (writebackOk k)) State.allEnded (fun k =>
    s.seqOp k (s.keyConds k.ref.ctx) (s.doWriteback k (k.u 6 1 = 1) (fun t _ => t))))

/-- The slot of an evicted sequence keeps V, its shape and the host address. -/
def State.evicted (s : State) (n host bytes : Nat) : State :=
  let q := s.seq n
  let s1 := s.dropRefs q.pageIds
  s1.setSeq n { q with st := .evicted, host := host, img := bytes - q.tableBytes,
                       rows := q.rows.map (fun (r : Row) => { r with pages := [] }) }

def execEvict (r : CmdRef) (s : State) : Host.Outcome State Fault Refusal :=
  .next (s.hostCmd r 0x15 (fun k => boundsUnless (evictOk k)) State.allEnded (fun k =>
    s.seqOp k (s.keyConds k.ref.ctx) (s.doWriteback k false (fun t bytes => t.evicted k.kSlot (k.u 8 8) bytes))))

/-! ### RESTORE (R215) -/

/-- The rows that a table lists: start and class. -/
def tableRows (q : Seq) (table : List Byte) : List (Nat × Nat) :=
  (List.range (leAt table 8 2)).map (fun i => (leAt table (64 + i * q.rstride) 4, byteAt table (64 + i * q.rstride + 4)))

/-- Rows follow one another from position 0, of classes 4 to 10. -/
def shapeOk : List (Nat × Nat) → Nat → Bool
  | [], _ => true
  | (start, z) :: t, at_ => start = at_ && decide (4 ≤ z) && decide (z ≤ 10) && shapeOk t (at_ + 2 ^ z)

def shapeBytes (p : Pool) (streams : Nat) (rows : List (Nat × Nat)) : Nat :=
  (rows.map (fun r => streams * p.pageBytes r.2)).foldl (· + ·) 0

/-- The shape and page bytes that a restore takes from an image. A table that is not that of the sequence's image, as when
the context key has changed, gives the shape that the slot kept, and bytes that nothing fixes (R417). -/
def State.imageShape (s : State) (q : Seq) (plain : List Byte) : List (Nat × Nat) × List Byte × State :=
  let rows := tableRows q (plain.drop q.img)
  let p := s.pool q.pool.toNat
  if shapeOk rows 0 && shapeBytes p q.streams rows = q.img && leAt plain q.img 4 = q.v then (rows, plain, s)
  else
    let d := s.drawBytes q.img
    (q.rows.map (fun r => (r.start, r.z)), d.1, d.2)

/-- The bytes of the class-4 page that holds positions 16 j to 16 j + 15 of a page of class `z`. -/
def splitPage (p : Pool) (z j : Nat) (page : List Byte) : List Byte :=
  let c := 2 ^ z
  bytesAt page (16 * j * p.ek) (16 * p.ek) ++ bytesAt page (c * p.ek + 16 * j * p.ss) (16 * p.ss) ++
  bytesAt page (c * (p.ek + p.ss) + 16 * j * p.ev) (16 * p.ev) ++ bytesAt page (c * (p.ek + p.ss + p.ev) + 16 * j * p.ss) (16 * p.ss)

/-- Pages of a row are written from their bytes. -/
def State.fillPages (s : State) (q : Seq) (units : List Nat) (bytesOf : Nat → List Byte) : State :=
  units.zipIdx.foldl (fun s e =>
    let bs := bytesOf e.2
    (s.dramWrite q.ctx.toNat (s.pageAddr q.pool.toNat e.1 - dramBase) bs []).bump 0x80010 0 32 (bs.length / 64)) s

def mkRow (start z : Nat) (units : List Nat) : Row :=
  { start := start, z := z, pages := units.map (fun u => ({ unit := u, dirty := false } : Page)) }

/-- `n` class-4 rows in place of one row, from index `j`. -/
def State.splitRow (s : State) (q : Seq) (start z : Nat) (pageOf : Nat → List Byte) : Nat → Nat → Option (List Row × State)
  | 0, _ => some ([], s)
  | n + 1, j =>
    match s.allocRow q.pool.toNat 4 q.ctx.toNat q.streams with
    | none => none
    | some (us, s1) =>
      let s2 := s1.fillPages q us (fun i => splitPage (s.pool q.pool.toNat) z j (pageOf i))
      match s2.splitRow q start z pageOf n (j + 1) with
      | none => none
      | some (rs, s3) => some (mkRow (start + 16 * j) 4 us :: rs, s3)

/-- The rows of an image, allocated and filled in order; with whether any was split. -/
def State.restoreRows (s : State) (q : Seq) (img : List Byte) : List (Nat × Nat) → Nat → Option (List Row × Bool × State)
  | [], _ => some ([], false, s)
  | (start, z) :: t, off =>
    let p := s.pool q.pool.toNat
    let pageOf := fun (i : Nat) => bytesAt img (off + i * p.pageBytes z) (p.pageBytes z)
    let one := match s.allocRow q.pool.toNat z q.ctx.toNat q.streams with
      | some (us, s1) => some ([mkRow start z us], false, s1.fillPages q us pageOf)
      | none => (s.splitRow q start z pageOf (2 ^ (z - 4)) 0).map (fun (r : List Row × State) => (r.1, true, r.2))
    match one with
    | none => none
    | some (rs, sp, s1) =>
      match s1.restoreRows q img t (off + q.streams * p.pageBytes z) with
      | none => none
      | some (rs2, sp2, s2) => some (rs ++ rs2, sp || sp2, s2)

/-- The restore of a slot from its image. Rows that come to more than MAXROWS, of which R215 says nothing, end it as a failed
allocation does: with ST_BOUNDS, the slot EVICTED (DESIGN CHOICE, log entry 94). -/
def State.doRestore (s : State) (k : Cmd) (data : List Byte) : State :=
  let n := k.kSlot
  let q := s.seq n
  if s.keyConds q.ctx ≠ [] then s.endWith k.ref (s.keyConds q.ctx)
  else
    let plain := imageCrypt xtsDecrypt (s.keySlot (ctxKeySlot q.ctx.toNat)).bytes n 0 data
    let sh := s.imageShape q plain
    match sh.2.2.restoreRows q sh.2.1 sh.1 0 with
    | none => s.endCmd k.ref stBounds
    | some (rows, split, s1) =>
      if q.maxrows < rows.length then s.endCmd k.ref stBounds
      else
        let rows1 := if split then rows.map (fun (r : Row) => { r with pages := r.pages.map (fun (p : Page) => { p with dirty := true }) }) else rows
        (s1.storeSeq n { q with st := .live, rows := rows1, host := 0, img := 0 }).endCmd k.ref stOk

/-- A RESTORE whose slot has been dropped under it, which R205 permits: nothing is left to restore, and R215 gives no status, so it
ends with a failure of a free code (log entry 93). -/
def State.restoreLost (s : State) (k : Cmd) : State :=
  let d := s.drawFail
  d.2.endCmd k.ref d.1

/-- RESTORE: the image is read from the host, then its rows are allocated and filled. -/
def State.restoreStep (s : State) (k : Cmd) : State :=
  let n := k.kSlot
  let q := s.seq n
  if k.stage = .started then
    (if q.busy ≠ some k.ref then s.restoreLost k
    else if k.hostConds ≠ [] then s.endWith k.ref (k.hostConds ++ s.keyConds q.ctx)
    else s.withHost k q.host (q.img + q.tableBytes) (s.doRestore k))
  else
    let conds := boundsUnless (q.st = .evicted && s.owns k n) ++ s.keyConds k.ref.ctx
    s.seqOp k (s.keyConds k.ref.ctx)
      (if conds ≠ [] then s.endWith k.ref conds
      else (s.take k).withHost k q.host (q.img + q.tableBytes) ((s.take k).doRestore k))

def execRestore (r : CmdRef) (s : State) : Host.Outcome State Fault Refusal :=
  .next (s.hostCmd r 0x16 (fun k => boundsUnless (slotOnlyOk k)) State.allEnded s.restoreStep)

/-! ### The allocator and its pools (R216, R217) -/

/-- A write of 0 is ignored while any slot is not FREE. -/
def execKvpEnable (val : Word) (s : State) : Host.Outcome State Fault Refusal :=
  .next (s.byHost (
    if bitOf val 0 || s.seqs.all (fun e => e.2.st = .free) then s.setReg 0x80000 (val &&& 1) else s))

def State.cfgErr (s : State) : State := s.setReg 0x80004 (s.reg 0x80004 ||| 0x80000000#32)

/-- A pool and its frame table lie in DRAM and apart from every other region (R217). -/
def State.poolFits (s : State) (n : Nat) (p : Pool) : Bool :=
  let own := (p.base, p.bytes)
  let others := s.poolRegions n ++ s.windowRegions noSkip noSkip ++ s.asmArea.toList ++ s.mirrorArea.toList ++ s.bsArea.toList
  inDram own && inDram p.frame && !meets own p.frame && !overlaps own others && !overlaps p.frame others

/-- A write of GEOM with EN = 1. -/
def execPoolEnable (pool : BitVec 2) (val : Word) (s : State) : Host.Outcome State Fault Refusal :=
  let n := pool.toNat
  let old := s.reg (poolReg n 2)
  let new := val &&& 0x8000007F#32
  let p := poolOf (s.reg (poolReg n 0)) (s.reg (poolReg n 1)) new (s.reg (poolReg n 3))
  .next (s.byHost (
    if !bitOf val 31 then s
    else if bitOf old 31 then (if old = new then s else s.cfgErr)
    else if p.units % 64 ≠ 0 || p.units = 0 || getBits val 0 2 = 3 || getBits val 2 2 = 3 || !s.poolFits n p then s.cfgErr
    else s.setReg (poolReg n 2) new))

/-- A write of GEOM with EN = 0. -/
def execPoolDisable (pool : BitVec 2) (val : Word) (s : State) : Host.Outcome State Fault Refusal :=
  let n := pool.toNat
  let old := s.reg (poolReg n 2)
  let new := val &&& 0x7F#32
  .next (s.byHost (
    if bitOf val 31 then s
    else if bitOf old 31 then
      (if getBits old 0 7 ≠ getBits val 0 7 || s.allocated n ≠ [] then s.cfgErr else s.setReg (poolReg n 2) new)
    else s.setReg (poolReg n 2) new))

end Sys2Proof.Machine
end

