-- ==== Sys2Proof/Machine/ModelCmds.lean ====
section
/-! DEFINITION. The model operations (R256, R258, R262, R275 to R281, R294, R369, R421): MCREATE to PATCH, the flip, and the end of a
mirror load. -/

namespace Sys2Proof.Machine

/-! ### Fields and conditions before the start -/

def Cmd.mModel (k : Cmd) : Nat := k.u 4 1
def Cmd.mHandle (k : Cmd) : Nat := k.u 4 2
def Cmd.modelField (k : Cmd) : Bool := k.flagsOk && decide (k.mModel < 32)

/-- The context may issue model and bitstream commands (R421), and the format is that of R365. -/
def State.adminConds (s : State) (k : Cmd) (ok : Bool) : List Nat :=
  (if (s.ctx k.ref.ctx.toNat).admin then [] else [stClass]) ++ boundsUnless ok

def mcreateOk (k : Cmd) : Bool := k.modelField && (decide (k.u 5 1 < 32) || k.u 5 1 = 0xFF) && k.zeroAt 6 2 && k.zeroFrom 0x18
def mextentOk (k : Cmd) : Bool := k.modelField && k.zeroAt 5 3 && decide (1 ≤ k.u 8 4) && k.zeroFrom 0xC
def mwriteOk (k : Cmd) : Bool :=
  k.flagsOk && k.zeroAt 6 2 && decide (1 ≤ k.u 0xC 4) && decide (k.u 0xC 4 ≤ 262144) && k.zeroFrom 0x18
def handleOk (k : Cmd) : Bool := k.flagsOk && k.zeroFrom 6
def mtableOk (k : Cmd) : Bool :=
  k.modelField && k.zeroAt 5 1 && decide (1 ≤ k.u 6 2) && decide (k.u 6 2 ≤ 256) && k.zeroFrom 0x10
def modelOnlyOk (k : Cmd) : Bool := k.modelField && k.zeroFrom 5
def patchOk (k : Cmd) : Bool := k.modelField && decide (1 ≤ k.u 6 2) && decide (k.u 6 2 ≤ 256) && k.zeroFrom 0x10

/-- A model or bitstream command (R421): its conditions, ST_CLASS without ADMIN among them, its order, and its action. -/
def State.modelCmd (s : State) (r : CmdRef) (op : Nat) (ok : Cmd → Bool) (act : Cmd → State) : State :=
  s.hostCmd r op (fun k => s.adminConds k (ok k)) State.allEnded act

/-! ### MCREATE -/

def Cmd.baseOf (k : Cmd) : Option Nat := if k.u 5 1 = 0xFF then none else some (k.u 5 1)

def createdModel (k : Cmd) : Model :=
  { Model.free with st := .installing, variant := k.baseOf.isSome, base := BitVec.ofNat 5 (k.baseOf.getD 0), hbase := k.u 8 8,
                    hsize := k.u 0x10 8 }

/-- Every pass that runs ahead for a model is discarded (R269). -/
def State.dropAhead (s : State) (m : Nat) : State :=
  (s.passes.filter (fun p => p.cmd = none && p.model.toNat = m)).foldl State.dropPass s

/-- What was kept for an earlier model of the number goes: pass checks and pieces staged ahead. -/
def State.forgetModel (s : State) (m : Nat) : State :=
  let s1 := s.dropAhead m
  { s1 with bs := s1.bs.map (fun (e : Nat × Bs) => (e.1, { e.2 with checked := e.2.checked.filter (fun c => c.1.toNat ≠ m) })) }

/-- A base that a variant may name. -/
def State.baseReady (s : State) (m : Nat) : Bool := ((s.model m).st = .stored || (s.model m).st = .ready) && !(s.model m).variant

def State.doMcreate (s : State) (k : Cmd) : State :=
  s.okOr k ((s.model k.mModel).st = .free && (match k.baseOf with | some b => s.baseReady b | none => true))
    ((s.forgetModel k.mModel).setModel k.mModel (createdModel k))

def execMcreate (r : CmdRef) (s : State) : Host.Outcome State Fault Refusal :=
  .next (s.modelCmd r 0x20 mcreateOk s.doMcreate)

/-! ### MEXTENT -/

/-- Another extent is open: its last unit is not programmed. -/
def State.anyOpen (s : State) : Bool := s.store.exts.any (fun e => e.2.st = .open_ || e.2.st = .sealing)

/-- The conditions of ALLOC (R228, R232). -/
def State.allocConds (s : State) (m n : Nat) : List Nat :=
  (if (s.model m).st = .free || s.anyOpen || !s.asmOn then [stBounds] else []) ++
  (if s.store.capRows * 128 < s.live + n || (s.store.shrink && decide (0 < s.store.need)) then [stCapacity] else [])

/-- ALLOC: handle and stripes; none where no EMPTY row is left. -/
def State.alloc (s : State) (m n : Nat) : Option (Nat × State) :=
  match s.freshHandle with
  | none => none
  | some h =>
    (h.2.takeStripes n).map (fun (t : List (Nat × Nat) × State) =>
      (h.1, t.2.setExtent h.1 { Extent.none with st := .open_, model := BitVec.ofNat 5 m, stripes := t.1 }))

def State.doMextent (s : State) (k : Cmd) : State :=
  let conds := s.allocConds k.mModel (k.u 8 4)
  if conds ≠ [] then s.endWith k.ref conds
  else match s.alloc k.mModel (k.u 8 4) with
    | none => s.endCmd k.ref stCapacity
    | some a => (a.2.modCmd k.ref (fun (j : Cmd) => { j with result := BitVec.ofNat 64 a.1 })).atOnce k.ref stOk

def execMextent (r : CmdRef) (s : State) : Host.Outcome State Fault Refusal :=
  .next (s.modelCmd r 0x21 mextentOk s.doMextent)

/-! ### MWRITE -/

/-- A PROGRAM waits: its stripe lies too far above the lowest unfinished one, or its row has no blocks yet (R230, R232). -/
def State.programWaits (s : State) (h lowest o : Nat) : Bool :=
  decide (lowest + s.asmStripes < o / stripeCodewords) || (s.cwPlace h o).isNone

/-- PROGRAM accepts one codeword. R222 gives neither the first value of SEQ nor the moment at which it counts: the model counts from
`Store.fresh`'s value, at the acceptance (DESIGN CHOICE, log entry 109). -/
def State.accept (s : State) (h o : Nat) (data : List Byte) (pad : Bool) : State :=
  let s1 := s.setCodeword h o { data := data, pad := pad, programmed := false, bad := false, seq := s.store.nextSeq }
  { s1 with store := { s1.store with nextSeq := s1.store.nextSeq + 1 } }

/-- The codewords of an MWRITE from the `i`-th, until one fails, one waits, or all are accepted: how many, and how it ended. -/
def State.programRun (s : State) (h first lowest : Nat) (data : List Byte) : Nat → Nat → State × Nat × Option Nat
  | 0, i => (s, i, some stOk)
  | n + 1, i =>
    let o := first + i
    if (s.extent h).codewords ≤ o then (s, i, some stBounds)
    else if s.accepted h o then (s, i, some stWriteOnce)
    else if s.programWaits h lowest o then (s, i, none)
    else (s.accept h o (bytesAt data (4096 * i) 4096) false).programRun h first lowest data n (i + 1)

/-- An MWRITE whose data is here. -/
def State.mwriteGo (s : State) (k : Cmd) (data : List Byte) : State :=
  let h := k.mHandle
  let r := s.programRun h (k.u 8 4) (s.lowestOpen h) data (k.u 0xC 4 - k.done) k.done
  match r.2.2 with
  | some code => r.1.endCmd k.ref code
  | none => r.1.modCmd k.ref (fun (j : Cmd) => { j with done := r.2.1 })

def State.doMwrite (s : State) (k : Cmd) : State :=
  let e := s.extent k.mHandle
  if !e.inUse then s.endWith k.ref (stBounds :: k.hostConds)
  else if e.st = .sealed_ then s.endWith k.ref ((if e.codewords ≤ k.u 8 4 then stBounds else stWriteOnce) :: k.hostConds)
  else s.withHost k (k.u 0x10 8) (4096 * k.u 0xC 4) (s.mwriteGo k)

def execMwrite (r : CmdRef) (s : State) : Host.Outcome State Fault Refusal :=
  .next (s.modelCmd r 0x22 mwriteOk s.doMwrite)

/-! ### MSEAL -/

/-- SEAL: what is not accepted is filled with zero data and PAD. -/
def State.seal (s : State) (h : Nat) : State :=
  let e := s.extent h
  let s1 := ((List.range e.codewords).filter (fun o => !s.accepted h o)).foldl (fun (s : State) o => s.accept h o [] true) s
  (s1.setExtent h { e with st := .sealing }).sealTry h

/-- The command ends when its extent is SEALED; with a failure of a free code when the extent goes before that. -/
def State.msealEnd (s : State) (k : Cmd) : State :=
  match (s.extent k.mHandle).st with
  | .sealed_ => s.endCmd k.ref stOk
  | .sealing => s
  | _ => let d := s.drawFail; d.2.endCmd k.ref d.1

def State.doMseal (s : State) (k : Cmd) : State :=
  if k.stage = .started then s.msealEnd k
  else if (s.extent k.mHandle).st ≠ .open_ && (s.extent k.mHandle).st ≠ .sealing then s.endCmd k.ref stBounds
  else ((s.startCmd k.ref).seal k.mHandle).msealEnd k

def execMseal (r : CmdRef) (s : State) : Host.Outcome State Fault Refusal :=
  .next (s.modelCmd r 0x23 handleOk s.doMseal)

/-! ### Variant streams as stored (R293, R294, R411) -/

/-- The key bytes of a model's weight slot. -/
def State.weightKey (s : State) (m : Nat) : Option (List Byte) :=
  let k := s.keySlot (weightKeySlot m)
  if k.kind = .empty then none else some k.bytes

/-- The tweak of a codeword of an extent. -/
def flashTweak (h o : Nat) : Nat := o % 2 ^ 32 + h * 2 ^ 32

/-- The plaintext of consecutive codewords under a key; none where one stays uncorrectable. -/
def State.plainCws (s : State) (key : List Byte) (h o : Nat) : Nat → Option (List Byte)
  | 0 => some []
  | n + 1 =>
    let c := s.codeword h o
    if c.bad then none
    else (s.plainCws key h (o + 1) n).map (fun t => xtsDecrypt key (flashTweak h o) (padTo 4096 c.data) ++ t)

/-- The entries of a variant stream's index. -/
def indexOf (g : Segm) (bytes : List Byte) : List Word := (List.range g.n).map (fun i => w32 (leAt bytes (4 * i) 4))
def frameSpan (e : Word) : Nat × Nat := (64 * idxOff e, 64 * idxLen e)
/-- No two frames overlap. -/
def framesApart : List (Nat × Nat) → Bool
  | [] => true
  | f :: t => !overlaps f t && framesApart t
def framesEnd (fs : List (Nat × Nat)) : Nat := (fs.map (fun f => f.1 + f.2)).foldl max 0

/-- The check of one variant stream: its length in codewords, or the code that MTABLE ends with. -/
def State.streamCheck (s : State) (m : Nat) (g : Segm) : Except Nat Nat :=
  match s.weightKey m with
  | none => .error stKey
  | some key =>
    match s.plainCws key g.handle g.start g.indexCws with
    | none => .error stUncorrectable
    | some bytes =>
      let es := indexOf g bytes
      let fs := (es.filter (fun e => idxMode e ≠ 2)).map frameSpan
      let room := ((s.extent g.handle).codewords - g.start - g.indexCws) * 4096
      if es.all idxOk && framesApart fs && decide (framesEnd fs ≤ room) then .ok (g.indexCws + (framesEnd fs + 4095) / 4096)
      else .error stBounds

/-- The checks of a layer's variant streams. -/
def State.layerStreams (s : State) (m : Nat) (d : List Byte) : List (Except Nat Nat) :=
  ((if descShare d then [] else segsOf d).filter (fun g => g.kind = kDiff)).map (s.streamCheck m)

def errorsOf (rs : List (Except Nat Nat)) : List Nat := rs.filterMap (fun r => match r with | .error c => some c | .ok _ => none)
def totalOf (rs : List (Except Nat Nat)) : Nat := (rs.map (fun r => match r with | .error _ => 0 | .ok n => n)).foldl (· + ·) 0

/-- Every layer's variant streams: the codewords of each layer's, or every code that a check ends with (R18). -/
def State.allStreams (s : State) (m : Nat) (ls : List (List Byte)) : Except (List Nat) (List Nat) :=
  let rs := ls.map (s.layerStreams m)
  let bad := (rs.map errorsOf).flatten
  if bad = [] then .ok (rs.map totalOf) else .error bad

/-- Some layer has a variant stream, whose index the check reads from flash. -/
def hasStreams (ls : List (List Byte)) : Bool := ls.any (fun d => !descShare d && (segsOf d).any (fun g => g.kind = kDiff))

/-- ST_KEY where some layer has a variant stream and the model no key (R294). -/
def State.streamKey (s : State) (m : Nat) (ls : List (List Byte)) : List Nat :=
  condList [((s.weightKey m).isNone && hasStreams ls, stKey)]

/-- The layers that host data holds. -/
def layersOf (data : List Byte) (n : Nat) : List (List Byte) := (List.range n).map (fun i => bytesAt data (64 * i) 64)
def withGen (gen : Word) (d : List Byte) : List Byte := d.take 4 ++ toLE 4 gen.toNat ++ d.drop 8
def State.layersOk (s : State) (m first : Nat) (ls : List (List Byte)) : Bool :=
  ((List.range ls.length).map (fun i => s.descOk m (first + i) (ls.getD i []))).all id

/-! ### MTABLE -/

/-- MTABLE whose descriptors are here: the model is STORED with generation 1. While the flash interface carries nothing (R235) a variant
stream cannot be read, and the check waits. -/
def State.mtableGo (s : State) (k : Cmd) (data : List Byte) : State :=
  let m := k.mModel
  let ls := layersOf data (k.u 6 2)
  if (s.model m).st ≠ .installing || !s.layersOk m 0 ls then s.endWith k.ref (stBounds :: s.streamKey m ls)
  else if hasStreams ls && !s.flashMoves then s
  else match s.allStreams m ls with
    | .error cs => s.endWith k.ref cs
    | .ok ds =>
      (s.setModel m { s.model m with st := .stored, layers := ls.map (withGen 1), gen := 1, diffs := ds }).endCmd k.ref stOk

def State.doMtable (s : State) (k : Cmd) : State :=
  if (s.model k.mModel).st ≠ .installing then s.endWith k.ref (stBounds :: k.hostConds)
  else s.withHost k (k.u 8 8) (64 * k.u 6 2) (s.mtableGo k)

def execMtable (r : CmdRef) (s : State) : Host.Outcome State Fault Refusal :=
  .next (s.modelCmd r 0x24 mtableOk s.doMtable)

/-! ### MLOAD and the end of a load (R262) -/

def State.isLoaded (s : State) (m : Nat) : Bool := (s.model m).st = .loading || (s.model m).st = .ready

/-- A load starts: a model without DRAM granules is READY, another takes a mirror run; none where no run fits. -/
def State.loadStart (s : State) (m : Nat) (r : Option CmdRef) : Option State :=
  let md := s.model m
  if dramTotal md.layers = 0 then some (s.setModel m { md with st := .ready, mir := md.layers.map (fun _ => 0), loader := none })
  else (s.mirAlloc (dramTotal md.layers)).map (fun off =>
    s.setModel m { md with st := .loading, mir := placeLayers off md.layers, loader := r })

/-- A PATCH of a model stands between its start and its flip (R279, R280). -/
def State.patching (s : State) (m : Nat) : Bool :=
  (s.model m).patch.isSome || s.cmds.any (fun j => j.op = 0x29 && j.mModel = m && j.stage = .started)

/-- MLOAD of a model whose PATCH has still to flip waits for the flip, whose new segments a load would miss. -/
def State.doMload (s : State) (k : Cmd) : State :=
  let m := k.mModel
  let md := s.model m
  if k.stage = .started then s
  else if md.st ≠ .stored || (md.variant && !s.isLoaded md.base.toNat) then s.endCmd k.ref stBounds
  else if s.patching m then s.markWaiting k.ref
  else match (s.startCmd k.ref).loadStart m (some k.ref) with
    | none => s.endCmd k.ref stBounds
    | some t => if (t.model m).st = .ready then t.endCmd k.ref stOk else t

def execMload (r : CmdRef) (s : State) : Host.Outcome State Fault Refusal :=
  .next (s.modelCmd r 0x25 modelOnlyOk s.doMload)

/-- Start-up reloads that come before a model's own: more recently used ones (R262). -/
def State.reloadsAhead (s : State) (m : Nat) : Bool :=
  s.models.any (fun e => e.1 ≠ m && e.2.st = .loading && e.2.loader.isNone && decide ((s.model m).use < e.2.use))

/-- The command that loads ends. -/
def State.loadEnd (s : State) (r : Option CmdRef) (status : Nat) : State :=
  match r with
  | some r => s.endCmd r status
  | none => s

/-- A mirror load ends, over an interface that carries transfers (R235): READY, or STORED when a flash codeword stays uncorrectable. -/
def execMirrorLoadDone (m : BitVec 5) (ok : Bool) (s : State) : Host.Outcome State Fault Refusal :=
  let n := m.toNat
  let md := s.model n
  if md.st ≠ .loading || !s.flashMoves || (md.loader.isNone && (!s.store.ready || s.reloadsAhead n)) then .next s
  else match s.mirFill (loadsOf md.layers md.mir) with
    | some t => .next (if ok then (t.setModel n { t.model n with st := .ready, loader := none }).loadEnd md.loader stOk else s)
    | none =>
      .next (if ok then s
        else ((s.mirUndefine md.layers md.mir).setModel n { md with st := .stored, mir := [], loader := none }).loadEnd md.loader stUncorrectable)

/-! ### MUNLOAD, MFREE, MXFREE -/

def State.variantsOf (s : State) (m : Nat) : List Nat := nkeys s.models (fun x => x.st ≠ .free && x.variant && x.base.toNat = m)

/-- The model is STORED without a mirror. -/
def State.unload (s : State) (m : Nat) : State :=
  let s1 := s.stopLoad m
  s1.setModel m { s1.model m with st := .stored, mir := [] }

def State.doMunload (s : State) (k : Cmd) : State :=
  let m := k.mModel
  if !s.isLoaded m || (s.variantsOf m).any s.isLoaded then s.endCmd k.ref stBounds
  else
    let s1 := if k.stage = .started then s else s.startCmd k.ref
    if s.patching m || s.passesOf m ≠ [] then s1
    else (s1.unload m).endCmd k.ref stOk

def execMunload (r : CmdRef) (s : State) : Host.Outcome State Fault Refusal :=
  .next (s.modelCmd r 0x26 modelOnlyOk s.doMunload)

/-- MFREE of a model that is FREE already changes nothing; a PATCH before its flip is waited for. -/
def State.doMfree (s : State) (k : Cmd) : State :=
  let m := k.mModel
  let md := s.model m
  if s.isLoaded m || s.variantsOf m ≠ [] then s.endCmd k.ref stBounds
  else if s.patching m then s.markWaiting k.ref
  else if md.st = .free then s.atOnce k.ref stOk
  else (((s.freeModelExtents m).setModel m .free).unbindWeight m).atOnce k.ref stOk

def execMfree (r : CmdRef) (s : State) : Host.Outcome State Fault Refusal :=
  .next (s.modelCmd r 0x27 modelOnlyOk s.doMfree)

def State.doMxfree (s : State) (k : Cmd) : State :=
  let h := k.mHandle
  s.okOr k ((s.extent h).inUse && !(s.model (s.extent h).model.toNat).names.contains h) (s.freeExtent h)

def execMxfree (r : CmdRef) (s : State) : Host.Outcome State Fault Refusal :=
  .next (s.modelCmd r 0x28 handleOk s.doMxfree)

/-! ### PATCH (R278, R279) -/

def State.patchable (s : State) (k : Cmd) : Bool :=
  let md := s.model k.mModel
  (md.st = .stored || md.st = .ready) && s.variantsOf k.mModel = [] && decide (k.u 5 1 + k.u 6 2 ≤ md.layers.length)

/-- Step 2: the new segments' DRAM granules get a run and are loaded. R279 gives no status where no run fits or where a codeword of
the load stays uncorrectable: ST_BOUNDS and ST_UNCORRECTABLE, as MLOAD ends (DESIGN CHOICE, log entry 106). A load that fails leaves
its run undefined (R19). -/
def State.patchLoad (s : State) (m : Nat) (ls : List (List Byte)) : Except (Nat × State) (List Nat × State) :=
  if (s.model m).st ≠ .ready || dramTotal ls = 0 then .ok (ls.map (fun _ => 0), s)
  else match s.mirAlloc (dramTotal ls) with
    | none => .error (stBounds, s)
    | some off =>
      let mir := placeLayers off ls
      match s.mirFill (loadsOf ls mir) with
      | none => .error (stUncorrectable, s.mirUndefine ls mir)
      | some t => .ok (mir, t)

/-- A PATCH whose descriptors are here: checked, and its mirror loaded. What it reads from flash waits for the interface (R235). -/
def State.patchGo (s : State) (k : Cmd) (data : List Byte) : State :=
  let m := k.mModel
  let ls := layersOf data (k.u 6 2)
  if !s.patchable k || !s.layersOk m (k.u 5 1) ls then s.endWith k.ref (stBounds :: s.streamKey m ls)
  else if !s.flashMoves && (hasStreams ls || ((s.model m).st = .ready && decide (0 < dramTotal ls))) then s
  else match s.allStreams m ls with
    | .error cs => s.endWith k.ref cs
    | .ok ds =>
      match s.patchLoad m ls with
      | .error (c, t) => t.endCmd k.ref c
      | .ok (mir, t) =>
        t.setModel m { t.model m with patch := some { ref := k.ref, first := k.u 5 1, layers := ls, mir := mir, diffs := ds } }

/-- Another PATCH of the model stands before its flip. -/
def State.patchAhead (s : State) (k : Cmd) : Bool :=
  (s.model k.mModel).patch.any (fun p => p.ref ≠ k.ref) ||
  s.cmds.any (fun j => j.op = 0x29 && j.ref ≠ k.ref && j.mModel = k.mModel && j.stage = .started)

def State.doPatch (s : State) (k : Cmd) : State :=
  if (s.model k.mModel).patch.any (fun p => p.ref = k.ref) then s
  else if k.stage ≠ .started && s.patchAhead k then s.markWaiting k.ref
  else
    let s1 := if k.stage = .started then s else s.setReg 0x70070 (w32 k.mModel)
    if !s1.patchable k then s1.endWith k.ref (stBounds :: k.hostConds) else s1.withHost k (k.u 8 8) (64 * k.u 6 2) (s1.patchGo k)

def execPatch (r : CmdRef) (s : State) : Host.Outcome State Fault Refusal :=
  .next (s.modelCmd r 0x29 patchOk s.doPatch)

/-- A list with the entries from an index replaced. -/
def splice {α : Type} (xs : List α) (i : Nat) (ys : List α) : List α := xs.take i ++ ys ++ xs.drop (i + ys.length)

/-- The model after the flip. -/
def Model.flipped (md : Model) (p : Patch) : Model :=
  let gen := md.gen + 1
  { md with layers := splice md.layers p.first (p.layers.map (withGen gen)), gen := gen,
            mir := if md.mir = [] then [] else splice md.mir p.first p.mir, diffs := splice md.diffs p.first p.diffs,
            old := md.old ++ [{ gen := md.gen, layers := md.layers, mir := md.mir }], patch := none }

/-- The flip (R279 step 3): the old version is deferred while passes of it run, and goes at once when none does. -/
def execPatchFlip (m : BitVec 5) (s : State) : Host.Outcome State Fault Refusal :=
  let n := m.toNat
  match (s.model n).patch with
  | none => .next s
  | some p =>
    if !s.layersOk n p.first p.layers then .next (s.dropPatch n stBounds)
    else
      let s1 := s.dropAhead n
      .next (((s1.setModel n ((s1.model n).flipped p)).dropOld n).endCmd p.ref stOk)

end Sys2Proof.Machine
end

