-- ==== Sys2Proof/Machine/Bitstreams.lean ====
section
/-! DEFINITION. Bitstream slots (R331, R345 to R354, R420): BSLOAD, the persistent copy, BSACT and the switch, BSFREE, and the
write of HIF_BS_AREA. -/

namespace Sys2Proof.Machine

/-! ### Verification keys (R346, R401) -/

/-- The public key of a slot; slot 0's comes from fuses. -/
def State.verifyKey (s : State) (slot : Nat) : Option (List Byte) :=
  let k := s.keySlot slot
  if k.kind ≠ .verify then none
  else some (if slot = 0 then s.fuses.verifyKey else k.key)

/-- A signature over some bytes verifies under a slot's key. -/
def State.signedBy (s : State) (slot : Nat) (msg sig : List Byte) : Bool :=
  match s.verifyKey slot with
  | some pub => ecdsaOk pub (sha384 msg) sig
  | none => false

/-- The first failure of Table 9 for a bitstream. -/
def State.bsFails (s : State) (b : List Byte) (len : Nat) : Option (Nat × Nat) :=
  bsCheck b len s.coreCount s.ridge (s.verifyKey (bsKeyId b)).isSome (s.signedBy (bsKeyId b) (bsSigned b) (bsSigBytes b))

/-! ### BSLOAD (R347) -/

def Cmd.bLen (k : Cmd) : Nat := k.u 0x10 4
def bsloadOk (k : Cmd) : Bool :=
  k.flagsOk && decide (k.rSlot ≤ 7) && decide (k.u 5 1 < 32) && k.zeroAt 6 2 && k.zeroFrom 0x14

def State.bsBlocked (s : State) (k : Cmd) : Bool :=
  let m := s.model (k.u 5 1)
  (s.bsSlot k.rSlot).st ≠ .empty || s.bsArea.isNone || decide (4194304 < k.bLen) ||
  !(m.st = .stored || m.st = .loading || m.st = .ready) || m.variant

/-- A load that fails leaves the slot EMPTY. -/
def State.bsFailed (s : State) (k : Cmd) (status : Nat) : State := (s.setBs k.rSlot .empty).endCmd k.ref status

/-- HIF_BS_ERR for the first failing field. -/
def State.bsErr (s : State) (slot sec off : Nat) : State :=
  s.setRecord 0x10F14 (w32 (slot * 2 ^ 28 + sec * 2 ^ 23 + off % 2 ^ 22))

/-- A bitstream goes into its slot's 4 MiB of the area, which lies under the device memory key (R347, R353, Table 4 of R313). The
slot keeps its bytes as well: no access but the device's reaches the area (log entry 99). -/
def State.copyBs (s : State) (slot : Nat) (image : List Byte) : State :=
  match s.bsArea, s.keyTag devKeySlot with
  | some a, some tag => (s.dramUse (a.1 + slot * 4194304) image.length).dramPut (a.1 + slot * 4194304) image [] tag
  | _, _ => s

/-- The bitstream is here: copied, checked, and RESIDENT. -/
def State.bsloadGo (s0 : State) (k : Cmd) (image : List Byte) : State :=
  let s := s0.copyBs k.rSlot image
  match s.bsFails image k.bLen with
  | some f => (s.bsErr k.rSlot f.1 f.2).bsFailed k stBitstream
  | none =>
    if bsLayers image ≠ (s.model (k.u 5 1)).layers.length then s.bsFailed k stBounds
    else
      (s.setBs k.rSlot { Bs.empty with st := .resident, persist := true, model := BitVec.ofNat 5 (k.u 5 1), image := image }).endCmd
        k.ref stOk

def State.doBsload (s : State) (k : Cmd) : State :=
  if k.stage ≠ .started then
    (if s.bsBlocked k then s.endCmd k.ref stBounds
    else ((s.startCmd k.ref).setBs k.rSlot { Bs.empty with st := .loading, model := BitVec.ofNat 5 (k.u 5 1) }).emit
      (.hostRead (k.u 8 8) k.bLen))
  else match k.host with
    | none => s
    | some (.ok d) => s.bsloadGo k (padTo k.bLen d)
    | some .error => s.bsFailed k stUncorrectable
    | some .poisoned => s.bsFailed k stPoisoned

def execBsload (r : CmdRef) (s : State) : Host.Outcome State Fault Refusal :=
  .next (s.modelCmd r 0x30 bsloadOk s.doBsload)

/-- The write to the system partition ends. -/
def execBsPersistDone (slot : BitVec 3) (s : State) : Host.Outcome State Fault Refusal :=
  let b := s.bsSlot slot.toNat
  .next (if b.persist && (b.st = .resident || b.st = .active) then s.setBs slot.toNat { b with persist := false, copy := true } else s)

/-! ### Release and activation (R137, R171, R338, R340, R342, R345, R348) -/

/-- A core without an active bitstream. -/
def Core.unprogram (k : Core) : Core :=
  { k with imem := [], imemLen := 0, slot := none, packing := 0, bind := 0, micro := [], mtable := [], tiles := [], acc := [],
           mat := .none }

/-- The partitions of a slot are released; RING partitions are zeroed (R420). -/
def State.releaseParts (s : State) (slot : Nat) : State :=
  (nkeys s.parts (fun p => p.slot = some (BitVec.ofNat 3 slot))).foldl (fun s n =>
    let p := s.part n
    let s1 := if p.kind.toNat = 2 then { s with shm := s.shm.clear (p.base * unit64K) (p.size * unit64K) } else s
    s1.setPart n .free) s

/-- A channel that no bitstream assigns any more. What other members have sent for it stays: it counts once the channel is assigned again
(R390). -/
def Chan.unassigned (c : Chan) : Chan := { Chan.reset with sys := c.sys, from_ := c.from_ }

/-- The channels of a slot are released. -/
def State.releaseChans (s : State) (slot : Nat) : State :=
  let mine := nkeys s.chans (fun c => c.slot = some (BitVec.ofNat 3 slot))
  mine.foldl (fun s key => s.setChan key (s.chan key).unassigned) s

/-- Every pass of a slot goes, with its pieces. -/
def State.releasePasses (s : State) (slot : Nat) : State :=
  (s.passes.filter (fun p => p.slot.toNat = slot)).foldl State.dropPass s

/-- A bitstream leaves its cores. -/
def State.deactivate (s : State) (slot : Nat) : State :=
  let b := s.bsSlot slot
  let s1 := (maskCores (bsCores b.image)).foldl (fun s n => s.modCore n Core.unprogram) s
  let s2 := ((s1.releaseParts slot).releaseChans slot).releasePasses slot
  s2.setBs slot { b with st := .resident, lastCtx := none, switched := none }

/-- What activation writes to a core of a gang. -/
def Core.program (k : Core) (slot : Nat) (b : List Byte) (g : Gang) : Core :=
  match bsImage b g.image with
  | none => k
  | some im =>
    let n := bsWords b im
    { k with imem := (List.range n).foldl (fun m j => nset 0 m j (bsWord b im j)) [], imemLen := n, slot := some (BitVec.ofNat 3 slot),
             packing := BitVec.ofNat 2 g.packing, bind := g.bind, micro := bsMicros b,
             mtable := (indexed (bsTable b)).foldl (fun m e => nset 0 m e.1 e.2) [], tiles := [], acc := [], mat := .none }

/-- Each partition takes the lowest-numbered register that no active bitstream uses, in record order. -/
def State.assignPart (s : State) (slot : Nat) (p : PartRec) : State :=
  match (List.range 16).find? (fun n => (s.part n).slot = none) with
  | none => s
  | some n =>
    s.setPart n { slot := some (BitVec.ofNat 3 slot), kind := BitVec.ofNat 8 p.kind, ring := BitVec.ofNat 8 p.ring, base := p.base,
                  size := p.size, owner := none }

def State.assignChan (s : State) (slot : Nat) (c : ChanRec) : State :=
  let old := s.chan (chanKey c.node c.ch)
  s.setChan (chanKey c.node c.ch)
    { Chan.reset with sys := old.sys, from_ := old.from_, slot := some (BitVec.ofNat 3 slot), kind := BitVec.ofNat 8 c.kind, scope := BitVec.ofNat 8 c.scope, mask := c.mask,
                      src := BitVec.ofNat 8 c.src, len := BitVec.ofNat 8 c.len }

/-- A bitstream takes effect on its cores. -/
def State.activate (s : State) (slot : Nat) : State :=
  let b := s.bsSlot slot
  let s1 := (bsGangs b.image).foldl (fun s g => (maskCores g.cores).foldl (fun s n => s.modCore n (fun k => k.program slot b.image g)) s) s
  let s2 := (bsParts b.image).foldl (fun s p => s.assignPart slot p) s1
  let s3 := (bsChans b.image).foldl (fun s c => s.assignChan slot c) s2
  s3.setBs slot { b with st := .active, lastCtx := none, switched := none }

/-! ### Powered-down ridges (R443) -/

/-- What a powered-down core loses; its registers, its fence and its faults stay. -/
def Core.lose (k : Core) : Core :=
  { k.unprogram with cmem := .zero, bufA := .zero, bufB := .zero, bufD := .zero, v := [], owner := none, mat := .none, point := 0, stretch := false }

/-- Step 3 of a switch to a slot is under way, for a command that still waits. -/
def State.switching (s : State) (slot : Nat) : Bool :=
  match (s.bsSlot slot).switched with
  | none => false
  | some (r, o, _) => (s.bsSlot slot).st = .resident && s.cmds.any (fun k => k.ref = r && k.order = o && k.stage = .waiting)

/-- The ridges that a bitstream occupies which is active or whose switch is under way. -/
def State.ridgeUsed (s : State) (r : Nat) : Bool :=
  (List.range 8).any (fun i => ((s.bsSlot i).st = .active || s.switching i) && (s.ridgeCores r).any (fun n => (bsCores (s.bsSlot i).image).getLsbD n))

/-- No shared-memory partition has an owner. -/
def State.disown (s : State) : State := { s with parts := s.parts.map (fun e => (e.1, { e.2 with owner := none })) }

/-- In Background, ridges without an active bitstream lose their state; where one that had power loses it, every OWNED bit of
STR_SHM_PARTn clears (R443). -/
def State.backgroundOff (before s : State) : State :=
  if s.pwr.dev ≠ .background then s
  else
    let off := (List.range 4).filter (fun r => !s.ridgeUsed r)
    let s1 := off.foldl (fun s r => (s.ridgeCores r).foldl (fun s n => s.modCore n Core.lose) s) s
    if off.any (fun r => before.pwr.dev ≠ .background || before.ridgeUsed r) then s1.disown else s1

/-! ### The collective queue of a slot (R394, R398) -/

/-- ULK_ERR and its record, which signals vector 1 (R398, R461; its class is of log entry 32). -/
def State.ulkErr (s : State) (kind port : Nat) : State :=
  let s1 := s.setRecord 0xB0210 (w32 (kind * 2 ^ 28 + port * 2 ^ 26))
  s1.record 0x0501 srcUlk 3 0 (regCopy (s1.reg 0xB0210) 0xB0210)

def cqReg (slot : Nat) : Nat := 0x1100200 + 4 * slot
def State.cqOn (s : State) (slot : Nat) : Bool := bitOf (s.reg (cqReg slot)) 31
def State.cqBase (s : State) (slot : Nat) : Nat := 64 * getBits (s.reg (cqReg slot)) 0 19
/-- The end of the WORK partition of a slot that holds an offset; the offset itself where none does. -/
def State.workEnd (s : State) (slot off : Nat) : Nat :=
  match s.parts.find? (fun e => e.2.slot = some (BitVec.ofNat 3 slot) && e.2.kind.toNat = kindWork &&
      decide (e.2.base * unit64K ≤ off) && decide (off < (e.2.base + e.2.size) * unit64K)) with
  | some e => (e.2.base + e.2.size) * unit64K
  | none => off
/-- A range lies in the WORK partitions of a slot, of which it may cross several. -/
def State.inWork (s : State) (slot off len : Nat) : Bool :=
  decide (off + len ≤ (List.range 16).foldl (fun e _ => s.workEnd slot e) off)

/-- The queue is in use for the activation of step 3 when it lies in the bitstream's WORK partitions. -/
def State.checkQueue (s : State) (slot : Nat) : State :=
  let ok := (s.activate slot).inWork slot (s.cqBase slot) 1024
  let s1 := s.setBs slot { s.bsSlot slot with cqOk := s.cqOn slot && ok }
  if s.cqOn slot && !ok then s1.ulkErr 3 0 else s1

/-! ### The switch (R348, R349) -/

def shareSum (rs : List RouteRec) (seg dir : Nat) : Nat := ((rs.filter (fun r => r.seg = seg && r.dir = dir)).map (fun r => r.share)).foldl (· + ·) 0

/-- The new bitstream fits beside those that stay active. -/
def fitsBeside (b : List Byte) (stay : List (List Byte)) : Bool :=
  let parts := (stay.map bsParts).flatten
  let chans := (stay.map bsChans).flatten
  let routes := ((b :: stay).map bsRoutes).flatten
  (bsParts b).all (fun p => !overlaps (p.base, p.size) (parts.map (fun q => (q.base, q.size)))) &&
  decide ((bsParts b).length + parts.length ≤ 16) &&
  (bsChans b).all (fun c => chans.all (fun d => !(c.node = d.node && c.ch = d.ch))) &&
  (List.range 4).all (fun seg => decide (shareSum routes seg 0 ≤ 16) && decide (shareSum routes seg 1 ≤ 16))

/-- The bitstreams that stay active beside a switch, one whose own step 3 is under way among them. -/
def State.staysActive (s : State) (old : List Nat) : List (List Byte) :=
  ((List.range 8).filter (fun i => ((s.bsSlot i).st = .active || s.switching i) && !old.contains i)).map (fun i => (s.bsSlot i).image)

/-- Step 2 of a switch for a command (R349, R394): the checks, then the old bitstreams are RESIDENT; step 3 is under way. -/
def State.beginSwitch (s : State) (k : Cmd) : State :=
  let slot := k.rSlot
  let b := (s.bsSlot slot).image
  let old := s.activeOver (bsCores b)
  if s.anyCore (bsCores b) Core.isRetired then s.endCmd k.ref stFenced
  else if !fitsBeside b (s.staysActive old) then s.endCmd k.ref stBitstream
  else
    let s1 := old.foldl State.deactivate s
    let mask := BitVec.ofNat 8 ((old.map (fun i => 2 ^ i)).foldl (· + ·) 0)
    (s.backgroundOff (s1.setBs slot { s1.bsSlot slot with switched := some (k.ref, k.order, mask) })).checkQueue slot

/-- The end of step 3, and step 4: the bitstream takes effect on its cores, and the switch is counted and recorded. -/
def State.endSwitch (s : State) (slot : Nat) (mask : BitVec 8) : State :=
  ((s.activate slot).bump 0x10F18 0 32 1).record 0x0401 srcHif 0 0 (toLE 1 slot ++ [mask])

/-- A fault of a core of a bitstream in step 3 of its switch: the switch is abandoned, the slot is RESIDENT, the command ends with
ST_FENCED, and the old bitstreams are not restored (Table 11 of R351). -/
def State.abandonSwitches (s : State) (n : Nat) : State :=
  (List.range 8).foldl (fun s i =>
    let b := s.bsSlot i
    match b.switched with
    | none => s
    | some (r, _, _) =>
      if s.switching i && (bsCores b.image).getLsbD n then (s.setBs i { b with switched := none }).endBefore r stFenced else s) s

/-- What holds a switch at its barrier: sequences, a model that loads, cores under test, cores in use or wanted earlier. -/
def State.switchHeld (s : State) (k : Cmd) : Bool :=
  let m := s.model k.rModel
  (k.isRun && (!s.mayTake k || m.st ≠ .ready || (m.variant && (s.model m.base.toNat).st ≠ .ready))) ||
  s.anyCore (s.footprint k) Core.isTesting || s.coresBusy k

/-- The old slots of the switch whose step 3 is under way for a command. -/
def State.switchFor (s : State) (k : Cmd) : Option (BitVec 8) :=
  match (s.bsSlot k.rSlot).switched with
  | some (r, o, m) => if r = k.ref && o = k.order then some m else none
  | none => none

/-- A switch for a RUN that waits before its start or for a BSACT. The first of these commands is its barrier (steps 1 and 2 of Table 10),
the next the end of step 3, unless a core has failed in between (log entry 110). A BSACT that waited for a slot that another command has made ACTIVE since ends with it. -/
def execBsSwitch (r : CmdRef) (s : State) : Host.Outcome State Fault Refusal :=
  match s.cmd? r with
  | none => .next s
  | some k =>
    if !k.usesCores || k.stage ≠ .waiting || !s.serves || s.sec.quarantine || s.ras.deviceFault then .next s
    else if !s.slotOk k then .next (s.endCmd r stBitstream)
    else if !s.needsSwitch k.rSlot then .next (if k.isRun then s else s.atOnce r stOk)
    else match s.switchFor k with
      | some mask =>
        if s.anyCore (bsCores (s.bsSlot k.rSlot).image) (fun c => c.fence ≠ .inService) then
          .next ((s.setBs k.rSlot { s.bsSlot k.rSlot with switched := none }).endBefore r stFenced)
        else
        let t := s.endSwitch k.rSlot mask
        .next (if k.isRun then t else t.atOnce r stOk)
      | none =>
        if k.isRun && !s.modelOk k then .next (s.endCmd r stBounds)
        else if k.isRun && !s.keyOk k.rModel r.ctx.toNat (bsKeyId (s.bsSlot k.rSlot).image) then .next (s.endCmd r stKey)
        else if s.switchHeld k then .next s
        else .next ((if k.isRun then s.take k else s).beginSwitch k)

/-! ### BSACT and BSFREE (R351, Table 8) -/

def slotFieldOk (k : Cmd) : Bool := k.flagsOk && decide (k.rSlot ≤ 7) && k.zeroFrom 5

def State.doBsact (s : State) (k : Cmd) : State :=
  if !s.slotOk k then s.endCmd k.ref stBitstream
  else if (s.bsSlot k.rSlot).st = .active then s.atOnce k.ref stOk
  else s.markWaiting k.ref

def execBsact (r : CmdRef) (s : State) : Host.Outcome State Fault Refusal :=
  .next (s.modelCmd r 0x31 slotFieldOk s.doBsact)

/-- RUNs of a slot that have started, or whose doorbells precede a command. -/
def State.runsHold (s : State) (k : Cmd) : Bool :=
  s.cmds.any (fun j => j.isRun && j.rSlot = k.rSlot && j.stage ≠ .ended && (j.onCores || decide (j.order < k.order)))

def State.doBsfree (s : State) (k : Cmd) : State :=
  let b := s.bsSlot k.rSlot
  match b.st with
  | .empty => s.endCmd k.ref stBounds
  | .loading => s.markWaiting k.ref
  | _ =>
    if s.runsHold k then s.markWaiting k.ref
    else
      let s1 := if b.st = .active then s.deactivate k.rSlot else s
      ((s.backgroundOff s1).setBs k.rSlot .empty).atOnce k.ref stOk

def execBsfree (r : CmdRef) (s : State) : Host.Outcome State Fault Refusal :=
  .next (s.modelCmd r 0x32 slotFieldOk s.doBsfree)

/-! ### HIF_BS_AREA (R353) -/

/-- An area that R353 permits. -/
def State.bsPlaceOk (s : State) (a : Nat × Nat) : Bool :=
  inDram a && !overlaps a (s.poolRegions noSkip ++ s.windowRegions noSkip noSkip ++ s.asmArea.toList ++ s.mirrorArea.toList)

def execBsAreaWrite (who : Agent) (val : Word) (s : State) : Host.Outcome State Fault Refusal :=
  let v := val &&& 0x800FFFFF#32
  let ok := match bsAreaOf v with | some a => s.bsPlaceOk a | none => true
  match who with
  | .host => .next s
  | .mgmt => .next (if s.bs.any (fun e => e.2.st ≠ .empty) || !ok then s else s.setReg 0x10F00 v)

/-! ### Start-up (R354) -/

/-- A slot is read back into the area and validated again. One that fails reads EMPTY with its copy kept, and one whose copy was not
complete reads EMPTY; each is recorded. -/
def State.bsReload (s : State) (slot : Nat) : State :=
  let b := s.bsSlot slot
  if b.copy then
    (let s1 := s.copyBs slot b.image
    if (s1.bsFails b.image b.image.length).isNone then
      s1.setBs slot { b with st := .resident, persist := false, checked := [], lastCtx := none, switched := none }
    else (s1.setBs slot { b with st := .empty, persist := false, checked := [], lastCtx := none, cqOk := false,
                                 switched := none }).record 0x0402 srcHif 0 0 (toLE 1 slot))
  else if b.st = .empty then s
  else (s.setBs slot .empty).record 0x0402 srcHif 0 0 (toLE 1 slot)

end Sys2Proof.Machine
end

