-- ==== Sys2Proof/Machine/CoreMangle.lean ====
section
/-! DEFINITION. The Mangle attention pipeline (R90 to R112, R158): masks, scores, the online soft maximum, merging, backward
by recomputation, the checks of a descriptor, and the events of an instruction. -/

namespace Sys2Proof.Machine

/-! ### Element values -/

def kvElem (f : Nat) : MxElem := match f with | 0 => .mxint8 | 1 => .e4m3 | _ => .e2m1
def doElem (f : Nat) : MxElem := match f with | 0 => .mxint8 | 1 => .e4m3 | _ => .e5m2

/-- One row of D dimensions: the codes of its elements, its scales and its element format. -/
structure MglRow where
  f : MxElem
  codes : List Nat
  scales : List Byte
  deriving DecidableEq, Repr

def rowCodes (m : Ram) (a dim : Nat) (nibble : Bool) : List Nat :=
  if nibble then
    let bs := m.bytes a (dim / 2)
    (List.range dim).map (fun i => elemCode bs 4 i)
  else (m.bytes a dim).map (·.toNat)

def MglDesc.keyRow (d : MglDesc) (m : Ram) (ps : List MglPage) (kp : Nat) : MglRow :=
  let p := pageOf ps kp
  let j := kp - p.start
  { f := kvElem d.kfmt, codes := rowCodes m (p.base + j * d.ek) d.dim (d.kfmt = 2),
    scales := m.bytes (p.base + 2 ^ p.z * d.ek + j * d.ss) d.dblk }

def MglDesc.valRow (d : MglDesc) (m : Ram) (ps : List MglPage) (kp : Nat) : MglRow :=
  let p := pageOf ps kp
  let j := kp - p.start
  { f := kvElem d.vfmt, codes := rowCodes m (p.base + 2 ^ p.z * (d.ek + d.ss) + j * d.ev) d.dim (d.vfmt = 2),
    scales := m.bytes (p.base + 2 ^ p.z * (d.ek + d.ss + d.ev) + j * d.ss) d.dblk }

def MglDesc.queryRow (d : MglDesc) (m : Ram) (r : Nat) : MglRow :=
  { f := if d.qfmt = 0 then .mxint8 else .e4m3, codes := rowCodes m (d.qbase + r * d.qpitch) d.dim false,
    scales := m.bytes (d.qsbase + 8 * r) d.dblk }

def MglDesc.gradRow (d : MglDesc) (m : Ram) (r : Nat) : MglRow :=
  { f := doElem d.dofmt, codes := rowCodes m (d.dobase + r * d.dopitch) d.dim false,
    scales := m.bytes (d.dosbase + 8 * r) d.dblk }

/-- The exact value of dimension i of a row (R97). -/
def MglRow.val (x : MglRow) (i : Nat) : FV := mxVal x.f (x.scales.getD (i / 32) 0) (x.codes.getD i 0)

/-- Steps 1 and 2 of R99: each scale block summed exactly and rounded once, blocks added in order. Where all 32 products of a block
are zero, R99 gives no sign: the model takes each product's sign from its factors and sums as R46 does, so that a block whose
products are all -0 is -0 (DESIGN CHOICE, log entry 87). -/
def dotBlocks (a b : MglRow) (dblk : Nat) : Word :=
  let block := fun (k : Nat) =>
    let sa := a.scales.getD k 0
    let sb := b.scales.getD k 0
    if sa = 0xFF#8 ∨ sb = 0xFF#8 then nan32
    else
      let ps := (List.range 32).map (fun i => (a.f.val (a.codes.getD (32 * k + i) 0)).mul (b.f.val (b.codes.getD (32 * k + i) 0)))
      rnd32 ((ps.tail.foldl FV.add (ps.headD .nan)).scale ((sa.toNat : Int) + sb.toNat - 254))
  ((List.range (dblk - 1)).map (fun i => block (i + 1))).foldl fadd (block 0)

/-! ### Masks (R100, R102) -/

def readWord (m : Ram) (a : Nat) : Word := w32 (leNat (m.bytes a 4))

def MglDesc.maskedBit (d : MglDesc) (m : Ram) (r kp : Nat) : Bool :=
  d.bitmask && (m.byte (d.maskbase + r * d.maskpitch + kp / 8)).getLsbD (kp % 8)

/-- Masked before the score. -/
def MglDesc.masked4 (d : MglDesc) (m : Ram) (r kp : Nat) : Bool := d.maskedGeom r kp || d.maskedBit m r kp

/-- The score of R99. -/
def MglDesc.score (d : MglDesc) (m : Ram) (ps : List MglPage) (q : MglRow) (r kp : Nat) : Word :=
  let x := fmul (dotBlocks q (d.keyRow m ps kp) d.dblk) d.sigma
  if d.bias then fadd x (readWord m (d.biasbase + r * d.biaspitch + 4 * kp)) else x

/-- Scores of one row over a block, none where the position is masked (R100). -/
def MglDesc.scores (d : MglDesc) (m : Ram) (ps : List MglPage) (q : MglRow) (r b : Nat) : List (Option Word) :=
  (blockPos b).map (fun kp =>
    if d.masked4 m r kp then none
    else
      let x := d.score m ps q r kp
      if fle x negBig then none else some x)

/-! ### The online soft maximum (R103 to R105) -/

/-- The state of a row. -/
structure SoftRow where
  m : Word
  l : Word
  o : List Word
  bad : Bool
  deriving DecidableEq, Repr

def softStart (dim : Nat) : SoftRow := { m := negBig, l := 0, o := List.replicate dim 0, bad := false }

def rawRow (m : Ram) (obase stbase opitch r dim : Nat) : SoftRow :=
  { m := readWord m (stbase + 8 * r), l := readWord m (stbase + 8 * r + 4), o := f32List m (obase + r * opitch) dim false,
    bad := false }

def psum32 (xs : List Word) : Word := psum ((xs ++ List.replicate 32 0).take 32)

/-- One block into a row (R103); an unmasked NaN or +∞ score poisons it (R101). -/
def softBlock (xs : List (Option Word)) (vs : List MglRow) (st : SoftRow) : SoftRow :=
  let un := xs.filterMap id
  if un = [] then st
  else if un.any (fun x => isNan32 x || x = posInf32) then { st with bad := true }
  else
    let mb := (extreme true un).1
    let mn := fmax st.m mb
    let alpha := fexp2 (fsub st.m mn)
    let ph := xs.map (fun x => match x with | none => 0 | some x => bf16Round (fexp2 (fsub x mn)))
    let l := ffma alpha st.l (psum32 ph)
    let o := st.o.zipIdx.map (fun p =>
      let t := (xs.zip (ph.zip vs)).map (fun e => match e.1 with
        | none => 0
        | some _ => rnd32 ((val32 e.2.1).mul (e.2.2.val p.2)))
      ffma alpha p.1 (psum32 t))
    { st with m := mn, l := l, o := o }

/-- Value rows of a block; rows of masked positions are not read. -/
def MglDesc.valRows (d : MglDesc) (m : Ram) (ps : List MglPage) (xs : List (Option Word)) (b : Nat) : List MglRow :=
  (xs.zip (blockPos b)).map (fun e => match e.1 with
    | none => { f := .mxint8, codes := [], scales := [] }
    | some _ => d.valRow m ps e.2)

def MglDesc.softRun (d : MglDesc) (m : Ram) (ps : List MglPage) (r : Nat) : SoftRow :=
  let st := if d.resume then rawRow m d.obase d.stbase d.opitch r d.dim else softStart d.dim
  let q := d.queryRow m r
  (d.blocks 0).foldl (fun st b =>
    let xs := d.scores m ps q r b
    softBlock xs (d.valRows m ps xs b) st) st

def SoftRow.settle (st : SoftRow) : SoftRow :=
  if st.bad then { st with m := nan32, l := nan32, o := st.o.map (fun _ => nan32) } else st

/-- Writes of a finished row (R104): address and bytes. -/
def MglDesc.finish (d : MglDesc) (r : Nat) (st0 : SoftRow) : List (Nat × List Byte) :=
  let st := st0.settle
  let stats := (d.stbase + 8 * r, toLE 4 st.m.toNat ++ toLE 4 st.l.toNat)
  let row := d.obase + r * d.opitch
  if d.rawOut then [(row, packCodes 32 (st.o.map (·.toNat))), stats]
  else
    let out := st.o.map (fun o => if st.l = 0 then 0 else fdiv o st.l)
    let main := match d.ofmt with
      | 0 => [(row, packCodes 32 (out.map (·.toNat)))]
      | 1 => [(row, packCodes 16 (out.map (fun w => (toBf16 w).toNat)))]
      | f =>
        let q := quantBlocks (if f = 2 then .mxint8 else .e4m3) out d.dblk
        [(row, packCodes 8 q.1), (d.osbase + 8 * r, q.2)]
    main ++ (if d.save then [stats] else [])

/-- MERGE of one row (R106). -/
def mergeRow (a b : SoftRow) : SoftRow :=
  let bad := isNan32 a.m || isNan32 a.l || isNan32 b.m || isNan32 b.l
  if bad then { a with bad := true }
  else if b.l = 0 ∧ b.m = negBig then a
  else if a.l = 0 ∧ a.m = negBig then b
  else
    let m := fmax a.m b.m
    let aa := fexp2 (fsub a.m m)
    let ab := fexp2 (fsub b.m m)
    { m := m, l := ffma ab b.l (fmul aa a.l), o := (a.o.zip b.o).map (fun p => ffma ab p.2 (fmul aa p.1)), bad := false }

/-! ### Backward (R107, R108) -/

/-- P and S of row r against a block. -/
def MglDesc.backBlock (d : MglDesc) (m : Ram) (ps : List MglPage) (r b : Nat) : List (Word × Word) :=
  let q := d.queryRow m r
  let dO := d.gradRow m r
  let mr := readWord m (d.stbase + 8 * r)
  let lr := readWord m (d.stbase + 8 * r + 4)
  let delta := readWord m (d.deltabase + 4 * r)
  let xs := d.scores m ps q r b
  (xs.zip (blockPos b)).map (fun e => match e.1 with
    | none => (0, 0)
    | some x =>
      if lr = 0 then (0, 0)
      else
        let p := fdiv (fexp2 (fsub x mr)) lr
        let dp := dotBlocks dO (d.valRow m ps e.2) d.dblk
        let ds := fmul (fmul p (fsub dp delta)) d.gscale
        (bf16Round p, bf16Round ds))

def f32Row (ws : List Word) : List Byte := packCodes 32 (ws.map (·.toNat))

/-- The starting gradient of a row. -/
def MglDesc.gradStart (d : MglDesc) (m : Ram) (base r : Nat) : List Word :=
  if d.acc then f32List m (base + r * d.gpitch) d.dim false else List.replicate d.dim 0

def MglDesc.bwdq (d : MglDesc) (m : Ram) (ps : List MglPage) : List (Nat × List Byte) :=
  (rowsOf d).map (fun r =>
    let g := (d.blocks 2).foldl (fun (g : List Word) b =>
      let s := (d.backBlock m ps r b).map (·.2)
      let ks := ((d.scores m ps (d.queryRow m r) r b).zip (blockPos b)).map (fun e =>
        match e.1 with | none => none | some _ => some (d.keyRow m ps e.2))
      g.zipIdx.map (fun p =>
        fadd p.1 (psum32 ((s.zip ks).map (fun e => match e.2 with
          | none => 0
          | some k => rnd32 ((val32 e.1).mul (k.val p.2)))))) ) (d.gradStart m d.gqbase r)
    (d.gqbase + r * d.gpitch, f32Row g))

def MglDesc.bwdkv (d : MglDesc) (m : Ram) (ps : List MglPage) : List (Nat × List Byte) :=
  let b := d.kblk
  let run := !d.skipped b
  let all := (rowsOf d).map (fun r => if run then d.backBlock m ps r b else [])
  let qs := (rowsOf d).map (d.queryRow m)
  let gs := (rowsOf d).map (d.gradRow m)
  let masks := (rowsOf d).map (fun r => if run then (d.scores m ps (d.queryRow m r) r b).map Option.isSome else [])
  let col := fun (j i : Nat) (rows : List MglRow) (pick : Word × Word → Word) =>
    psum32 ((rowsOf d).map (fun r =>
      if (masks.getD r []).getD j false then
        rnd32 ((val32 (pick ((all.getD r []).getD j (0, 0)))).mul ((rows.getD r { f := .mxint8, codes := [], scales := [] }).val i))
      else 0))
  ((List.range 32).map (fun j =>
    [(d.gvbase + j * d.gpitch, f32Row ((d.gradStart m d.gvbase j).zipIdx.map (fun p => fadd p.1 (col j p.2 gs (·.1))))),
     (d.gkbase + j * d.gpitch, f32Row ((d.gradStart m d.gkbase j).zipIdx.map (fun p => fadd p.1 (col j p.2 qs (·.2)))))])).flatten

/-- Everything an operation writes. -/
def MglDesc.run (d : MglDesc) (op : BitVec 2) (m : Ram) : List (Nat × List Byte) :=
  let ps := (d.pages op m).1
  match op.toNat with
  | 0 => ((rowsOf d).map (fun r => d.finish r (d.softRun m ps r))).flatten
  | 1 => ((rowsOf d).map (fun r => d.finish r
      (mergeRow (rawRow m d.obase d.stbase d.opitch r d.dim) (rawRow m d.plist d.biasbase d.opitch r d.dim)))).flatten
  | 2 => d.bwdq m ps
  | _ => d.bwdkv m ps

/-! ### Checks at issue (R91 to R94) -/

/-- Ranges and codes of Tables 2 and 3 that stop the instruction with ST_BITSTREAM. -/
def MglDesc.legal (d : MglDesc) (op : BitVec 2) : Bool :=
  let back := decide (2 ≤ op.toNat)
  decide (1 ≤ d.m) && decide (d.m ≤ 32) && decide (1 ≤ d.dblk) && decide (d.dblk ≤ 8) && byteAt d.raw 0x3B = 0 &&
  getBits d.flags 14 18 = 0 && decide (d.ofmt ≤ 3) && d.kfmt ≠ 3 && d.vfmt ≠ 3 && !(d.rawOut && d.ofmt ≠ 0) &&
  !(d.rawOut && back) &&
  (op = 1 || (decide (1 ≤ d.g) && decide (d.g ≤ 32) && decide (d.klen ≤ 1048576))) &&
  (!back || (getBits d.bflags 3 29 = 0 && d.dofmt ≠ 3 && allZero (bytesAt d.raw 0x68 24)))

/-- Region bases that an operation uses: each a multiple of 64 (R94). -/
def MglDesc.basesOk (d : MglDesc) (op : BitVec 2) : Bool :=
  let use := match op.toNat with
    | 0 => [d.qbase, d.qsbase, d.plist, d.obase] ++ (if !d.rawOut && decide (2 ≤ d.ofmt) then [d.osbase] else []) ++
        (if d.rawOut || d.save || d.resume then [d.stbase] else [])
    | 1 => [d.plist, d.biasbase, d.obase, d.stbase] ++ (if !d.rawOut && decide (2 ≤ d.ofmt) then [d.osbase] else [])
    | 2 => [d.qbase, d.qsbase, d.plist, d.stbase, d.dobase, d.dosbase, d.deltabase, d.gqbase]
    | _ => [d.qbase, d.qsbase, d.plist, d.stbase, d.dobase, d.dosbase, d.deltabase, d.gkbase, d.gvbase]
  let tables := if op = 1 then [] else (if d.bias then [d.biasbase] else []) ++ (if d.bitmask then [d.maskbase] else [])
  (use ++ tables).all (fun b => b % 64 = 0)

/-- Pitches: multiples of 64 that hold one row (R94). OPITCH is checked where the operation uses it: R94 does not say whether it is
on BWDQ and BWDKV, which write no output rows, and there the model leaves it unchecked (DESIGN CHOICE, log entry 87). -/
def MglDesc.pitchesOk (d : MglDesc) (op : BitVec 2) : Bool :=
  let ok := fun (p need : Nat) => p % 64 = 0 && decide (need ≤ p)
  match op.toNat with
  | 0 => ok d.qpitch d.dim && ok d.opitch (if d.resume then 4 * d.dim else d.oBytes)
  | 1 => ok d.opitch (4 * d.dim)
  | _ => ok d.qpitch d.dim && ok d.dopitch d.dim && ok d.gpitch (4 * d.dim)

/-- Every region lies in banks bound to the Mangle port (R94). -/
def MglDesc.boundsOk (d : MglDesc) (k : Core) (op : BitVec 2) (ps : List MglPage) : Bool :=
  d.basesOk op && d.pitchesOk op &&
  (d.reads op ++ d.writes op ++ d.listBytes (ps, true) ++ d.pagesNamed op ps).all (fun r => k.inPort 2 r.1 r.2)

/-- What one row reads of the tables at one position: the mask bit unless masked before it, the bias where a score is formed. -/
def MglDesc.tableReads (d : MglDesc) (m : Ram) (r kp : Nat) : List (Nat × Nat) :=
  (if d.bitmask && !d.maskedGeom r kp then [(d.maskbase + r * d.maskpitch + kp / 8, 1)] else []) ++
  (if d.bias && !d.masked4 m r kp then [(d.biasbase + r * d.biaspitch + 4 * kp, 4)] else [])

/-- The key rows, value rows and table entries that are used (R100): keys of positions not masked beforehand, values of
unmasked ones. -/
def MglDesc.kvReads (d : MglDesc) (op : BitVec 2) (m : Ram) (ps : List MglPage) : List (Nat × Nat) :=
  ((d.blocks op).map (fun b =>
    let xs := (rowsOf d).map (fun r => d.scores m ps (d.queryRow m r) r b)
    (blockPos b).zipIdx.map (fun e =>
      let kp := e.1
      let p := pageOf ps kp
      let j := kp - p.start
      let n := 2 ^ p.z
      ((rowsOf d).map (fun r => d.tableReads m r kp)).flatten ++
      (if (rowsOf d).any (fun r => !d.masked4 m r kp) then [(p.base + j * d.ek, d.ek), (p.base + n * d.ek + j * d.ss, d.dblk)] else []) ++
      (if xs.any (fun x => (x.getD e.2 none).isSome) then
        [(p.base + n * (d.ek + d.ss) + j * d.ev, d.ev), (p.base + n * (d.ek + d.ss + d.ev) + j * d.ss, d.dblk)] else [])))).flatten.flatten

/-! ### Events -/

def opMgl (s : State) (n : Nat) (k : Core) : CoreInstr → Option State
  | .mgl a b c d e f g h i => some (if k.hasRoom .mangle then s.setCore n (k.dispatch .mangle (.mgl a b c d e f g h i)) else s)
  | _ => none

def execMgl (c : BitVec 4) (s : State) : Host.Outcome State Fault Refusal := .next (s.frontStep c.toNat (opMgl s c.toNat))

/-- The context class that a core's command runs in. -/
def State.adaptation (s : State) (k : Core) : Bool := match k.cmd with | some r => (s.ctx r.ctx.toNat).cls | none => false

/-- Undefined destinations of an instruction that R94 refuses: free values where the region can be written. -/
def State.scrambleDest (s : State) (n : Nat) (rs : List (Nat × Nat)) : State :=
  (rs.filter (fun r => (s.core n).inPort 2 r.1 r.2)).foldl (fun s r => s.scramble (.cmem (BitVec.ofNat 4 n)) r.1 r.2) s

def mglIssue (s : State) (n : Nat) (f : MglF) (d : Disp) : State :=
  let k := s.core n
  let m := MemSel.cmem (BitVec.ofNat 4 n)
  let a := d.x0.toNat
  let len := mglLen f.op
  if 2 ≤ f.op.toNat ∧ !s.adaptation k then s.excDisp n stClass d
  else if a % 64 ≠ 0 ∨ !k.inPort 2 a len then s.excDisp n stBounds d
  else
    let t := s.touch m a len
    if t.2 ≠ .clean then t.1.excDisp n t.2.status d
    else
      let ram := t.1.ram m
      let md := mglDesc (ram.bytes a 128)
      let ps := md.pages f.op ram
      let undefined := (t.1.excDisp n stBounds d).scrambleDest n (md.writes f.op)
      if !md.legal f.op then t.1.excDisp n stBitstream d
      else if (md.listBytes ps).any (fun r => !k.inPort 2 r.1 r.2) then undefined
      else
        let u := t.1.touchAll ((md.listBytes ps).map (fun r => (m, r.1, r.2)))
        if u.2 ≠ .clean then u.1.excDisp n u.2.status d
        else if !ps.2 then u.1.excDisp n stBitstream d
        else if !md.boundsOk k f.op ps.1 then (u.1.excDisp n stBounds d).scrambleDest n (md.writes f.op)
        else u.1.modCore n (fun k =>
          let k1 := { k with mgl := { k.mgl with pend := k.mgl.pend.drop 1 } }
          (((k1.consume f.cq f.tq).consume f.ck f.tk).liftUsigs .mangle).addFlight .mangle (newFlight d md.raw))

def execMglIssue (c : BitVec 4) (s : State) : Host.Outcome State Fault Refusal :=
  let n := c.toNat
  match (s.core n).mgl.pend with
  | d :: _ =>
    (match mglOf d.ins with
    | some f =>
      if s.unitsRun n && (s.core n).mayIssue n .mangle d then .next (mglIssue s n f d) else .next s
    | none => .next s)
  | [] => .next s

def writeAll (m : Ram) (ws : List (Nat × List Byte)) : Ram := ws.foldl (fun m w => m.write w.1 w.2) m

/-- Writes into one memory, once their merges have read what they need. -/
def State.writeEach (s : State) (m : MemSel) (ws : List (Nat × List Byte)) : State :=
  let s1 := s.mergeAll m (ws.map (fun w => (w.1, w.2.length)))
  s1.setRam m (writeAll (s1.ram m) ws)

/-- The oldest Mangle instruction writes its last output (R104, R108, R110, R111). What it reads is taken here, or was
taken where a write into it had been held and then went on. An instruction that stops on poison or on an uncorrectable error counts
none of its blocks, of which R113 says nothing (DESIGN CHOICE, log entry 87). -/
def execMglDone (c : BitVec 4) (s : State) : Host.Outcome State Fault Refusal :=
  let n := c.toNat
  let m := MemSel.cmem c
  match (s.core n).mgl.flights with
  | fl :: rest =>
    (match mglOf fl.d.ins with
    | none => .next s
    | some f =>
      if !s.unitsRun n then .next s
      else
        let md := mglDesc fl.desc
        let ram := match fl.seen with | some x => x | none => s.ram m
        let pl := md.pages f.op ram
        let ps := pl.1
        let s0 : State := match fl.seen with | some x => s.setRam m x | none => s
        let t := s0.touchAll ((md.fixedReads f.op ++ md.listBytes pl ++
          md.kvReads f.op ram ps).map (fun r => (m, r.1, r.2)))
        let t1 := if fl.seen.isSome then t.1.setRam m ((s.ram m).takeFixes (s0.ram m) (t.1.ram m)) else t.1
        let s1 := t1.modCore n (fun k => { k with mgl := { k.mgl with flights := rest } })
        if t.2 ≠ .clean then .next (s1.excDisp n t.2.status fl.d)
        else
          let s2 := s1.writeEach m (md.run f.op ram)
          let s3 := s2.bump (coreOff n 0x90C) 0 32 (md.skipCount f.op)
          .next ((s3.modCore n (fun k =>
            { k with blocks := k.blocks + BitVec.ofNat 64 (md.blocks f.op).length }.setTack f.ts)).note n true (md.writes f.op)))
  | [] => .next s

end Sys2Proof.Machine
end

