-- ==== Sys2Proof/Machine/Streaming.lean ====
section
/-! DEFINITION. The streaming engine (R263 to R274, R295, R310, R411, R412, R508): granules from their tiers, pieces into the
rings, route records, failures of a pass; the mirror's registers (R282), and completions of host reads (R263, R372). -/

namespace Sys2Proof.Machine

/-! ### Granules -/

/-- What the tiers give for a piece: the flash codewords, each once however many granules touch it (R295), granules of the mirror,
granules of the host, and granules made of a variant stream by mode. -/
structure Reads where
  cws : List (Nat × Nat)
  dram : Nat
  host : Nat
  modes : List Nat
  deriving DecidableEq, Repr

def Reads.none : Reads := { cws := [], dram := 0, host := 0, modes := [] }
def Reads.add (a b : Reads) : Reads :=
  { cws := (a.cws ++ b.cws).eraseDups, dram := a.dram + b.dram, host := a.host + b.host, modes := a.modes ++ b.modes }

/-- What a granule or a piece comes to: its plaintext, a code that ends the pass, or nothing yet. -/
inductive Got where
  | ok (data : List Byte) (cost : Reads) (s : State)
  | fail (code : Nat) (s : State)
  | wait (s : State)
  deriving DecidableEq, Repr

/-- The extent's time of its last read (R228). -/
def State.touchExtent (s : State) (h : Nat) : State :=
  let e := s.extent h
  if e.inUse then s.setExtent h { e with lastRead := (s.aon.calSec.toNat : Int) } else s

/-- Consecutive codewords of an extent, decrypted (R236, R411). A codeword whose segment is held delays only the piece (R241, R271). -/
def State.flashGot (s : State) (owner h o n : Nat) : Got :=
  match s.weightKey owner with
  | none => .wait s
  | some key =>
    if !s.flashMoves then .wait s
    else if (List.range n).any (fun i => s.cwHeld h (o + i)) then .wait s.flagHold
    else match s.plainCws key h o n with
      | none => .fail stUncorrectable s
      | some d => .ok d { Reads.none with cws := (List.range n).map (fun i => (h, o + i)) } (s.touchExtent h)

/-- A mirror granule that reads poisoned (R310): the flash copy serves and the mirror is written again, or the pass ends. -/
def State.mirrorRepair (s : State) (owner h cw off : Nat) : Got :=
  match s.flashGot owner h cw 1 with
  | .ok d rd t => .ok d rd (((t.dramUse off 4096).dramPut off (padTo 4096 (t.codeword h cw).data) [] rawTag).record 0x0F01 srcStr 1 stOk [])
  | .fail c t => .fail c (t.record 0x0F01 srcStr 3 c [])
  | .wait t => .wait t

def State.mirrorGot (s : State) (g : SegRef) (k cw : Nat) : Got :=
  let off := g.mir + 4096 * k
  if (s.dramPoison off 4096).any id then s.mirrorRepair g.owner g.seg.handle cw off
  else match s.weightKey g.owner with
    | none => .wait s
    | some key =>
      .ok (xtsDecrypt key (flashTweak g.seg.handle cw) (s.dramBytesAt off 4096 rawTag)) { Reads.none with dram := 1 } (s.dramUse off 4096)

/-! #### Host tier -/

/-- Host granules are kept for the pass that reads them. -/
def hostKey (no m g : Nat) : Nat := no * hostSpan + m * 2 ^ 32 + g
def State.hostGranule (s : State) (no m g : Nat) : Option (List Byte) := nget none s.hostGran (hostKey no m g)
def State.setHostGranule (s : State) (no m g : Nat) (d : Option (List Byte)) : State :=
  { s with hostGran := nset none s.hostGran (hostKey no m g) d }
/-- The tweak of a host granule. -/
def hostTweak (m g : Nat) : Nat := g % 2 ^ 32 + m * 2 ^ 48

/-- A host granule is asked for, and is here once its read has completed; it is held until its piece is staged. -/
def State.hostGot (s : State) (no m g : Nat) : Got :=
  match s.hostGranule no m g, s.weightKey m with
  | none, _ => .wait ((s.setHostGranule no m g (some [])).emit (.hostRead ((s.model m).hbase + 4096 * g) 4096))
  | some (b :: d), some key => .ok (xtsDecrypt key (hostTweak m g) (b :: d)) { Reads.none with host := 1 } s
  | _, _ => .wait s

/-- A granule of a segment that is no variant stream. -/
def State.plainGot (s : State) (no : Nat) (g : SegRef) (i : Nat) : Got :=
  match g.seg.place i with
  | .flash cw => s.flashGot g.owner g.seg.handle cw 1
  | .mirror k cw => s.mirrorGot g k cw
  | .host x => s.hostGot no g.owner x

/-! #### Variant streams (R295) -/

/-- The counter of WRG that a granule of a mode raises. -/
def modeReg (mode : Nat) : Nat := if mode = 0 then 0x90000 else if mode = 1 then 0x90004 else 0x90008

/-- The frame of an entry: its codewords are read whole. -/
def State.frameGot (s : State) (g : SegRef) (e : Word) : Got :=
  if idxMode e = 2 then .ok [] .none s
  else
    let a := 64 * idxOff e
    let n := 64 * idxLen e
    let first := a / 4096
    match s.flashGot g.owner g.seg.handle (g.seg.start + g.seg.indexCws + first) ((a + n - 1) / 4096 - first + 1) with
    | .ok d rd t => .ok (bytesAt d (a % 4096) n) rd t
    | x => x

/-- A granule of a variant stream: index entry, frame, base granule, and what a Wringer unit makes of them. -/
def State.diffGot (s : State) (no : Nat) (g base : SegRef) (i : Nat) : Got :=
  match s.flashGot g.owner g.seg.handle (g.seg.start + 4 * i / 4096) 1 with
  | .ok idx r1 s1 =>
    let e := w32 (leAt idx (4 * i % 4096) 4)
    (match s1.frameGot g e with
    | .ok frame r2 s2 =>
      (match s2.plainGot no base i with
      | .ok b r3 s3 =>
        (match variantGranule e frame b with
        | some d => .ok d (((r1.add r2).add r3).add { Reads.none with modes := [idxMode e] }) s3
        | none => .fail stUncorrectable (s3.wrgErr 0 true 0 i stUncorrectable))
      | x => x)
    | x => x)
  | x => x

/-- One granule of a segment that a pass reads. -/
def State.granuleGot (s : State) (p : Pass) (layer seg i : Nat) : Got :=
  match s.segOf p.model.toNat p.gen layer seg with
  | none => .fail stBounds s
  | some g =>
    if g.seg.kind ≠ kDiff then s.plainGot p.no.toNat g i
    else match s.baseSeg p.model.toNat layer seg with
      | none => .fail stBounds s
      | some b => s.diffGot p.no.toNat g b i

/-- Consecutive granules of a segment. -/
def State.granulesGot (s : State) (p : Pass) (layer seg : Nat) : Nat → Nat → Got
  | 0, _ => .ok [] .none s
  | n + 1, i =>
    match s.granuleGot p layer seg i with
    | .ok d r1 s1 =>
      (match s1.granulesGot p layer seg n (i + 1) with
      | .ok t r2 s2 => .ok (d ++ t) (r1.add r2) s2
      | x => x)
    | x => x

/-- Plaintext bytes of a segment from an offset. -/
def State.bytesGot (s : State) (p : Pass) (layer seg off len : Nat) : Got :=
  let first := off / 4096
  match s.granulesGot p layer seg ((off + len - 1) / 4096 - first + 1) first with
  | .ok d rd t => .ok (bytesAt d (off % 4096) len) rd t
  | x => x

/-! ### The order of a ring (R265, R267, R272, R273) -/

def RingPos.zero : RingPos := { entry := 0, expert := 0, piece := 0 }
def Pass.at (p : Pass) (ring : Nat) : RingPos := nget RingPos.zero p.pos ring
def recCount (r : List Byte) : Nat := byteAt r 4
def recExpert (r : List Byte) (i : Nat) : Nat := leAt r (8 + 2 * i) 2

/-- The next piece of a ring: an entry with its expert's place in the record and the piece; a wait for a record; none left. -/
inductive Seek where
  | found (entry : Nat) (e : SEntry) (expert piece : Nat)
  | record (entry : Nat)
  | done
  deriving DecidableEq, Repr

def seekFrom (p : Pass) (ring : Nat) (pos : RingPos) : Nat → List SEntry → Seek
  | _, [] => .done
  | i, e :: t =>
    let x := if i = pos.entry then pos.expert else 0
    let k := if i = pos.entry then pos.piece else 0
    if i < pos.entry || e.kind = 0 || e.ring ≠ ring then seekFrom p ring pos (i + 1) t
    else if e.kind = 1 then (if k < e.count then .found i e x k else seekFrom p ring pos (i + 1) t)
    else
      let r := nget [] p.routes i
      if r = [] then .record i
      else if x < recCount r then .found i e x k
      else seekFrom p ring pos (i + 1) t

def State.schedOf (s : State) (p : Pass) : List SEntry := bsSchedule (s.bsSlot p.slot.toNat).image p.sched.toNat
def State.seek (s : State) (p : Pass) (ring : Nat) : Seek := seekFrom p ring (p.at ring) 0 (s.schedOf p)

/-- Where a ring stands after a piece. -/
def RingPos.after (i : Nat) (e : SEntry) (x k : Nat) : RingPos :=
  if e.kind = 1 || k + 1 < e.count then { entry := i, expert := x, piece := k + 1 }
  else { entry := i, expert := x + 1, piece := 0 }

/-- The segment offset of a piece. -/
def State.pieceOff (s : State) (p : Pass) (i : Nat) (e : SEntry) (x k : Nat) : Nat :=
  if e.kind = 1 then e.off + k * e.piece
  else
    let w := match s.segOf p.model.toNat p.gen e.layer e.seg with | some g => g.seg.w | none => 0
    recExpert (nget [] p.routes i) x * w + k * e.piece

/-- The core of piece k: the (k mod c)-th set bit of CORES. -/
def pieceCore (e : SEntry) (k : Nat) : BitVec 4 :=
  let cs := maskCores e.cores
  BitVec.ofNat 4 (cs.getD (k % cs.length) 0)

def State.modPass (s : State) (no : Word) (f : Pass → Pass) : State :=
  { s with passes := s.passes.map (fun q => if q.no = no then f q else q) }

/-! ### A pass that fails (R508) -/

/-- The command does not wait for pieces that will not come: its cores' RING transfers without a piece leave their engines. -/
def State.dropWaitingRings (s : State) (r : CmdRef) : State :=
  (s.coresOf r).foldl (fun s n =>
    (((s.core n).dma.flights.filter (fun f => (dDesc f.desc).kind = 1 && f.phase = 0 && !s.pieceReady n f)).map (fun f => f.d.sn)).foldl
      (fun s sn => s.dmaDrop n sn) s) s

/-- The command of a pass ends with the pass's status, whether or not a RING transfer waits: its cores stop as peers, and it ends once they have. A pass that runs
ahead has no command: it stays as it stands. -/
def State.failPass (s : State) (p : Pass) (code : Nat) : State :=
  match p.cmd with
  | none => s
  | some r =>
    match s.cmd? r with
    | none => s
    | some k =>
      if k.stage = .started then
        (if p.failed then s else ((s.dropWaitingRings r).stopRun r code).modPass p.no (fun (q : Pass) => { q with failed := true }))
      else s.endBefore r code

/-! ### Staging (R267, R269) -/

/-- The engine works for a pass: no fault holds it, and it has not failed. -/
def State.staging (s : State) (p : Pass) : Bool :=
  !s.ras.deviceFault &&
  (match p.cmd with
  | none => (s.model p.model.toNat).st = .ready
  | some r => (s.cmd? r).isSome && !p.failed)

/-- The ring's staged bytes leave room for a piece. -/
def State.ringRoom (s : State) (slot ring n : Nat) : Bool :=
  let staged := ((s.ringQ slot ring).map (fun q => q.len)).foldl (· + ·) 0
  (ringBytes (bsParts (s.bsSlot slot).image) ring).any (fun size => decide (staged + n ≤ size))

/-- The granules of host regions that a piece reads: model and granule. -/
def State.pieceHost (s : State) (p : Pass) (e : SEntry) (off : Nat) : List (Nat × Nat) :=
  let first := off / 4096
  let own := s.segOf p.model.toNat p.gen e.layer e.seg
  let diff : Bool := match own with | some g => decide (g.seg.kind = kDiff) | none => false
  let refs := own.toList ++ (if diff then (s.baseSeg p.model.toNat e.layer e.seg).toList else [])
  (refs.map (fun r => (List.range ((off + e.piece - 1) / 4096 - first + 1)).filterMap (fun j =>
    match r.seg.place (first + j) with | .host g => some (r.owner, g) | _ => none))).flatten

/-- The counters of a staged piece (R282, R295, R301): granules and codewords of each tier, and variant granules by mode. -/
def State.countReads (s : State) (rd : Reads) : State :=
  let s1 := ((s.bump 0x70050 0 32 rd.cws.length).bump 0x70054 0 32 rd.dram).bump 0x70058 0 32 rd.host
  rd.modes.foldl (fun s m => s.bump (modeReg m) 0 32 1) s1

/-- The next piece of a pass on a ring is read and staged. -/
def State.stage (s : State) (p : Pass) (ring i : Nat) (e : SEntry) (x k : Nat) : State :=
  let slot := p.slot.toNat
  if !s.staging p || !s.ringRoom slot ring e.piece then s
  else match s.bytesGot p e.layer e.seg (s.pieceOff p i e x k) e.piece with
    | .ok d rd t0 =>
      let t1 := (s.pieceHost p e (s.pieceOff p i e x k)).foldl (fun s g => s.setHostGranule p.no.toNat g.1 g.2 none) t0
      let t := t1.countReads rd
      (t.putPiece slot ring p.no (pieceCore e k) d).modPass p.no (fun (q : Pass) =>
        { q with pos := nset RingPos.zero q.pos ring (RingPos.after i e x k) })
    | .fail c t => t.failPass p c
    | .wait t => { s with hostGran := t.hostGran, outbox := t.outbox, regs := t.regs }

/-- The first pass of a slot that has something left on a ring. -/
def State.stagePass (s : State) (slot ring : Nat) : Option Pass :=
  s.passes.find? (fun p => p.slot.toNat = slot && s.seek p ring ≠ .done)

/-- The pass that runs ahead of the slot's latest: entry 0 again, under the next number. -/
def State.newAhead (s : State) (slot : Nat) : Option (Pass × State) :=
  match (s.passes.filter (fun p => p.slot.toNat = slot)).getLast? with
  | none => none
  | some p =>
    if p.cmd.isNone then none
    else
      let no := nextPass s.passNo
      let a := { p with no := no, cmd := none, pos := [], routes := [], failed := false }
      some (a, { s with passNo := no, passes := s.passes ++ [a] })

def State.stageNext (s : State) (p : Pass) (ring : Nat) : State :=
  match s.seek p ring with
  | .found i e x k => s.stage p ring i e x k
  | _ => s

/-! ### Route records (R272, R274) -/

/-- The earliest EXPERT entry at an offset that has no record yet. -/
def routeEntry (p : Pass) (off : Nat) : Nat → List SEntry → Option (Nat × SEntry)
  | _, [] => none
  | i, e :: t => if e.kind = 2 && e.off = off && nget [] p.routes i = [] then some (i, e) else routeEntry p off (i + 1) t

/-- A record within R274 for an entry. -/
def State.routeOk (s : State) (p : Pass) (e : SEntry) (r : List Byte) : Bool :=
  let n := match s.segOf p.model.toNat p.gen e.layer e.seg with | some g => g.seg.experts | none => 0
  decide (recCount r ≤ 28) && (List.range (recCount r)).all (fun i => decide (recExpert r i < n))

def State.takeRoute (s : State) (p : Pass) (i : Nat) (e : SEntry) (off : Nat) : State :=
  let t := s.touch .shm off 64
  let s1 := t.1
  let r := s1.shm.bytes off 64
  if t.2 ≠ .clean then s1.failPass p stPoisoned
  else if s1.routeOk p e r then s1.modPass p.no (fun (q : Pass) => { q with routes := nset [] q.routes i r })
  else (s1.setReg 0x7000C (s1.reg 0x7000C ||| 0x10000000#32)).failPass p stBounds

/-- A write access to a record's slot has left PASS equal to the number of a current pass of the bitstream. -/
def execRouteRecord (slot : BitVec 3) (off : Nat) (s : State) : Host.Outcome State Fault Refusal :=
  match s.passes.find? (fun p => p.slot = slot && p.cmd.isSome && p.no.toNat = leNat (s.shm.bytes off 4)) with
  | none => .next s
  | some p =>
    match routeEntry p off 0 (s.schedOf p) with
    | none => .next s
    | some (i, e) => .next (if s.staging p then s.takeRoute p i e off else s)

/-! ### STR_MIRROR and STR_MIRROR_SIZE (R262, R282) -/

/-- An area that R262 permits: inside DRAM, apart from pools, frame tables, the assembly area and context windows. -/
def State.mirrorPlaceOk (s : State) (a : Nat × Nat) : Bool :=
  decide (0 < a.2) && inDram a && !overlaps a (s.poolRegions noSkip ++ s.windowRegions noSkip noSkip ++ s.asmArea.toList)

def execStrMirrorWrite (size : Bool) (val : Word) (s : State) : Host.Outcome State Fault Refusal :=
  let m := if size then s.reg 0x70000 else val &&& 0x800FFFFF#32
  let z := if size then val &&& 0x000FFFFF#32 else s.reg 0x70004
  let loaded := s.models.any (fun e => e.2.st = .loading || e.2.st = .ready)
  let bad := match mirrorOf m z with | some a => !s.mirrorPlaceOk a | none => false
  .next (s.byHost (
    if loaded || bad then s.setReg 0x7000C (s.reg 0x7000C ||| 0x80000000#32)
    else if size then s.setReg 0x70004 z else s.setReg 0x70000 m))

/-! ### Completions of host reads (R263, R372, R472) -/

/-- A pass whose next piece on some ring reads a granule of a model's host region. -/
def State.readsHost (s : State) (m g : Nat) (p : Pass) : Bool :=
  (List.range 16).any (fun ring =>
    match s.seek p ring with
    | .found i e x k => (s.pieceHost p e (s.pieceOff p i e x k)).contains (m, g)
    | _ => false)

/-- A failed read of a granule ends the pass that asked for it. -/
def State.hostFailed (s : State) (no m g : Nat) : State :=
  let s1 := s.setHostGranule no m g none
  let s2 := s1.setReg 0x7000C (s1.reg 0x7000C ||| 0x04000000#32)
  let s3 := s2.record 0x0F01 srcStr 3 stUncorrectable (regCopy (s2.reg 0x7000C) 0x7000C)
  (s3.passes.filter (fun p => p.no.toNat = no && p.cmd.isSome && s1.readsHost m g p)).foldl (fun s p => s.failPass p stUncorrectable) s3

/-- The oldest pass that has asked for a granule: a read of a discarded pass is still under way, and completions of one granule come in the
order of their reads (log entry 2). -/
def State.hostAsked (s : State) (m g : Nat) : Option Nat :=
  (s.hostGran.find? (fun e => e.1 % hostSpan = m * 2 ^ 32 + g && e.2 = some [])).map (fun e => e.1 / hostSpan)

/-- Data, an error or a poisoned completion for a read that the device made. What comes for a discarded pass goes to no other (R269). -/
def execHostReadCompletion (p : HostPurpose) (res : HostRead) (s : State) : Host.Outcome State Fault Refusal :=
  match p with
  | .command r =>
    (match s.cmd? r with
    | some k =>
      .next (if (k.stage = .placing || k.stage = .started) && k.host = none then
          s.modCmd r (fun (j : Cmd) => { j with host := some res })
        else s)
    | none => .next s)
  | .granule m g =>
    (match s.hostAsked m.toNat g with
    | none => .next s
    | some no => (match res with
      | .ok d =>
        .next (s.setHostGranule no m.toNat g (if s.passes.any (fun q => q.no.toNat = no) then some (padTo 4096 d) else none))
      | _ => .next (s.hostFailed no m.toNat g)))
  | .firmware => .next (if mgtBusy s && mgtOp s = 4 then { s with ras := { s.ras with fwData := some res } } else s)

end Sys2Proof.Machine
end

