-- ==== Sys2Proof/Machine/WringerUnits.lean ====
section
/-! DEFINITION. The hub's Wringer units (R297, R298, R301): what they take when they are free, and the commands whose work they hold:
blocks of the core ports (R289 to R292) and variant granules of the streaming engine (R295). -/

namespace Sys2Proof.Machine

/-! ### Work that waits for a unit -/

/-- The next piece of a ring is one of a variant stream. -/
def State.diffPiece (s : State) (p : Pass) (e : SEntry) : Bool :=
  match s.segOf p.model.toNat p.gen e.layer e.seg with
  | some g => decide (g.seg.kind = kDiff)
  | none => false

/-- The granules of a piece: those of its segment that its bytes meet. -/
def granulesOf (off len : Nat) : List Nat := (List.range ((off + len - 1) / 4096 - off / 4096 + 1)).map (fun j => off / 4096 + j)

/-- The granules of a ring's next piece that wait for a unit: a variant stream's, read from their tiers, with room on the ring. -/
def State.streamGranules (s : State) (slot ring : Nat) : List Nat :=
  match s.stagePass slot ring with
  | none => []
  | some p =>
    match s.seek p ring with
    | .found i e x k =>
      if s.diffPiece p e && s.staging p && s.ringRoom slot ring e.piece &&
          (match s.bytesGot p e.layer e.seg (s.pieceOff p i e x k) e.piece with | .wait _ => false | _ => true)
      then granulesOf (s.pieceOff p i e x k) e.piece else []
    | _ => []
def State.streamWants (s : State) (slot ring : Nat) : Bool := s.streamGranules slot ring ≠ []

/-- A core port works on an instruction: its current block wants a unit. -/
def State.portWants (s : State) (c : BitVec 4) : Bool := (s.core c.toNat).wrg.flights ≠ []

def State.jobWants (s : State) : WrgJob → Bool
  | .idle => false
  | .port c => s.portWants c
  | .stream slot ring g => (s.streamGranules slot.toNat ring.toNat).contains g

def isStream : WrgJob → Bool
  | .stream _ _ _ => true
  | _ => false
/-- A unit holds a granule of a ring's next piece. -/
def onRing (slot : BitVec 3) (ring : BitVec 4) : WrgJob → Bool
  | .stream a b _ => a = slot && b = ring
  | _ => false

/-- The streaming engine's waiting granules, by slot and ring in the order of its passes (DESIGN CHOICE, log entry 70). -/
def State.streamWaits (s : State) : List WrgJob :=
  let rings := ((s.passes.map (fun p => (List.range 16).map (fun r => (p.slot, r)))).flatten).eraseDups
  ((rings.map (fun e => (s.streamGranules e.1.toNat e.2).map (WrgJob.stream e.1 (BitVec.ofNat 4 e.2)))).flatten).filter (fun j =>
    (s.wrgUnit j).isNone)

/-- The core ports that wait, round-robin by logical core number after the core last served. -/
def State.portWaits (s : State) : List WrgJob :=
  ((List.range 16).map (fun i => WrgJob.port (BitVec.ofNat 4 (s.wrg.lastCore.toNat + 1 + i)))).filter (fun j =>
    s.jobWants j && (s.wrgUnit j).isNone)

/-- The work that a free unit takes (R298). -/
def State.nextJob (s : State) : Option WrgJob :=
  let streaming := (s.wrg.units.filter (fun e => isStream e.2)).length
  match (if streaming < 4 then s.streamWaits else []) ++ s.portWaits with
  | j :: _ => some j
  | [] => none

/-- One free unit takes its work. -/
def State.wrgTake (s : State) : State :=
  match (List.range 8).find? (fun u => nget WrgJob.idle s.wrg.units u = .idle), s.nextJob with
  | some u, some j =>
    { s with wrg := { units := nset .idle s.wrg.units u j, lastCore := match j with | .port c => c | _ => s.wrg.lastCore } }
  | _, _ => s

/-- Units whose work has gone become free, and free units take work. -/
def State.wrgFill (s : State) : State :=
  let s1 := { s with wrg := { s.wrg with units := s.wrg.units.filter (fun e => s.jobWants e.2) } }
  (List.range 8).foldl (fun s _ => s.wrgTake) s1

/-! ### The core ports -/

/-- The head of the Wringer port's buffer issues once its tack is set (R146, R290). -/
def execWringerIssue (c : BitVec 4) (s : State) : Host.Outcome State Fault Refusal :=
  let n := c.toNat
  let k := s.core n
  match k.wrg.pend with
  | d :: _ =>
    (match wrgOf d.ins with
    | some f =>
      if s.unitsRun n && k.mayIssue n .wringer d then
        if s.wrgBounds n f d then
          .next (s.setCore n ((({ k with wrg := { k.wrg with pend := k.wrg.pend.drop 1 } }.consume f.cw f.tw).liftUsigs
            .wringer).addFlight .wringer (newFlight d []))).wrgFill
        else .next (s.excDisp n stBounds d)
      else .next s
    | none => .next s)
  | [] => .next s

/-- The block that a unit holds for a core's port is done: the unit is free again (R298). -/
def execWringerBlockDone (c : BitVec 4) (s : State) : Host.Outcome State Fault Refusal :=
  let n := c.toNat
  let s0 := s.wrgFill
  let k := s0.core n
  match k.wrg.flights with
  | fl :: _ =>
    (match wrgOf fl.d.ins with
    | some f =>
      if !s.unitsRun n || (s0.wrgUnit (.port c)).isNone then .next s0
      else if k.wexpHeld n f fl.d fl.blk then .next (s0.setCore n { k with wrg := { k.wrg with wait := true } })
      else .next ((wrgStep s0 n f fl).releaseUnit (.port c)).wrgFill
    | none => .next s0)
  | [] => .next s0

/-! ### The streaming engine -/

/-- The units that hold granules of a ring's piece are free again. -/
def State.releaseRing (s : State) (slot : BitVec 3) (ring : BitVec 4) : State :=
  { s with wrg := { s.wrg with units := s.wrg.units.filter (fun e => !onRing slot ring e.2) } }

/-- A pass's next piece is staged; one of a variant stream whose bytes are here comes through the units that hold its granules: where
fewer hold some than the piece has, they have taken the others after these (log entry 70). -/
def State.stageUnit (s : State) (p : Pass) (slot : BitVec 3) (ring : BitVec 4) : State :=
  if s.streamWants slot.toNat ring.toNat then
    let s0 := s.wrgFill
    if !s0.wrg.units.any (fun e => onRing slot ring e.2) then s0
    else ((s0.stageNext p ring.toNat).releaseRing slot ring).wrgFill
  else s.stageNext p ring.toNat

/-- All bytes of a ring's next piece are present and decrypted. -/
def execPieceStaged (slot : BitVec 3) (ring : BitVec 4) (s : State) : Host.Outcome State Fault Refusal :=
  if !s.storeOpen then .next s
  else match s.stagePass slot.toNat ring.toNat with
  | some p => .next (s.stageUnit p slot ring)
  | none =>
    match s.newAhead slot.toNat with
    | none => .next s
    | some (a, t) => .next (if s.seek a ring.toNat = .done then s else t.stageUnit a slot ring)

end Sys2Proof.Machine
end

