-- ==== Sys2Proof/Machine/CoreEvents.lean ====
section
/-! DEFINITION. Events of a core's waits and end (R167, R168, R186), gating (R31), patrol and error windows (R191, R462),
core faults from their first step to the end of the self-test (R463 to R469), DEVICE faults (R470) and the watchdog (R471). -/

namespace Sys2Proof.Machine

/-! ### Waits (R167, R186) -/

/-- The tacks that the head of a unit's pending buffer waits for are not all set. -/
def Core.headWaits (k : Core) (u : CoreUnit) (d : Disp) : Bool :=
  match u with
  | .matrix => (match mmaOf d.ins with | some m => !(k.tack m.ta && k.tack m.tb && (!m.drain || k.tack m.td)) | none => false)
  | .mangle => (match mglOf d.ins with | some f => !(k.tack f.tq && k.tack f.tk && k.tack f.td && k.tack f.tg) | none => false)
  | .vector => !k.tack (vecTacks d.ins).1
  | .dma => (match dmaOf d.ins with | some f => !k.tack f.tw | none => false)
  | .wringer => (match wrgOf d.ins with | some f => !k.tack f.tw | none => false)

/-- The Mangle instruction that waits for an earlier one's writes (R110): an issued one that reads what an earlier one has still
to write, or the next one while its descriptor or its page list is still to be written. -/
def Core.mglBlocked (k : Core) : Option Disp :=
  match k.mgl.flights.find? (fun f => !k.mglFree f) with
  | some f => some f.d
  | none =>
    match k.mgl.pend with
    | d :: _ => (match mglOf d.ins with | some f => if k.mglClear f d then none else some d | none => none)
    | [] => none

/-- The front end waits at TWAIT or COL: the opcode it waits at. -/
def State.frontWaits (s : State) (n : Nat) : Option Nat :=
  let k := s.core n
  match k.front with
  | .tack _ _ => some 0x22
  | .col _ _ _ _ _ => some 0x23
  | .running =>
    (match k.fetch with
    | .ins (.col _ _ ch tw _ _) =>
      let c := s.chan (s.chanOf n ch)
      if !k.tack tw || c.arrived.getLsbD n then some 0x23 else none
    | _ => none)
  | .stopped => none

/-- A wait exceeds CORE_WAIT_LIMIT: ST_TIMEOUT on that core. -/
def execWaitTimeout (c : BitVec 4) (w : Waiter) (s : State) : Host.Outcome State Fault Refusal :=
  let n := c.toNat
  let k := s.core n
  if !s.unitsRun n || !k.run then .next s
  else match w with
    | .front => (match s.frontWaits n with | some op => .next (s.exception n stTimeout op k.pc.toNat) | none => .next s)
    | .unit u =>
      (match (k.unit u).pend with
      | d :: _ =>
        if k.headWaits u d then .next (s.excDisp n stTimeout d)
        else (match u, k.mglBlocked with | .mangle, some b => .next (s.excDisp n stTimeout b) | _, _ => .next s)
      | [] => (match u, k.mglBlocked with | .mangle, some b => .next (s.excDisp n stTimeout b) | _, _ => .next s))
    | .ring flight =>
      (match findFlight k.dma flight with
      | some f => if s.waitsPiece n f then .next ((s.dmaDrop n flight).excDisp n stTimeout f.d) else .next s
      | none => .next s)

/-! ### The end of a core's part (R168) -/

/-- Nothing that the core dispatched has still to reach its release point; of the matrix unit, only drains count. -/
def Core.drained (k : Core) : Bool :=
  k.slds = [] && allUnits.all (fun u => (k.unit u).pend = [] && (k.unit u).usigs = []) &&
  k.mat.flights.all (fun f => !f.hasDrain) && k.mgl.flights = [] && k.vec.flights = [] && k.dma.flights = [] && k.wrg.flights = []

/-- A stopped core has drained: its part of the command has ended, with the core's own code. -/
def execCorePartEnd (c : BitVec 4) (s : State) : Host.Outcome State Fault Refusal :=
  let n := c.toNat
  let k := s.core n
  match k.cmd with
  | none => .next s
  | some r =>
    if k.run && k.stopped && k.drained && s.unitsRun n then
      let s1 := s.setCore n { k with run := false, code := none }
      (match k.code with
      | some v => .next (s1.modCmd r (fun (j : Cmd) => { j with codes := j.codes ++ [(c, v)] }))
      | none => .next s1)
    else .next s

/-! ### Gating (R31) -/

/-- A core's island has nothing inside and nothing waiting for it. -/
def Core.quiet (k : Core) : Bool := !k.run && k.drained && k.mat.flights = []

def putBit {w : Nat} (x : BitVec w) (i : Nat) (b : Bool) : BitVec w :=
  if b then x ||| ((1#w) <<< i) else x &&& ~~~((1#w) <<< i)

/-- The bit of `otherGated` of an island. -/
def otherIndex : Island → Option Nat
  | .hub => some 0
  | .dram => some 1
  | .flash => some 2
  | .pcie => some 3
  | .mgmt => some 4
  | .port n => some (8 + n.toNat)
  | .core _ => none
  | .seg _ => none

def State.setGated (s : State) (i : Island) (b : Bool) : State :=
  match i with
  | .core n => s.modCore n.toNat (fun k => { k with gated := b })
  | .seg n => { s with pwr := { s.pwr with segGated := putBit s.pwr.segGated n.toNat b } }
  | i => match otherIndex i with
    | some j => { s with pwr := { s.pwr with otherGated := putBit s.pwr.otherGated j b } }
    | none => s

/-- No core of a set has work that reaches beyond its island. -/
def State.coresQuiet (s : State) (ns : List Nat) : Bool := ns.all (fun n => (s.core n).quiet)
/-- A transfer of a core reads or writes DRAM. -/
def Flight.onDram (n : Nat) (f : Flight) : Bool :=
  ((dDesc f.desc).srcRows n ++ (dDesc f.desc).dstRows n).any (fun r => decide (dramBase ≤ r.1))
def State.dramQuiet (s : State) : Bool :=
  s.dram.rq.all (fun e => e.2 = []) && s.dram.wq.all (fun e => e.2 = []) && !s.dram.probing &&
  s.cores.all (fun e => e.2.dma.flights.all (fun f => !f.onDram e.1))
/-- No page read is under way, and no block is programmed, copied or erased. -/
def State.flashQuiet (s : State) : Bool :=
  s.store.programming = [] && s.store.reads.all (fun r => decide (r.until_ ≤ s.us)) &&
  s.store.blks.all (fun e => e.2.st ≠ .erasing && e.2.st ≠ .dest)
def State.portQuiet (s : State) (n : Nat) : Bool := (s.port n).replay = [] && (s.port n).outq = []
/-- No read or write of host memory is outstanding, and no command is there to be fetched. -/
def State.hostQuiet (s : State) : Bool :=
  s.spools.all (fun e => e.2.doors = []) && s.cmds.all (fun k => k.stage = .fetched || k.stage = .waiting) &&
  s.hostGran.all (fun e => e.2 ≠ some []) && s.ras.fwData.isNone
def State.mgmtQuiet (s : State) : Bool := !mgtBusy s && s.aon.posted = [] && !s.evt.flushGo && s.sec.destroyWait.isNone

/-- An island's FIFOs are empty and no neighbour holds a request for it (R31), as far as the state holds such requests: the hub's
neighbours are all the others. -/
def State.islandEmpty (s : State) : Island → Bool
  | .core n => (s.core n.toNat).quiet
  | .seg r => s.coresQuiet (s.ridgeCores r.toNat)
  | .hub => s.coresQuiet (List.range s.coreCount) && s.dramQuiet && s.flashQuiet && s.hostQuiet && s.mgmtQuiet &&
      (List.range 4).all s.portQuiet && s.passes = [] && s.colls = [] && s.models.all (fun e => e.2.st ≠ .loading)
  | .dram => s.dramQuiet
  | .flash => s.flashQuiet
  | .pcie => s.hostQuiet
  | .mgmt => s.mgmtQuiet
  | .port n => s.portQuiet n.toNat

/-- A gated core counts as P0, and its ridge holds the voltage of the highest point left (R433). -/
def State.gatePoint (s : State) : Island → State
  | .core n =>
    let s1 := s.movePoint n.toNat 0
    let r := s1.ridge n.toNat
    s1.modPwrPoint r (((s1.ridgeCores r).map (fun m => (s1.core m).point)).foldl max 0)
  | _ => s

/-- The governor gates an island that is empty and that nothing asks for. -/
def execIslandGate (i : Island) (s : State) : Host.Outcome State Fault Refusal :=
  .next (if s.islandEmpty i then (s.setGated i true).gatePoint i else s)

/-- Whether an island's clock stands: the governor has gated it, and no request has come for it since. An island that its request
leaves empty again within the same event is gated again at once (log entry 83). -/
def State.isGated (s : State) : Island → Bool
  | .core n => (s.core n.toNat).gated
  | .seg n => s.pwr.segGated.getLsbD n.toNat && s.islandEmpty (.seg n)
  | i => match otherIndex i with
    | some j => s.pwr.otherGated.getLsbD j && s.islandEmpty i
    | none => false

/-- A request wakes a gated island; one for a fenced core is not delivered. -/
def execIslandWake (i : Island) (s : State) : Host.Outcome State Fault Refusal :=
  match i with
  | .core n => .next (if (s.core n.toNat).fence = .inService then s.setGated i false else s)
  | i => .next (s.setGated i false)

/-! ### Patrol and windows (R191, R462) -/

def State.memGated (s : State) (m : MemSel) : Bool :=
  match memCore m with
  | some c => !s.clocked c || decide (s.coreCount ≤ c)
  | none => s.isGated .hub

/-- The place of a memory's first granule in the pass that reads it: a core's memories in one pass, shared memory in its own
(R191; log entry 41). -/
def patrolBase : MemSel → Nat
  | .cmem _ => 0
  | .bufA _ => 0x80000
  | .bufB _ => 0x82000
  | .bufD _ => 0x86000
  | .shm => 0

/-- Granules of a pass. -/
def patrolLen : MemSel → Nat
  | .shm => 0x400000
  | _ => 0x88000

/-- The place that patrol reads next. -/
def State.patrolAt (s : State) (m : MemSel) : Nat :=
  match memCore m with
  | some c => (s.core c).patrol
  | none => s.shmPatrol

def State.setPatrol (s : State) (m : MemSel) (p : Nat) : State :=
  match memCore m with
  | some c => s.modCore c (fun k => { k with patrol := p })
  | none => { s with shmPatrol := p }

/-- Patrol goes on to the next granule; a complete pass of a core's memories counts. -/
def State.patrolOn (s : State) (m : MemSel) : State :=
  let p := s.patrolAt m + 1
  let s1 := s.setPatrol m (p % patrolLen m)
  match memCore m with
  | some c => if p = patrolLen m then s1.setReg (coreOff c 0xC14) (s1.reg (coreOff c 0xC14) + 1) else s1
  | none => s1

/-- Patrol reads its next granule, whose check bits show what `found` says: a repeating pass in order, which stands while the island is
gated (R191). -/
def execPatrolScrub (mem : MemSel) (granule : Nat) (found : Ecc) (s : State) : Host.Outcome State Fault Refusal :=
  if s.memGated mem || decide (memSize mem ≤ 8 * granule) || decide (s.patrolAt mem ≠ patrolBase mem + granule) then .next s
  else
    let r := s.ram mem
    let s1 := if found = .clean then s else s.setRam mem { r with ecc := nset .clean r.ecc granule found }
    .next ((s1.checkGranule mem true granule).patrolOn mem)

/-- A window of 1 s ends: the counts and their limits start again. -/
def execCeWindow (s : State) : Host.Outcome State Fault Refusal :=
  let s1 := (List.range s.coreCount).foldl (fun (s : State) n => s.modCore n (fun k => { k with ceWindow := 0, ceActed := false })) s
  .next { s1 with ras := { s1.ras with shmCe := 0, shmActed := false } }

/-! ### Core faults (R464 to R469) -/

/-- A cell that an array check names lies in the sub-array that it names: sub-array q stands at block row q / p and block column
q mod p (R70). -/
def Core.checkFits (k : Core) : CoreCheck → Bool
  | .array _ sub _ row col => sub.toNat = row.toNat / packSide k.packing * packP k.packing + col.toNat / packSide k.packing
  | _ => true

/-- A check names a core as failed (R464 steps 1 to 4). A core that the part does not have has no checks, and a cell of one sub-array
is not named under another. -/
def execCoreFault (c : BitVec 4) (check : CoreCheck) (s : State) : Host.Outcome State Fault Refusal :=
  let n := c.toNat
  if decide (s.coreCount ≤ n) || !checkOk check || !(s.core n).checkFits check then .next s
  else .next ((s.abandonSwitches n).coreFault n check)

/-- The map ranges that an issued vector instruction writes. -/
def Flight.vecWrites (f : Flight) : List (Nat × Nat) :=
  match f.d.ins with
  | .vst _ _ _ fmt sp lm1 _ _ _ => storeRanges sp fmt lm1 f.d.x0 f.d.x1
  | .norm _ _ _ _ => (normDesc f.desc).writes
  | _ => streamWrites f.d

/-- A drain has begun once its tile is closed and no earlier drain of its sub-array is open (R84, R157). -/
def Core.drainBegun (k : Core) (f : Flight) : Bool :=
  f.hasDrain && (f.phase = 1 || f.drainOnly) &&
  (match mmaOf f.d.ins with
  | some m => k.mat.flights.all (fun g => !(g.onSub m.q && g.hasDrain && decide (g.d.sn < f.d.sn)))
  | none => false)

/-- The engine moves bytes of a descriptor: it is active and not held, and a RING transfer has its piece. -/
def Core.dmaBegun (k : Core) (n : Nat) (f : Flight) : Bool :=
  if (dDesc f.desc).kind = 1 then f.phase = 1 else k.dmaActive n f && !k.dmaHeld n f

/-- The frame bytes, in shared memory, of the blocks of an issued WCMP whose header word is not written (R302). -/
def wcmpOpen (f : Flight) : List (Nat × Nat) :=
  match wrgOf f.d.ins with
  | some w =>
    if w.comp then ((List.range (blockCount f.d.glen)).drop f.blk).map (fun j =>
      (frameArea w f.d + frameOff f.d.glen j, rawLen f.d.glen j)) else []
  | none => []

/-- The result bytes of the block of WEXP that a unit holds: it may be partly written (R302). -/
def wexpOpen (f : Flight) : Nat × Nat :=
  match wrgOf f.d.ins with
  | some w =>
    if w.comp then (0, 0) else ((if w.bufA then 0x400000 else 0) + f.d.x2.toNat + 1024 * f.blk, rawLen f.d.glen f.blk)
  | none => (0, 0)

/-- Where the issued instructions of a core that have begun to write have still to write, as map ranges; `held` when a Wringer unit
holds the block of its port. -/
def Core.openWrites (k : Core) (n : Nat) (held : Bool) : List (Nat × Nat) :=
  ((k.mat.flights.filter k.drainBegun).map Flight.drainMap).flatten ++
  ((k.mgl.flights.take 1).map (fun f => match mglOf f.d.ins with | some m => (mglDesc f.desc).writes m.op | none => [])).flatten ++
  (k.vec.flights.map Flight.vecWrites).flatten ++
  ((k.dma.flights.filter (k.dmaBegun n)).map (fun f => (dDesc f.desc).dstRows n)).flatten ++
  (if held then (k.wrg.flights.take 1).map wexpOpen else [])

/-- The frames that a core's abandoned WCMP instructions leave undefined. -/
def State.dropFrames (s : State) (n : Nat) : State :=
  (((s.core n).wrg.flights.map wcmpOpen).flatten).foldl (fun (s : State) r => s.scramble .shm r.1 r.2) s

/-- The regions that abandoned instructions of a core leave undefined, besides those frames. -/
def State.openWrites (s : State) (n : Nat) : List (Nat × Nat) :=
  (s.core n).openWrites n (s.wrgUnit (.port (BitVec.ofNat 4 n))).isSome

def UnitSt.empty : UnitSt := UnitSt.none

/-- The tags that a core's abandoned instructions hold stay out until their responses have come, or their time is over (R466). -/
def State.holdTags (s : State) (n : Nat) : State :=
  { s with ras := { s.ras with tags := s.ras.tags.filter (fun t => t.2.toNat ≠ n),
                               orphans := s.ras.orphans ++ (s.ras.tags.filter (fun t => t.2.toNat = n)).map (·.1) } }

/-- The instructions of a core that have not released are abandoned: what they had begun to write is undefined, which is
any of the bytes they write (R464 step 4), and so is what its part of a command had written (R19). Their tags return. -/
def State.abandon (s : State) (n : Nat) : State :=
  let s1 := ((s.dropFrames n).scrambleMap n (s.openWrites n)).undefine n
  let s2 := s1.modCore n (fun (k : Core) =>
    { k with run := false, front := .stopped, pendingG := [], slds := [], mat := .none, mgl := .none, vec := .none, dma := .none,
             wrg := .none, code := none })
  (s2.holdTags n).releaseUnit (.port (BitVec.ofNat 4 n))

/-- The latched halves of a core's two counts return 0 until they are latched again: their domain is CORE (R88, R113, R510). -/
def State.dropLatches (s : State) (n : Nat) : State := (s.setLatch (coreOff n 0x81C) 0).setLatch (coreOff n 0x908) 0

/-- The controller drops the reads that wait for a core; its writes complete (Table 23 of R330). -/
def State.dropReads (s : State) (n : Nat) : State :=
  (List.range 16).foldl (fun s c =>
    if (s.dram.reads c).any (fun q => q.req.toNat = n) then
      s.modDram (fun d => (d.setReads c ((d.reads c).filter (fun q => q.req.toNat ≠ n))).drainRule c)
    else s) s

/-- What a page read fetches is still asked for: by a pass, a load or a PATCH of its extent's model (R254). -/
def State.readAsked (s : State) (r : FlashRead) : Bool :=
  match r.ext with
  | none => true
  | some x =>
    let m := (s.extent x.1).model.toNat
    !(s.extent x.1).inUse || s.passesOf m ≠ [] || (s.model m).st = .loading || (s.model m).patch.isSome

/-- The reads that only a core's ended work asked for end, and release their pages (R254). -/
def State.endReads (s : State) : State := { s with store := { s.store with reads := s.store.reads.filter s.readAsked } }

/-- A CORE reset of one core (R66, R115, R137, R171, R196, R302, R354): its program, binding, packing, micro-programs and
table memory stay, and so do its fault registers. A reset of any kind stops a pattern run, which then has ended: DONE, with what it has
counted (R505). -/
def State.coreReset (s : State) (n : Nat) : State :=
  let k := s.core n
  let s1 := (s.dropReads n).endReads.setCore n
    { Core.reset with imem := k.imem, imemLen := k.imemLen, slot := k.slot, packing := k.packing, bind := k.bind, micro := k.micro,
                      mtable := k.mtable, fence := k.fence, faultStep := k.faultStep, faultTimes := k.faultTimes, retest := k.retest,
                      gated := k.gated, point := nget 0 s.pwr.ridgePoint (s.ridge n),
                      stretch := k.stretch && decide (0 < nget 0 s.pwr.ridgePoint (s.ridge n)), ceWindow := k.ceWindow, ceActed := k.ceActed,
                      orphans := k.orphans }
  let s2 := ([0x820, 0x90C, 0xA08, 0xC08, 0xC14].foldl (fun s off => s.setReg (coreOff n off) 0) (s1.setReg (clkStretch n) 0)).dropLatches n
  if s2.tst.running then s2.tstEnd s2.us else s2

/-- The commands of the spools that a core's fault affects: fetched, not ended, and not a started command of another kind. -/
def State.discards (s : State) (n : Nat) : List Cmd :=
  let spools := (s.runsOn n).map (fun k => (k.ref.ctx, k.ref.spool))
  s.cmds.filter (fun k => spools.contains (k.ref.ctx, k.ref.spool) && k.stage ≠ .ended && (k.isRun || k.stage ≠ .started))

/-- The conditions of a discarded command besides the discard (R18): what its cores and its pass had raised. The ST_FENCED that a
cancelled Col gives its cores is part of the discard (R465). -/
def State.discardCodes (s : State) (k : Cmd) : List Nat :=
  (k.conds ++ (s.coresOf k.ref).filterMap (fun n => (s.core n).code.map (fun c => c.toNat))).filter (fun c => c ≠ stFenced)

/-- A command ends with its discard, and its record is written (R465). -/
def State.discardCmd (s : State) (k : Cmd) (codes : List Nat) : State :=
  let st := if s.sec.quarantine then stTamper else stDiscarded
  let s1 := ((s.modCmd k.ref (fun (j : Cmd) => { j with codes := [] })).recordOthers k.ref st codes).endBefore k.ref st
  match s1.cmd? k.ref with
  | some j => s1.writeRecord j
  | none => s1

/-- Steps 4 to 6 of R464 for the core whose deadline has come. -/
def State.fence (s : State) (n : Nat) : State :=
  let s0 := s.stopPeers n
  let gone := s0.discards n
  let cores := ((gone.filter (fun k => k.stage = .started)).map (fun k => s0.coresOf k.ref)).flatten.eraseDups
  let s1 := (n :: cores.filter (fun m => m ≠ n)).foldl State.abandon s0
  let s2 := gone.foldl (fun s k => s.discardCmd k (s0.discardCodes k)) s1
  let s3 := s2.record 0x0103 n 4 0 (toLE 2 gone.length ++ toLE 2 (s.core n).orphans)
  (((s3.coreReset n).modCore n (fun k => { k with faultStep := 3, orphans := 0 })).flushLog).keyDestroyTry.wrgFill

/-- A response for an orphaned tag is discarded (R466). -/
def execOrphanResponse (tag : BitVec 16) (s : State) : Host.Outcome State Fault Refusal :=
  .next { s with ras := { s.ras with orphans := s.ras.orphans.filter (fun t => t ≠ tag) } }

/-- An orphaned tag without a response returns after 10 ms, with TAG_LOST. -/
def execOrphanTagTimeout (tag : BitVec 16) (s : State) : Host.Outcome State Fault Refusal :=
  .next (if s.ras.orphans.contains tag then
      (({ s with ras := { s.ras with orphans := s.ras.orphans.filter (fun t => t ≠ tag) } }).bump 0xD0010 24 8 1).record 0x0106
        srcRas 0 0 (toLE 2 tag.toNat)
    else s)

/-- Channels of a core serve again once no other of their cores is fenced (R465). -/
def State.restoreChannels (s : State) (n : Nat) : State :=
  (s.channelsOf n).foldl (fun s key =>
    let c := s.chan key
    if (List.range 16).any (fun m => c.mask.getLsbD m && (s.core m).fence ≠ .inService) then s
    else s.setChan key { c with cancelled := false }) s

/-- A core returns to service (R467). -/
def State.returnCore (s : State) (n : Nat) : State :=
  let k := s.core n
  let s1 := (s.setCore n { k with fence := .inService, faultStep := 0, retest := false }).restoreChannels n
  (s1.record 0x0104 n 0 0 (toLE 1 (min 255 (recentFaults s k).length))).signal 1

/-- The self-test of a fenced core ends (R467): a return needs a pass and fewer than three faults within 24 h. A CORE_RETEST passes when no
fault of the core fell into it (R469). -/
def execCoreSelfTestEnd (c : BitVec 4) (passed : Bool) (s : State) : Host.Outcome State Fault Refusal :=
  let n := c.toNat
  let k := s.core n
  if k.fence = .retired && k.retest then
    if passed && k.faultStep = 3 then .next (((s.returnCore n).flushLog).answer stOk [])
    else .next ((s.setCore n { k with retest := false, faultStep := 0 }).answer stFenced [])
  else if k.fence = .testing && k.faultStep = 3 then
    if passed && decide ((recentFaults s k).length < 3) then .next (s.returnCore n).flushLog
    else .next (s.retireCore n).flushLog
  else .next s

/-! ### Faults outside the cores (R470, R471) -/

/-- Every running core stops dispatching; issued instructions go on (R165 steps 1 to 3). -/
def State.stopAll (s : State) : State :=
  (List.range 16).foldl (fun (s : State) n => if (s.core n).run then s.modCore n Core.stopFront else s) s

/-- A check failure in a unit outside the cores that has no spare. `unit` is its SOURCE value. -/
def execDeviceFault (unit : BitVec 8) (check : BitVec 8) (s : State) : Host.Outcome State Fault Refusal :=
  if decide (unit.toNat < 0x10) || decide (0x1D < unit.toNat) then .next s
  else
    let s1 := (s.stopAll).record 0x0A01 srcRas 5 0 (toLE 1 unit.toNat ++ toLE 1 check.toNat)
    .next ((({ s1 with pcie := { s1.pcie with aer := true } }).emit .aerInternal).flushLog)

/-- The data of FW_STAGED, FW_ACTIVATED and FW_ROLLBACK. -/
def fwData (f : Fw) : List Byte :=
  toLE 1 (boolNat f.target) ++ [0, 0, 0] ++ toLE 4 f.svn.toNat ++ toLE 4 f.version.toNat

/-- The previous management image runs again, and the two change roles (R472). -/
def State.mcRollback (s : State) : State :=
  match s.ras.mcPrev with
  | some p =>
    ({ s with ras := { s.ras with mcRun := p, mcPrev := some s.ras.mcRun } }).record 0x0803 srcMgt 0 0 (fwData p)
  | none => s

def hourUs : Nat := 3600000000

/-- A CORE_RETEST whose request has ended with the controller's restart: its core stays RETIRED, and nothing answers (R471). -/
def State.endRetest (s : State) (n : Nat) : State :=
  if (s.core n).retest then s.modCore n (fun k => { k with retest := false, faultStep := 0 }) else s

/-- The watchdog restarts the controller; the third restart within an hour takes the previous image. -/
def execMcWatchdog (s : State) : Host.Outcome State Fault Refusal :=
  let times := s.us :: s.ras.mcRestarts.filter (fun t => decide (s.us < t + hourUs))
  let s0 := (List.range 16).foldl State.endRetest s
  let s1 := { s0 with ras := { s.ras with mcRestarts := times, fwData := none } }
  let s2 := if mgtBusy s1 then s1.answer stTimeout [] else s1
  let s3 := (s2.setReg 0xD0000 (s2.reg 0xD0000 ||| 0x04000000#32)).record 0x0804 srcMgt 0 0 (toLE 1 (min 255 times.length))
  .next (if 3 ≤ times.length then s3.mcRollback else s3)

end Sys2Proof.Machine
end

