-- ==== Sys2Proof/Machine/Link.lean ====
section
/-! DEFINITION. Ulirvo Link (R381 to R399): ports, replay and credits, the release of Col channels and their system scope (R32 to R36,
R152, R341, R390), and collectives. -/

namespace Sys2Proof.Machine

/-! ### Ports (R386 to R388) -/

/-- A collective's record and its end (R394): STATUS and STATE in one write; any code but ST_OK leaves DST undefined. -/
def Coll.u (c : Coll) (off len : Nat) : Nat := leAt c.record off len
def Coll.op (c : Coll) : Nat := c.u 0 1
def Coll.root (c : Coll) : Nat := c.u 1 1
def Coll.members (c : Coll) : BitVec 16 := BitVec.ofNat 16 (c.u 2 2)
def Coll.len (c : Coll) : Nat := c.u 0xC 4
def Coll.tag (c : Coll) : Nat := c.u 0x10 4
def Coll.m (c : Coll) : Nat := (nodesOf c.members).length
def Coll.rank (c : Coll) (node : Nat) : Nat := ((nodesOf c.members).filter (fun n => decide (n < node))).length
/-- Chunk k of an input: offset and length (R395). -/
def Coll.chunk (c : Coll) (k : Nat) : Nat × Nat :=
  let size := 64 * ((c.len + 64 * c.m - 1) / (64 * c.m))
  (k * size, min size (c.len - k * size))
def Coll.outLen (c : Coll) (node : Nat) : Nat :=
  if c.op = 3 then c.len * c.m else if c.op = 4 then (c.chunk (c.rank node)).2 else c.len

def State.collOff (s : State) (slot idx : Nat) : Nat := s.cqBase slot + 64 * idx

def State.otherMembers (s : State) (c : Coll) : List Nat := (nodesOf c.members).filter (fun n => n ≠ s.node)

/-- The number under which this device takes the DATA flits of a collective: its queue slot, and the low bits of the record's index
(log entry 47). One collective of a queue is in hand at a time, so no two have one number. -/
def Coll.number (c : Coll) : Nat := c.slot.toNat + 8 * (c.idx % 8)

/-- The handshake of the record that a queue works on: one CTRL flit to every other member, with the record, and the transfer number in
OFFSET. -/
def State.collCtrl (s : State) (c : Coll) : State :=
  (s.otherMembers c).foldl (fun s n =>
    s.sendTo { Flit.zero with typ := 3, src := BitVec.ofNat 4 s.node, dst := BitVec.ofNat 4 n, len := 64, offset := w32 c.number,
                              payload := padTo 112 c.record } 0) s

/-- The record of a queue that is in work: the one taken first (R396). -/
def State.collHead (s : State) (slot : BitVec 3) : Option Coll := s.colls.find? (fun c => c.slot = slot)

/-- A collective has left its queue; where it was the one in work, the next gets its handshake. -/
def State.dropColl (s : State) (c : Coll) : State :=
  let s1 := { s with colls := s.colls.filter (fun x => !(x.slot = c.slot && x.idx = c.idx)) }
  if (s.collHead c.slot).map (·.idx) ≠ some c.idx then s1
  else match s1.collHead c.slot with
    | none => s1
    | some d => s1.collCtrl d

/-- The 4-byte write of STATUS and STATE. -/
def State.collStatus (s : State) (slot idx status : Nat) : State :=
  s.writeRam .shm (s.collOff slot idx + 0x3C) (toLE 2 status ++ [3, 0])

def State.endColl (s : State) (c : Coll) (status : Nat) : State :=
  let slot := c.slot.toNat
  let s1 := s.dropColl c
  let n := c.outLen s.node
  let s2 := if status ≠ stOk && s1.inWork slot (c.u 8 4) n then s1.scramble .shm (c.u 8 4) n else s1
  s2.collStatus slot c.idx status

/-- The operations of system channels are cancelled (R388): each waiting participant receives 0x0008 in gstat and stops with
ST_TIMEOUT. -/
def State.cancelSys (s : State) (keys : List Nat) : State := s.endWaits keys stTimeout Chan.noOp

/-- A system channel's operation needs a port: toward the root, or toward a member whose arrival comes through here. -/
def State.chanNeeds (s : State) (key p : Nat) : Bool :=
  let m := s.members (key % 16)
  let others := if s.node = rootOf m then (nodesOf m).filter (fun n => n ≠ s.node)
    else rootOf m :: nodesOf (m &&& Config.routedThrough s.node (rootOf m) &&& ~~~nodeBit s.node)
  others.any (fun n => (s.hops n).head? = some p) || (s.chan key).from_.any (fun e => e.2.map (·.toNat) = some p)

/-- The system channels with an operation in hand: arrivals here, or of other members while no bitstream here assigns the channel. -/
def State.sysBusy (s : State) : List Nat :=
  nkeys s.chans (fun c => c.sys ≠ 0 || c.from_ ≠ [] || (c.scope = 2 && c.slot.isSome && (c.arrived ≠ 0 || c.sysSent)))

/-- A collective needs a port toward one of its members. -/
def State.collNeeds (s : State) (p : Nat) (c : Coll) : Bool :=
  (nodesOf c.members).any (fun n => n ≠ s.node && (s.hops n).contains p)

/-- What waits at a port is dropped. -/
def State.dropQueue (s : State) (n : Nat) : State :=
  let q := (s.port n).outq
  q.foldl (fun s w => s.creditBack w.holds) (s.setPort n { s.port n with outq := [] })

/-- A port goes DOWN. -/
def State.portDown (s : State) (n : Nat) : State :=
  let s1 := (s.setPort n { s.port n with st := 3, replay := [], retrain := false, fails := 0 }).dropQueue n
  let s2 := (s1.colls.filter (s1.collNeeds n)).foldl (fun s c => s.endColl c stTimeout) s1
  let s3 := s2.cancelSys (s2.sysBusy.filter (fun key => s2.chanNeeds key n))
  s3.ulkErr 0 n

def State.trainPort (s : State) (n : Nat) (retrain : Bool) : State :=
  s.setPort n { s.port n with en := true, st := 1, retrain := retrain }

/-- A register that the host and the management controller both write (R398): the first over its open link, the second from the time it
runs. -/
def State.byEither (s : State) (t : State) : State :=
  if s.linkOpen || (decide (1 ≤ s.aon.groups) && !(s.pcie.perst && s.aon.groups = 5)) then t else s

/-- A write of EN = 1 to a disabled port. Quarantine keeps every port DISABLED (R425; log entry 54). -/
def execPortEnable (p : BitVec 2) (val : Word) (s : State) : Host.Outcome State Fault Refusal :=
  .next (s.byEither (if bitOf val 31 && !(s.port p.toNat).en && !s.sec.quarantine then (s.trainPort p.toNat (bitOf val 30)).tstBreak
    else s))

def execPortDisable (p : BitVec 2) (val : Word) (s : State) : Host.Outcome State Fault Refusal :=
  let n := p.toNat
  .next (s.byEither (if !bitOf val 31 && (s.port n).en then (s.setPort n { s.port n with en := false }).portDown n else s))

def execPortRetrain (p : BitVec 2) (val : Word) (s : State) : Host.Outcome State Fault Refusal :=
  .next (s.byEither (if bitOf val 31 && bitOf val 30 && (s.port p.toNat).en then s.trainPort p.toNat true else s))

/-- Width by the lanes that passed step 3; none where too few did. -/
def widthOf (lanes : BitVec 8) : Option (BitVec 2) :=
  if lanes = 0xFF then some 0 else if lanes &&& 0x0F = 0x0F then some 1 else if lanes &&& 0xF0 = 0xF0 then some 2 else none

/-- Training ends: UP, MISWIRED (R387) or DOWN. A retrained port sends again what was not acknowledged. -/
def execPortTrainingDone (p : BitVec 2) (t : Training) (s : State) : Host.Outcome State Fault Refusal :=
  let n := p.toNat
  let x := s.port n
  if x.st ≠ 1 then .next s
  else match t with
    | .failed lanes => .next ((s.setPort n { x with lanes := lanes }).portDown n)
    | .up lanes rate16 peer =>
      match widthOf lanes with
      | none => .next ((s.setPort n { x with lanes := lanes }).portDown n)
      | some w =>
        let y := { x with width := w, rate16 := rate16, peer := peer, lanes := lanes, retrain := false, fails := 0, nakSent := false,
                          credits := fullCredits }
        .next (if peer.toNat = s.node || !(s.hops peer.toNat).contains n then ((s.setPort n { y with st := 4 }).dropQueue n).ulkErr 1 n
          else (x.replay.foldl (fun s f => s.emit (.flit p (y.acked f))) (s.setPort n { y with st := 2 })).pump n)

def execPortRetry (p : BitVec 2) (s : State) : Host.Outcome State Fault Refusal :=
  .next (if (s.port p.toNat).en && (s.port p.toNat).st = 3 then s.trainPort p.toNat (s.port p.toNat).retrain else s)

def execPeerSilence (p : BitVec 2) (s : State) : Host.Outcome State Fault Refusal :=
  .next (if (s.port p.toNat).st = 2 then s.portDown p.toNat else s)

/-! ### Replay (R384) -/

/-- Every unacknowledged flit is sent again; a flit that fails eight times in a row retrains the port. -/
def State.replayAll (s : State) (n : Nat) : State :=
  let p := s.port n
  if p.replay = [] then s
  else
    let s1 := (p.replay.foldl (fun s f => s.emit (.flit (BitVec.ofNat 2 n) (p.acked f))) s).bump (0xB010C + 0x20 * n) 0 32 1
    let s2 := s1.setPort n { s1.port n with fails := p.fails + 1 }
    if 8 ≤ p.fails + 1 then (s2.setPort n { s2.port n with fails := 0 }).trainPort n true else s2

def execReplayTimeout (p : BitVec 2) (s : State) : Host.Outcome State Fault Refusal :=
  .next (if (s.port p.toNat).st = 2 then s.replayAll p.toNat else s)

/-- A flit at or before a sequence number. -/
def covered (ack : BitVec 12) (f : Flit) : Bool := decide ((ack - f.seq).toNat < 2048)

/-- An acknowledgement and returned credits from a flit's link word. -/
def State.linkWord (s : State) (n : Nat) (f : Flit) : State :=
  let p := s.port n
  let rest := p.replay.dropWhile (covered f.ack)
  let pool := f.crvc.toNat
  (s.setPort n { p with replay := rest, fails := if rest.length < p.replay.length then 0 else p.fails,
                        credits := nset 0 p.credits pool (p.creditsOf pool + f.credits.toNat) }).pump n

/-- A flit that is discarded: counted, and answered by one NAK. -/
def State.discardFlit (s : State) (n : Nat) : State :=
  let p := s.port n
  let s1 := s.bump (0xB0108 + 0x20 * n) 0 32 1
  if p.nakSent then s1
  else (s1.setPort n { p with nakSent := true }).emit (.flit (BitVec.ofNat 2 n) (p.acked { Flit.zero with typ := 4 }))

def execFlitCrcFail (p : BitVec 2) (s : State) : Host.Outcome State Fault Refusal :=
  .next (if (s.port p.toNat).st = 2 then s.discardFlit p.toNat else s)

/-- A sequenced flit is received: in order it is acknowledged and taken by `act`, and its buffer place is free again unless `act` forwards
it; a repeated one is dropped; any other is discarded. The link word of a flit whose CRC holds is valid even then (R382). -/
def State.takeFlit (s : State) (n : Nat) (f : Flit) (vcOk fwd : Bool) (act : State → State) : State :=
  let p := s.port n
  let behind := (p.rxSeq - f.seq).toNat
  if p.st ≠ 2 then s
  else if !vcOk then s.discardFlit n
  else if behind = 0 then
    let s1 := (s.setPort n { p with rxSeq := p.rxSeq + 1, nakSent := false }).linkWord n f
    let s2 := s1.emit (.flit (BitVec.ofNat 2 n) (ackFlit (s1.port n) (poolOfFlit f) (if fwd then 0 else 1)))
    act s2
  else if behind ≤ 256 then s.linkWord n f
  else (s.linkWord n f).discardFlit n

def execFlitIdle (p : BitVec 2) (f : Flit) (s : State) : Host.Outcome State Fault Refusal :=
  .next (if f.typ = 0 && (s.port p.toNat).st = 2 then s.linkWord p.toNat f else s)

def execFlitNak (p : BitVec 2) (f : Flit) (s : State) : Host.Outcome State Fault Refusal :=
  .next (if f.typ = 4 && (s.port p.toNat).st = 2 then (s.linkWord p.toNat f).replayAll p.toNat else s)

/-- A handshake for this node is consumed: what it says comes with COLLECTIVE_MATCH. Another is forwarded. -/
def execFlitCtrl (p : BitVec 2) (f : Flit) (s : State) : Host.Outcome State Fault Refusal :=
  .next (if f.typ ≠ 3 then s
    else if f.dst.toNat = s.node then s.takeFlit p.toNat f (f.vc = 0) false id
    else s.takeFlit p.toNat f (f.vc = 0) true (fun t => t.forward p.toNat f 0))

/-! ### The Col network across devices (R390) -/

/-- The release goes back to the nodes whose arrivals came straight here, each by the port that its arrival came by. -/
def State.sendRelease (s : State) (key : Nat) (data : List Byte) : State :=
  (s.chan key).from_.foldl (fun s e =>
    match e.2 with
    | some p => s.sendOn p.toNat { flit := colFlit s.node e.1 (key % 16) true 0 data, holds := none }
    | none => s) s

/-! ### Release of a channel (R33, R152, R341, R390) -/

/-- The counters that a snapshot latches on a core; CYCLE is a free value. -/
def State.snapshot (s : State) (n : Nat) (sel : BitVec 8) : List Byte × State :=
  let k := s.core n
  let d := s.drawBits 64
  let cyc := if sel.getLsbD 0 then toLE 8 d.1.toNat else []
  let beats := if sel.getLsbD 1 then toLE 8 k.beats.toNat else []
  let blocks := if sel.getLsbD 2 then toLE 8 k.blocks.toNat else []
  (cyc ++ beats ++ blocks, d.2)

/-- A participant is released: its data is written, gstat reads ST_OK, TS is set. -/
def State.releaseCore (s : State) (c : Chan) (n : Nat) : State :=
  match (s.core n).front with
  | .col _ _ gaddr gstat ts =>
    let r := if colSnapshot c then s.snapshot n c.src else (c.data, s)
    let write := colSnapshot c || (colBroadcast c && (c.src.toNat ≠ n || c.scope = 2))
    let s1 := if write then (r.2.writeRam (.cmem (BitVec.ofNat 4 n)) gaddr.toNat r.1).note n true [(gaddr.toNat, r.1.length)] else r.2
    s1.modCore n (fun k => { ((k.setG gstat 0).setTack ts).advance with front := .running })
  | _ => s

/-- Every participant of this device is released, and the channel is idle. -/
def State.releaseAll (s : State) (key : Nat) : State :=
  let c := s.chan key
  let ns := (maskCores c.mask).filter (fun n => waitsAt (s.core n) key)
  (ns.foldl (fun s n => s.releaseCore c n) s).setChan key c.noOp

/-- The root's release: when every member has arrived, it goes to them and this device's participants. -/
def State.rootRelease (s : State) (key : Nat) : State := (s.sendRelease key (s.chan key).data).releaseAll key

/-- The gather of a system channel on this device, once its own participants have arrived: its arrival goes toward the root, or the
root releases. -/
def State.colGather (s : State) (key : Nat) : State :=
  let c := s.chan key
  let m := s.members (key % 16)
  let root := rootOf m
  let others := m &&& ~~~nodeBit s.node
  if !m.getLsbD s.node then s
  else if s.node = root then (if c.sys &&& others = others then s.rootRelease key else s)
  else
    let below := Config.routedThrough s.node root &&& others
    if c.sysSent || c.sys &&& below ≠ below then s
    else
      (s.setChan key { c with sysSent := true }).sendTo (colFlit s.node root (key % 16) false (nodeBit s.node ||| c.sys) c.data) 0

/-- A system channel may gather: it is assigned, not cancelled, and every participant of this device has arrived. -/
def Chan.gathers (c : Chan) : Bool := c.slot.isSome && !c.cancelled && c.scope = 2 && c.arrived = c.mask

/-- A release has reached this member: it goes on to the members behind, and frees the participants. An operation whose arrival this member
has taken back (R166) releases nobody here. -/
def State.colReleased (s : State) (key : Nat) (data : List Byte) : State :=
  let c := s.chan key
  if !c.sysSent && s.node ≠ rootOf (s.members (key % 16)) then
    (s.sendRelease key data).setChan key { c with sys := 0, from_ := [] }
  else ((s.setChan key { c with data := data }).sendRelease key data).releaseAll key

/-- A member behind this one has taken back its arrivals; what this member has sent with them goes back too (R166). -/
def State.colWithdrawn (s : State) (key : Nat) (f : Flit) : State :=
  let t := s.withdraw key
  let c := t.chan key
  t.setChan key { c with sys := c.sys &&& ~~~BitVec.ofNat 16 (getBits f.offset 16 16), from_ := nset none c.from_ f.src.toNat none }

/-- An arrival, a release, a withdrawal or a cancellation that has reached this member, by port p. An arrival may be the one that a
gather still waits for. -/
def State.colArrive (s : State) (p : BitVec 2) (f : Flit) : State :=
  let key := 64 + getBits f.offset 0 4
  let c := s.chan key
  let data := f.payload.take f.len.toNat
  if bitOf f.offset 5 then s.cancelSys [key]
  else if bitOf f.offset 6 then s.colWithdrawn key f
  else if bitOf f.offset 4 then s.colReleased key data
  else
    let c1 := { c with sys := c.sys ||| BitVec.ofNat 16 (getBits f.offset 16 16), from_ := nset none c.from_ f.src.toNat (some p) }
    if c1.gathers then (s.setChan key c1).colGather key else s.setChan key c1

/-- A COL flit on its way through a device: an arrival leaves the port it came by, and the release goes back there (R390). -/
def State.colPass (s : State) (p : BitVec 2) (f : Flit) : State :=
  let key := 64 + getBits f.offset 0 4
  let c := s.chan key
  if bitOf f.offset 5 then s.forward p.toNat f 0
  else if bitOf f.offset 4 then
    match nget none c.from_ f.dst.toNat with
    | none => s.forward p.toNat f 0
    | some q => (s.setChan key { c with from_ := nset none c.from_ f.dst.toNat none }).sendOn q.toNat
        { flit := f, holds := some (p, BitVec.ofNat 2 (poolOfFlit f)) }
  else (s.setChan key { c with from_ := nset none c.from_ f.src.toNat (if bitOf f.offset 6 then none else some p) }).forward p.toNat f 0

/-- A COL flit that this device takes: its own, or an arrival that a member on the way takes in. -/
def State.colMine (s : State) (f : Flit) : Bool :=
  let m := s.members (getBits f.offset 0 4)
  f.dst.toNat = s.node || (!bitOf f.offset 4 && !bitOf f.offset 5 && m.getLsbD s.node && f.dst.toNat = rootOf m)

/-- A member on the way takes an arrival in; a flit for another node goes on. -/
def execFlitCol (p : BitVec 2) (f : Flit) (s : State) : Host.Outcome State Fault Refusal :=
  .next (if f.typ ≠ 2 then s
    else if s.colMine f then s.takeFlit p.toNat f (f.vc = 0) false (fun t => t.colArrive p f)
    else s.takeFlit p.toNat f (f.vc = 0) true (fun t => t.colPass p f))

/-- A function that resets gives up the system operations of its channels: every other member hears of it (R399). -/
def State.leaveSystem (s : State) : State :=
  (nkeys s.chans (fun c => c.scope = 2 && c.slot.isSome)).foldl (fun s key =>
    ((nodesOf (s.members (key % 16))).filter (fun n => n ≠ s.node)).foldl (fun s n => s.sendTo (colCancel s.node n (key % 16)) 0) s) s

/-- The last participant of a channel has arrived: the channel releases, or a system channel gathers. -/
def execColRelease (node : BitVec 3) (ch : BitVec 4) (s : State) : Host.Outcome State Fault Refusal :=
  let key := chanKey node.toNat ch.toNat
  let c := s.chan key
  .next (if c.slot.isNone || c.cancelled || c.arrived ≠ c.mask then s
    else if c.scope ≠ 2 then s.releaseAll key
    else s.colGather key)

/-! ### Collectives (R394 to R397) -/

def Coll.ofRecord (slot : BitVec 3) (idx : Nat) (r : List Byte) : Coll :=
  { slot := slot, idx := idx, record := r, started := false, sent := false, data := [], flags := [], peers := [], poison := false }

/-- A record's fields lie in range, its zero bytes are zero, and its operands lie in WORK partitions (R394, R396). -/
def State.collOk (s : State) (c : Coll) : Bool :=
  let r := c.record
  decide (c.op ≤ 5) && (if c.op = 5 then decide (c.root < 16) && c.members.getLsbD c.root else c.root = 0) && c.members.getLsbD s.node &&
  decide (2 ≤ c.m) && c.u 4 4 % 64 = 0 && c.u 8 4 % 64 = 0 && decide (64 ≤ c.len) && decide (c.len ≤ 16777216) && c.len % 64 = 0 &&
  allZero (bytesAt r 0x14 40) && byteAt r 0x3F = 0 && s.inWork c.slot.toNat (c.u 4 4) c.len &&
  s.inWork c.slot.toNat (c.u 8 4) (c.outLen s.node)

/-- Running RUNs of a slot whose context is sealed without ULINK (R418). -/
def State.linkless (s : State) (slot : BitVec 3) : List Cmd :=
  s.cmds.filter (fun k => k.onCores && k.slot = slot && (s.ctx k.ref.ctx.toNat).sealed_ && !(s.ctx k.ref.ctx.toNat).ulink)

/-- The engine takes a record whose STATE reads 0x01; its handshake goes out when its queue has come to it. -/
def State.collTake (s : State) (c : Coll) : State :=
  let s1 := s.writeRam .shm (s.collOff c.slot.toNat c.idx + 0x3E) [2]
  let s2 := if (s1.collHead c.slot).isNone then s1.collCtrl c else s1
  { s2 with colls := s2.colls ++ [c] }

/-- The engine works the queue of a slot, and has no record of an index in hand. -/
def State.cqFree (s : State) (slot : BitVec 3) (idx : Nat) : Bool :=
  (s.bsSlot slot.toNat).cqOk && s.cqOn slot.toNat && (s.bsSlot slot.toNat).st = .active && !s.colls.any (fun x => x.slot = slot && x.idx = idx)

/-- A write access has left STATE at 0x01: the engine reads the record, with the checks of R188. R396 gives no case for a record that
reads with an error: it is taken with the bytes it has (log entry 107). -/
def execCollectiveRequest (slot : BitVec 3) (idx : BitVec 4) (u : State) : Host.Outcome State Fault Refusal :=
  let off := u.collOff slot.toNat idx.toNat
  let s := (u.touch .shm off 64).1
  let c := Coll.ofRecord slot idx.toNat (s.shm.bytes off 64)
  if !u.cqFree slot idx.toNat || byteAt (u.shm.bytes off 64) 0x3E ≠ 1 then .next u
  else if s.linkless slot ≠ [] then .next ((s.linkless slot).foldl (fun s k => s.stopRun k.ref stKey) s)
  else if !s.collOk c then .next (s.endColl c stBounds)
  else .next (s.collTake c)

/-! #### Data: XFER bits [3:0] name the chunk, bits [9:4] the number under which the receiver takes it (log entry 47). A chunk that the
receiver owns is an input for it, any other is its owner's result -/

/-- The payload of a DATA flit at an offset of its transfer. -/
def collFlit (c : Coll) (src dst k : Nat) (bs : List Byte) (flags : List Bool) (i : Nat) : Flit :=
  let part := (bs.drop (112 * i)).take 112
  { Flit.zero with typ := 1, vc := 1, src := BitVec.ofNat 4 src, dst := BitVec.ofNat 4 dst, len := BitVec.ofNat 7 part.length,
                   xfer := BitVec.ofNat 10 (k + 16 * nget 0 c.peers dst), poison := ((flags.drop (112 * i)).take 112).any id, offset := w32 (112 * i),
                   payload := padTo 112 part }

/-- A transfer of bytes to one member, for chunk k. -/
def State.collSend (s : State) (c : Coll) (dst k : Nat) (bs : List Byte) (flags : List Bool) : State :=
  (List.range ((bs.length + 111) / 112)).foldl (fun s i => s.sendTo (collFlit c s.node dst k bs flags i) k) s

/-- This device's input: bytes of a range, with the poison of each byte's granule. -/
def State.collInput (s : State) (c : Coll) (r : Nat × Nat) : List Byte × List Bool :=
  let a := c.u 4 4 + r.1
  (s.shm.bytes a r.2, (List.range r.2).map (fun i => s.shm.poisoned (a + i) 1))

/-- The members whose inputs a result needs. -/
def Coll.senders (c : Coll) : List Nat := if c.op = 5 then [c.root] else nodesOf c.members

/-- A member's input for this device's chunk, as far as it has come. -/
def Coll.part (c : Coll) (n : Nat) : List Byte × List Bool := (nget [] c.data n, nget [] c.flags n)

def wordsOf (bs : List Byte) : List Word := (List.range (bs.length / 4)).map (fun i => w32 (leAt bs (4 * i) 4))
/-- Lists element by element. -/
def columnsOf (xs : List (List Word)) (n : Nat) : List (List Word) := (List.range n).map (fun i => xs.map (fun x => x.getD i 0))

/-- The owner's result for a chunk (Table 8). -/
def combine (op : Nat) (parts : List (List Byte)) (len : Nat) : List Byte :=
  let cols := columnsOf (parts.map wordsOf) (len / 4)
  match op with
  | 3 => parts.flatten
  | 5 => (parts.headD [])
  | 1 => (cols.map (fun xs => toLE 4 (extreme true xs).1.toNat)).flatten
  | 2 => (cols.map (fun xs => toLE 4 (xs.foldl (· + ·) 0).toNat)).flatten
  | _ => (cols.map (fun xs => toLE 4 (psum xs).toNat)).flatten

def orFlags (parts : List (List Bool)) (len : Nat) : List Bool := (List.range len).map (fun i => parts.any (fun p => p.getD (i / 4 * 4) false || p.getD i false))

/-- The result of this device's own chunk, once every input for it is here. -/
def State.ownResult (s : State) (c : Coll) : Option (List Byte × List Bool) :=
  let len := (c.chunk (c.rank s.node)).2
  let ps := c.senders.map c.part
  if ps.all (fun p => decide (len ≤ p.1.length)) then
    let bs := ps.map (fun p => p.1)
    let fs := ps.map (fun p => p.2)
    some (combine c.op bs len, if c.op = 3 then fs.flatten else orFlags fs len)
  else none

def State.setColl (s : State) (c : Coll) : State :=
  { s with colls := s.colls.map (fun x => if x.slot = c.slot && x.idx = c.idx then c else x) }
def State.coll? (s : State) (slot : BitVec 3) (idx : Nat) : Option Coll := s.colls.find? (fun c => c.slot = slot && c.idx = idx)

/-- The owner sends its result to every other member once it has it. -/
def State.collAdvance (s : State) (c : Coll) : State :=
  if !c.started || c.sent then s
  else match s.ownResult c with
    | none => s
    | some r =>
      let s1 := (s.otherMembers c).foldl (fun s n => s.collSend c n (c.rank s.node) r.1 r.2) s
      s1.setColl { c with sent := true }

/-- Each member that has an input reads it, with the checks of R188, and sends chunk k of it to the member of rank k. -/
def State.collStart (s : State) (c : Coll) : State :=
  if !c.senders.contains s.node then (s.setColl { c with started := true }).collAdvance { c with started := true }
  else
    let t := (s.touch .shm (c.u 4 4) c.len).1
    let own := t.collInput c (c.chunk (c.rank t.node))
    let c1 := { c with started := true, data := nset [] c.data t.node own.1, flags := nset [] c.flags t.node own.2,
                       poison := t.shm.poisoned (c.u 4 4) c.len }
    let s1 := (t.otherMembers c).foldl (fun s n =>
        let r := s.collInput c (c.chunk (c.rank n))
        s.collSend c1 n (c.rank n) r.1 r.2) t
    (s1.setColl c1).collAdvance c1

/-- The records of the other members match: one of each, with the same TAG and MEMBERS. -/
def State.collMatches (s : State) (c : Coll) (rs : List MemberRec) : Bool :=
  (s.otherMembers c).all (fun n => rs.any (fun r => r.node.toNat = n)) &&
  rs.all (fun r => (s.otherMembers c).contains r.node.toNat && bytesAt r.record 2 2 = bytesAt c.record 2 2 &&
    bytesAt r.record 0x10 4 = bytesAt c.record 0x10 4)

def collAgree (c : Coll) (r : List Byte) : Bool := bytesAt r 0 2 = bytesAt c.record 0 2 && bytesAt r 0xC 4 = bytesAt c.record 0xC 4

/-- A record is matched with every member's: it starts, or ends with ST_BOUNDS where they do not agree. A queue's records are
worked in the order taken, one at a time. -/
def execCollectiveMatch (slot : BitVec 3) (idx : BitVec 4) (records : List MemberRec) (s : State) :
    Host.Outcome State Fault Refusal :=
  match s.collHead slot with
  | none => .next s
  | some c =>
    if c.idx ≠ idx.toNat || c.started || !s.collMatches c records then .next s
    else if records.all (fun r => collAgree c r.record) then
      .next (s.collStart { c with peers := records.foldl (fun m r => nset 0 m r.node.toNat r.xfer.toNat) [] })
    else .next ((s.endColl c stBounds).ulkErr 2 0)

/-- The collective that a DATA flit belongs to. -/
def State.collOfFlit (s : State) (f : Flit) : Option Coll :=
  (s.collHead (BitVec.ofNat 3 (f.xfer.toNat / 16))).filter (fun c => c.number = f.xfer.toNat / 16 && c.members.getLsbD f.src.toNat)

/-- A DATA flit's payload joins what has come from its member. -/
def State.collData (s : State) (f : Flit) : State :=
  match s.collOfFlit f with
  | none => s
  | some c =>
    let k := f.src.toNat + (if f.xfer.toNat % 16 = c.rank s.node then 0 else 16)
    let o := f.offset.toNat
    let c1 := { c with data := nset [] c.data k (padTo o (nget [] c.data k) ++ f.payload.take f.len.toNat),
                       flags := nset [] c.flags k ((nget [] c.flags k).take o ++ List.replicate f.len.toNat f.poison) }
    (s.setColl c1).collAdvance c1

def execFlitData (p : BitVec 2) (f : Flit) (s : State) : Host.Outcome State Fault Refusal :=
  .next (if f.typ ≠ 1 then s
    else if f.dst.toNat = s.node then s.takeFlit p.toNat f (f.vc = 1 || f.vc = 2) false (fun t => t.collData f)
    else s.takeFlit p.toNat f (f.vc = 1 || f.vc = 2) true (fun t => t.forward p.toNat f (f.xfer.toNat % 16)))

/-- The result chunk of each rank, once all are here. A member of REDUCESCATTER waits for every owner's result too, and keeps its own. -/
def State.collResults (s : State) (c : Coll) : Option (List (List Byte × List Bool)) :=
  let part := fun n => if n = s.node then s.ownResult c
    else
      let need := (c.chunk (c.rank n)).2 * (if c.op = 3 then c.m else 1)
      let d := nget [] c.data (n + 16)
      if need ≤ d.length then some (d, nget [] c.flags (n + 16)) else none
  let rs := (nodesOf c.members).map (fun n => if c.op = 4 && n ≠ s.node then (part n).map (fun _ => ([], [])) else part n)
  if rs.all Option.isSome then some (rs.filterMap id) else none

/-- Sub-chunk j of a gathered chunk. -/
def gathered {α : Type} (c : Coll) (rs : List (List α)) (j : Nat) : List α :=
  ((indexed rs).map (fun e => let n := (c.chunk e.1).2; (e.2.drop (j * n)).take n)).flatten

/-- The output from the result chunks (Table 8). -/
def collOutput {α : Type} (c : Coll) (rs : List (List α)) : List α :=
  if c.op = 3 then ((List.range c.m).map (gathered c rs)).flatten else rs.flatten

/-- A collective completes: DST, then STATUS and STATE; poison ends it with ST_POISONED. -/
def execCollectiveDone (slot : BitVec 3) (idx : BitVec 4) (s : State) : Host.Outcome State Fault Refusal :=
  match s.coll? slot idx.toNat with
  | none => .next s
  | some c =>
    if !c.started || !c.sent then .next s
    else match s.collResults c with
      | none => .next s
      | some rs =>
        let out := collOutput c (rs.map (fun r => r.1))
        let flags := collOutput c (rs.map (fun r => r.2))
        let bad := c.poison || flags.any id
        let s1 := if bad then s.drawBytes out.length else (out, s)
        let s2 := s1.2.putRam .shm (c.u 8 4) s1.1 flags
        .next ((s2.dropColl c).collStatus slot.toNat c.idx (if bad then stPoisoned else stOk))

/-- No match within ULK_CQ_TIMEOUT. -/
def execCollectiveTimeout (slot : BitVec 3) (idx : BitVec 4) (s : State) : Host.Outcome State Fault Refusal :=
  match s.coll? slot idx.toNat with
  | none => .next s
  | some c => .next (if c.started then s else s.endColl c stTimeout)

end Sys2Proof.Machine
end

