-- ==== Sys2Proof/Machine/Security.lean ====
section
/-! DEFINITION. The security island (R400 to R428): SPDM answers and sessions, measurements, key messages, IDE keys, context
keys and windows, tamper, quarantine and start-up. -/

namespace Sys2Proof.Machine

/-- The INTERNAL slots of the island's own keys (Table 1 of R401). -/
def sealSlot : Nat := 117
def identitySlot : Nat := 118
def aliasSlot : Nat := 119

def State.modSec (s : State) (f : Sec → Sec) : State := { s with sec := f s.sec }

/-! ### SPDM (R404, R405): codes and errors of the SPDM specification (log entry 50) -/

/-- Requests reach the responder; the DOE mailbox holds one request, so none is taken while a KEY_DESTROY waits. -/
def State.spdmOpen (s : State) : Bool := s.linkOpen && (s.sec.ready || s.sec.quarantine) && s.sec.destroyWait.isNone
def errInvalid : Nat := 1
def errUnexpected : Nat := 4
def errDecrypt : Nat := 6
def errSessionLimit : Nat := 10
def State.spdmErr (s : State) (e : Nat) : State := s.emit (.spdm 0x7F [BitVec.ofNat 8 e])

/-- A request that needs some of the negotiation behind it. -/
def State.spdmReq (s : State) (ready : Bool) (act : State) : State :=
  if !s.spdmOpen then s else if ready then act else s.spdmErr errUnexpected

def State.modSpdm (s : State) (f : Spdm → Spdm) : State := s.modSec (fun k => { k with spdm := f k.spdm })

/-- An answer that ends in free bytes: those of a key exchange. -/
def State.spdmFree (s : State) (code : Nat) (fixed : List Byte) (n : Nat) : State :=
  let d := s.drawBytes n
  d.2.emit (.spdm code (fixed ++ d.1))

def execGetVersion (s : State) : Host.Outcome State Fault Refusal :=
  .next (s.spdmReq true ((s.modSpdm (fun p => { p with version := true, caps := false, algs := false })).emit (.spdm 0x04 [0x00, 0x12])))

/-- Certificates, challenge, signed measurements, encryption, authentication, key exchange, heartbeat, key update, alias. -/
def capFlags : Nat := 0x000462D6

def execGetCapabilities (s : State) : Host.Outcome State Fault Refusal :=
  .next (s.spdmReq s.sec.spdm.version ((s.modSpdm (fun p => { p with caps := true })).emit (.spdm 0x61 (toLE 4 capFlags))))

/-- ECDSA P-384, SHA-384, secp384r1, AES-256-GCM, the SPDM key schedule, the DMTF measurement specification. -/
def algSel : List Byte := toLE 4 0x80 ++ toLE 4 0x02 ++ toLE 2 0x10 ++ toLE 2 0x02 ++ toLE 2 0x01 ++ toLE 1 0x01

def execNegotiateAlgorithms (s : State) : Host.Outcome State Fault Refusal :=
  .next (s.spdmReq s.sec.spdm.caps ((s.modSpdm (fun p => { p with algs := true })).emit (.spdm 0x63 algSel)))

/-- The chain of certificate slot 0: Aelsal root, Griloth production authority, device identity, alias (R405). -/
def State.certChain (s : State) : List Byte :=
  (List.range Config.certLen).map (Config.certByte (s.keySlot identitySlot).key (s.keySlot aliasSlot).key)

/-- Slot 0 alone has a digest. -/
def execGetDigests (s : State) : Host.Outcome State Fault Refusal :=
  .next (s.spdmReq s.sec.spdm.algs (s.emit (.spdm 0x01 (0x01 :: sha384 s.certChain))))

def execGetCertificate (slot : BitVec 4) (off len : BitVec 16) (s : State) : Host.Outcome State Fault Refusal :=
  .next (s.spdmReq s.sec.spdm.algs (
    if slot ≠ 0 then s.spdmErr errInvalid
    else s.emit (.spdm 0x02 (toLE 2 off.toNat ++ (s.certChain.drop off.toNat).take len.toNat))))

/-- An answer that the alias key signs (R405): ECDSA P-384 over the digest of a transcript, which the model does not hold and which is
free, as is the secret of the message (log entry 50). -/
def State.spdmSigned (s : State) (code : Nat) (fixed : List Byte) : State :=
  let d := s.drawBytes 96
  d.2.emit (.spdm code (fixed ++ ecdsaSign (privOf (s.keySlot aliasSlot).key) (d.1.take 48) (privOf (d.1.drop 48))))

/-- The nonce goes into the signed transcript. -/
def execChallenge (slot : BitVec 4) (_nonce : List Byte) (s : State) : Host.Outcome State Fault Refusal :=
  .next (s.spdmReq s.sec.spdm.algs (if slot ≠ 0 then s.spdmErr errInvalid else s.spdmSigned 0x03 []))

/-! ### Measurements (Table 2 of R406) -/

def secTamper (k : Sec) : Word :=
  w32 (boolNat k.latched * 2 ^ 31 + k.kind.toNat * 2 ^ 28 + boolNat k.erased * 2 ^ 27 + k.sensors.toNat * 2 ^ 22)

/-- The measured digest of an image. -/
def fwDigest (f : Fw) : List Byte :=
  if f.bytes = [] then (List.range 48).map (Config.shippedDigestByte f.target) else sha384 f.bytes
/-- A public key as an uncompressed point; an EMPTY slot as zeros. -/
def State.pubKey (s : State) (slot : Nat) : List Byte :=
  match s.verifyKey slot with
  | some k => 0x04 :: padTo 96 k
  | none => List.replicate 97 0

def State.bindingRow (s : State) (m : Nat) : List Byte :=
  let k := s.keySlot (weightKeySlot m)
  toLE 1 (boolNat (k.kind = .weight)) ++ toLE 1 k.keymask.toNat ++ toLE 8 k.use.toNat

def State.measurement (s : State) (i : Nat) : List Byte :=
  if i = 1 then (List.range 48).map Config.romDigestByte
  else if i = 2 then fwDigest s.ras.siRun ++ toLE 4 s.ras.siRun.svn.toNat
  else if i = 3 then fwDigest s.ras.mcRun
  else if i = 4 then
    sha384 (toLE 4 s.genId.toNat ++ toLE 4 s.genRev.toNat ++ toLE 4 s.genGrade.toNat ++ toLE 4 s.genCoreEnable.toNat ++ s.pubKey 0)
  else if i = 5 then sha384 (((List.range 7).map (fun j => s.pubKey (j + 1))).flatten)
  else if i ≤ 13 then
    (let b := s.bsSlot (i - 6)
    if b.st = .empty || b.st = .loading then List.replicate 48 0 else sha384 (bsSigned b.image))
  else if i = 14 then toLE 1 (boolNat s.sec.quarantine) ++ toLE 4 (secTamper s.sec).toNat
  else ((List.range 32).map s.bindingRow).flatten

def State.measureBlock (s : State) (i : Nat) : List Byte := toLE 1 i ++ toLE 2 (s.measurement i).length ++ s.measurement i

/-- Index 0 asks for the number of blocks, 0xFF for all. -/
def execGetMeasurements (index : BitVec 8) (sign : Bool) (_nonce : List Byte) (s : State) : Host.Outcome State Fault Refusal :=
  let i := index.toNat
  let data := if i = 0 then [0x0F] else if i = 0xFF then ((List.range 15).map (fun j => s.measureBlock (j + 1))).flatten else s.measureBlock i
  .next (s.spdmReq s.sec.spdm.algs (
    if decide (15 < i) && i ≠ 0xFF then s.spdmErr errInvalid
    else if sign then s.spdmSigned 0x60 data else s.spdmFree 0x60 data 0))

/-! ### Sessions -/

def State.sess (s : State) (i : Nat) : SessSt := nget .none s.sec.spdm.sess i
def State.setSess (s : State) (i : Nat) (x : SessSt) : State := s.modSpdm (fun p => { p with sess := nset .none p.sess i x })

/-- A session ends: its secrets go, and the weight keys that it filled can be destroyed by none. -/
def State.endSess (s : State) (i : Nat) : State :=
  let s1 := ((s.setSess i .none).emptySlot (120 + 2 * i)).emptySlot (121 + 2 * i)
  (List.range 32).foldl (fun s m =>
    let k := s.keySlot (weightKeySlot m)
    if k.kind = .weight && k.session.toNat = i then s.setKeySlot (weightKeySlot m) { k with held := false } else s) s1

def State.endSessions (s : State) : State :=
  ((List.range 4).foldl State.endSess s).modSec (fun k => { k with spdm := .reset, ideSecure := false, destroyWait := none })

/-- A generated key in a slot. -/
def State.genKey (s : State) (slot : Nat) (kind : KeyKind) (session : BitVec 3) : State :=
  (s.fillSlot slot { KeySlot.empty with kind := kind, ident := s.sec.idents, session := session }).modSec
    (fun k => { k with idents := k.idents + 1 })

/-- Quarantine refuses it; at most four sessions. The request's key share enters the session secrets, which are generated. -/
def execKeyExchange (_req : List Byte) (s : State) : Host.Outcome State Fault Refusal :=
  .next (s.spdmReq s.sec.spdm.algs (
    if s.sec.quarantine then s.spdmErr errUnexpected
    else match (List.range 4).find? (fun i => s.sess i = .none) with
      | none => s.spdmErr errSessionLimit
      | some i => (s.setSess i .handshake).spdmFree 0x64 (toLE 1 i) 192))

/-- The handshake's last message, whose check comes out as `ok`. -/
def execFinish (sess : BitVec 2) (ok : Bool) (s : State) : Host.Outcome State Fault Refusal :=
  let i := sess.toNat
  let on := BitVec.ofNat 3 i
  .next (s.spdmReq (s.sess i = .handshake) (
    if ok then
      ((((s.setSess i .established).genKey (120 + 2 * i) .internal on).genKey (121 + 2 * i) .internal on).emit (.spdm 0x65 []))
    else (s.setSess i .none).spdmErr errDecrypt))

def State.inSession (s : State) (sess : BitVec 2) : Bool := s.sess sess.toNat = .established

def execHeartbeat (sess : BitVec 2) (s : State) : Host.Outcome State Fault Refusal :=
  .next (s.spdmReq (s.inSession sess) (s.emit (.spdm 0x68 [])))

def execKeyUpdate (sess : BitVec 2) (s : State) : Host.Outcome State Fault Refusal :=
  .next (s.spdmReq (s.inSession sess)
    ((s.modSpdm (fun p => { p with phases := nmod 0 p.phases sess.toNat (· + 1) })).emit (.spdm 0x69 [])))

def execEndSession (sess : BitVec 2) (s : State) : Host.Outcome State Fault Refusal :=
  .next (s.spdmReq (s.inSession sess) ((s.endSess sess.toNat).emit (.spdm 0x6C [])))

/-! ### Key messages (R407 to R410, R427) -/

def keyHandle (slot : Nat) (k : KeySlot) : Nat := k.gen.toNat * 65536 + slot

/-- The response payload of a key message: OP, STATUS, and HANDLE or zero (R407). -/
def State.keyAnswer (s : State) (payload : List Byte) (status handle : Nat) : State :=
  s.emit (.spdm 0x7E (bytesAt payload 0 2 ++ toLE 2 status ++ toLE 4 handle))
/-- The answer to a message to which several conditions apply (R18). -/
def State.keyRefused (s : State) (payload : List Byte) (codes : List Nat) : State :=
  (s.recordAlso codes).keyAnswer payload (worst codes) 0
def State.keyFilled (s : State) (payload : List Byte) (slot : Nat) : State :=
  s.keyAnswer payload stOk (keyHandle slot (s.keySlot slot))

/-- A key message is accepted in an established session alone, else UnexpectedRequest; a wrong OP or LEN ends with ST_BOUNDS (R407). -/
def State.keyMsg (s : State) (sess : BitVec 2) (payload : List Byte) (op len : Nat) (go : State) : State :=
  s.spdmReq (s.inSession sess) (
    if payload.length ≠ len || leAt payload 0 2 ≠ op || leAt payload 2 2 ≠ len then s.keyAnswer payload stBounds 0 else go)

def weightMsgKey (sess : BitVec 2) (p : List Byte) : KeySlot :=
  { KeySlot.empty with kind := .weight, key := bytesAt p 0x10 64, sealed_ := byteAt p 5 % 2 = 1, session := BitVec.ofNat 3 sess.toNat,
                       held := true, use := BitVec.ofNat 64 (leAt p 8 8), keymask := BitVec.ofNat 8 (byteAt p 6) }

/-! ### Sealing (R413, log entry 101) -/

/-- The sealing key of an SVN. -/
def State.sealKey (s : State) (svn : Word) : List Byte :=
  (List.range 48).map (Config.derivedKeyByte sealSlot (s.fuses.secret ++ toLE 4 svn.toNat))

/-- A slot's content as it is sealed: VERIFY or WEIGHT, KEYMASK, USE and the key. -/
def KeySlot.plain (k : KeySlot) : List Byte := toLE 1 (boolNat (k.kind = .weight)) ++ [k.keymask] ++ toLE 8 k.use.toNat ++ k.key
def KeySlot.ofPlain (p : List Byte) : KeySlot :=
  { KeySlot.empty with kind := if byteAt p 0 = 1 then .weight else .verify, keymask := BitVec.ofNat 8 (byteAt p 1),
                       use := BitVec.ofNat 64 (leAt p 2 8), key := p.drop 10, sealed_ := true, session := 7 }

def sealNonce (slot gen : Nat) : List Byte := (List.range 12).map (Config.sealNonceByte slot gen)
/-- The slot number and the generation: the associated data. -/
def sealAd (slot gen : Nat) : List Byte := toLE 1 slot ++ toLE 2 gen

/-- A content sealed with AES-256-GCM under a sealing key. -/
def sealUnder (key : List Byte) (svn : Word) (slot : Nat) (gen : BitVec 16) (k : KeySlot) : Blob :=
  let c := gcmStream (key.take 32) (sealNonce slot gen.toNat) k.plain
  { gen := gen, svn := svn, cipher := c, tag := gcmTag (key.take 32) (sealNonce slot gen.toNat) (sealAd slot gen.toNat) c }

/-- The content of a blob that authenticates. -/
def Blob.opened (b : Blob) (key : List Byte) (slot : Nat) : Option KeySlot :=
  if gcmTag (key.take 32) (sealNonce slot b.gen.toNat) (sealAd slot b.gen.toNat) b.cipher = b.tag then
    some (KeySlot.ofPlain (gcmStream (key.take 32) (sealNonce slot b.gen.toNat) b.cipher))
  else none

/-- A slot's content, sealed under the sealing key of slot 117. -/
def State.sealed (s : State) (n : Nat) : Blob :=
  sealUnder (s.keySlot sealSlot).key s.ras.siRun.svn n (s.keySlot n).gen (s.keySlot n)

/-- A key and, where it is sealed, its blob; without a sealing key nothing is sealed. -/
def State.fillSealed (s : State) (slot : Nat) (k : KeySlot) : State :=
  let s1 := s.fillSlot slot k
  if k.sealed_ && (s1.keySlot sealSlot).kind ≠ .empty then s1.setBlob slot (some (s1.sealed slot)) else s1

def execKeyWeight (sess : BitVec 2) (payload : List Byte) (s : State) : Host.Outcome State Fault Refusal :=
  let m := byteAt payload 4
  let slot := weightKeySlot m
  .next (s.keyMsg sess payload 0x0101 0x50 (
    let conds := condList
      [(decide (32 ≤ m) || decide (2 ≤ byteAt payload 5) || byteAt payload 7 ≠ 0 || (s.model m).st = .free, stBounds),
       (decide (m < 32) && (s.keySlot slot).kind ≠ .empty, stKey)]
    if conds ≠ [] then s.keyRefused payload conds
    else (s.fillSealed slot (weightMsgKey sess payload)).keyFilled payload slot))

/-- A context that a new key or ZERO must not touch (R409). -/
def State.ctxInUse (s : State) (c : Nat) : Bool :=
  (s.ctx c).en || s.inflight c ≠ 0 || s.seqs.any (fun e => e.2.st ≠ .free && e.2.ctx.toNat = c)

def execKeyContext (sess : BitVec 2) (payload : List Byte) (s : State) : Host.Outcome State Fault Refusal :=
  let c := byteAt payload 4
  let f := byteAt payload 5
  let slot := ctxKeySlot c
  .next (s.keyMsg sess payload 0x0102 0x48 (
    if decide (64 ≤ c) || decide (8 ≤ f) || leAt payload 6 2 ≠ 0 || s.ctxInUse c then s.keyAnswer payload stBounds 0
    else
      let s1 := s.fillSlot slot { KeySlot.empty with kind := .context, key := bytesAt payload 8 64, session := BitVec.ofNat 3 sess.toNat }
      (s1.setCtx c { s1.ctx c with sealed_ := true, hostrw := f % 2 = 1, idereq := f / 2 % 2 = 1, ulink := f / 4 % 2 = 1 }).keyFilled
        payload slot))

def execKeyVerify (sess : BitVec 2) (payload : List Byte) (s : State) : Host.Outcome State Fault Refusal :=
  let slot := byteAt payload 4
  .next (s.keyMsg sess payload 0x0103 0x68 (
    let conds := condList
      [(decide (slot < 1) || decide (7 < slot) || leAt payload 5 3 ≠ 0, stBounds),
       (decide (1 ≤ slot) && decide (slot ≤ 7) && (s.keySlot slot).kind ≠ .empty, stKey)]
    if conds ≠ [] then s.keyRefused payload conds
    else (s.fillSealed slot
      { KeySlot.empty with kind := .verify, key := bytesAt payload 8 96, sealed_ := true,
                           session := BitVec.ofNat 3 sess.toNat }).keyFilled payload slot))

/-- RUNs of a model that have not started end with ST_KEY, whatever their place in doorbell order (Table 8 of R427). -/
def State.endRunsOf (s : State) (m : Nat) : State :=
  (s.cmds.filter (fun k => k.isRun && k.rModel = m && (k.stage = .fetched || k.stage = .waiting || k.stage = .placing))).foldl
    (fun s k => s.endBefore k.ref stKey) s

/-- The weight key of a model goes at once, or once its passes have ended. -/
def State.destroyWeight (s : State) (payload : List Byte) (slot : Nat) : State :=
  let m := slot - 72
  let s1 := s.endRunsOf m
  if s1.passesOf m ≠ [] then s1.modSec (fun k => { k with destroyWait := some (BitVec.ofNat 7 slot) })
  else (s1.unbindWeight m).keyAnswer payload stOk 0

def execKeyDestroy (sess : BitVec 2) (payload : List Byte) (s : State) : Host.Outcome State Fault Refusal :=
  let h := leAt payload 4 4
  let slot := h % 128
  let k := s.keySlot slot
  let named := (List.range 8).any (fun i =>
    let b := s.bsSlot i
    (b.st = .resident || b.st = .active) && bsKeyId b.image = slot)
  .next (s.keyMsg sess payload 0x0104 0x08 (
    if k.kind = .empty || keyHandle slot k ≠ h then s.keyAnswer payload stKey 0
    else if k.kind = .weight then
      (if k.held && k.session.toNat = sess.toNat then s.destroyWeight payload slot else s.keyAnswer payload stKey 0)
    else if k.kind = .verify && slot ≠ 0 then
      (if named then s.keyAnswer payload stBounds 0
      else ((s.emptySlot slot).setBlob slot none).keyAnswer payload stOk 0)
    else s.keyAnswer payload stKey 0))

/-! ### IDE (R419): objects and status of IDE_KM (log entry 50) -/

def ideSlot (set : Bool) (sub : Nat) (tx : Bool) : Nat := 104 + 6 * boolNat set + 2 * sub + boolNat tx
def kpAck : Nat := 3
def goStopAck : Nat := 6
def ideUnsupported : Nat := 3
def State.ideInUse (s : State) (set : Bool) : Bool := s.sec.ideSecure && s.sec.ideSet = set

def execKeyProg (sess : BitVec 2) (set : Bool) (sub : BitVec 2) (tx : Bool) (key : List Byte) (s : State) :
    Host.Outcome State Fault Refusal :=
  .next (s.spdmReq (s.inSession sess) (
    if s.ideInUse set || sub = 3 then s.emit (.spdm 0x7E (toLE 1 kpAck ++ toLE 1 ideUnsupported))
    else (s.fillSlot (ideSlot set sub.toNat tx)
      { KeySlot.empty with kind := .ide, key := key, session := BitVec.ofNat 3 sess.toNat }).emit (.spdm 0x7E (toLE 1 kpAck ++ [0]))))

/-- Every sub-stream and direction of a set has its key. -/
def State.ideFull (s : State) (set : Bool) : Bool := (List.range 6).all (fun i => (s.keySlot (104 + 6 * boolNat set + i)).kind = .ide)

def execKSetGo (sess : BitVec 2) (set : Bool) (s : State) : Host.Outcome State Fault Refusal :=
  .next (s.spdmReq (s.inSession sess) (
    (if s.ideFull set then s.modSec (fun k => { k with ideSecure := true, ideSet := set }) else s).emit (.spdm 0x7E (toLE 1 goStopAck))))

def execKSetStop (sess : BitVec 2) (set : Bool) (s : State) : Host.Outcome State Fault Refusal :=
  .next (s.spdmReq (s.inSession sess) (
    (if s.ideInUse set then s.modSec (fun k => { k with ideSecure := false }) else s).emit (.spdm 0x7E (toLE 1 goStopAck))))

/-- The answer names the stream's two key sets by the keys that they hold. -/
def execIdeKmQuery (sess : BitVec 2) (s : State) : Host.Outcome State Fault Refusal :=
  .next (s.spdmReq (s.inSession sess) (
    s.emit (.spdm 0x7E (0x01 :: (List.range 12).map (fun i => BitVec.ofNat 8 (boolNat ((s.keySlot (104 + i)).kind = .ide)))))))

/-! ### SEC_CTX_POLICY and windows (R414, R415, R429, R430) -/

def State.secCtx (s : State) : Nat := getBits (s.reg 0xA0010) 0 6

/-- A write of SEC_CTX_POLICY: ADMIN is written; ZERO empties the key of a context that is not in use. -/
def State.policyWrite (s : State) (val : Word) : State :=
  let c := s.secCtx
  let s1 := s.setCtx c { s.ctx c with admin := bitOf val 31 }
  if bitOf val 25 && !s.ctxInUse c then s1.emptySlot (ctxKeySlot c) else s1

def execContextZero (val : Word) (s : State) : Host.Outcome State Fault Refusal := .next (s.byHost (s.policyWrite val))

def winIndex : WinReg → Nat
  | .base => 0
  | .size => 1
  | .cfg => 2

/-- A window that R430 lets a write leave enabled. -/
def State.windowOk (s : State) (c w : Nat) (x : Window) : Bool :=
  decide (0 < x.size) && inDram (x.base, x.size) &&
  !overlaps (x.base, x.size)
    (s.windowRegions c w ++ s.poolRegions noSkip ++ s.asmArea.toList ++ s.mirrorArea.toList ++ s.bsArea.toList) &&
  !(x.table && (x.cw || x.hr || x.hw)) && !(x.table && (List.range 4).any (fun v => v ≠ w && (s.window c v).table))

def State.windowWrite (s : State) (c w r : Nat) (val : Word) : State :=
  let v := if r = 2 then val &&& 0xFC000000#32 else val &&& 0x000FFFFF#32
  let part := fun (i : Nat) => if i = r then v else s.reg (winKey c w i)
  let x := winOf (part 0) (part 1) (part 2)
  if (s.ctx c).en || s.inflight c ≠ 0 then s
  else if x.en && !s.windowOk c w x then s.setReg 0xA0000 (s.reg 0xA0000 ||| 0x01000000#32)
  else s.setReg (winKey c w r) v

def execWindowWrite (w : BitVec 2) (r : WinReg) (val : Word) (s : State) : Host.Outcome State Fault Refusal :=
  .next (s.byHost (s.windowWrite s.secCtx w.toNat (winIndex r) val))

/-! ### Tamper (R423 to R427) -/

/-- Full zeroisation begins: every slot except slot 0 empties and every session ends; the blobs go at its end. -/
def State.zeroise (s : State) : State :=
  ((List.range 127).foldl (fun s i => s.emptySlot (i + 1)) s.endSessions).modSec (fun k => { k with zeroing := true, erased := false })

/-- The end of a full zeroisation. -/
def State.zeroised (s : State) : State :=
  if s.sec.zeroing then s.modSec (fun k => { k with zeroing := false, erased := true, blobs := [] }) else s

/-- A fetched command ends with a status from outside it (R425, R452): before its start at once, a started RUN by stopping its
cores, and any other with what it has begun undone. -/
def State.stopCmd (st : Nat) (s : State) (k : Cmd) : State :=
  if k.stage = .ended then s
  else if k.stage ≠ .started then s.endBefore k.ref st
  else if k.isRun then s.stopRun k.ref st
  else if k.op = 0x29 then
    (if (s.model k.mModel).patch.any (fun p => p.ref = k.ref) then s.dropPatch k.mModel st else s.endCmd k.ref st)
  else if k.op = 0x30 then (s.setBs k.rSlot .empty).endCmd k.ref st
  else if k.op = 0x25 && (s.model k.mModel).loader = some k.ref then
    ((s.setModel k.mModel { s.model k.mModel with loader := none }).unload k.mModel).endCmd k.ref st
  else s.endCmd k.ref st

/-- A port goes DISABLED (R399, R425, R452). -/
def State.disablePort (s : State) (n : Nat) : State :=
  if (s.port n).st = 0 then s
  else
    let s1 := (s.setPort n { s.port n with en := false }).portDown n
    s1.setPort n { s1.port n with st := 0 }

def State.quarantine (s : State) : State :=
  let s1 := s.modSec (fun k => { k with quarantine := true })
  let s2 := s1.cmds.foldl (State.stopCmd stTamper) s1
  (List.range 4).foldl State.disablePort s2

/-- The latch of SEC_TAMPER and what every alarm does besides its response. -/
def State.latchAlarm (s : State) (sensor : BitVec 3) (kind : BitVec 3) : State :=
  let bit := BitVec.ofNat 5 (2 ^ sensor.toNat)
  let s1 := s.modSec (fun k =>
    { k with alarm := true, latched := true, kind := kind, sensors := if k.latched then k.sensors ||| bit else bit,
             erased := k.erased && k.latched })
  s1.record 0x0601 srcSec 3 0 (regCopy (secTamper s1.sec) 0xA0004)

/-- Sensors 0, 1 and 3 run while the always-on supply is good and the device is not Off; 2 and 4 while the island is on, which a
sleeping device has off (Tables 6 and 7). -/
def State.sensorRuns (s : State) (sensor : BitVec 3) (asleep : Bool) : Bool :=
  decide (sensor.toNat < 5) && s.aon.supply && s.aon.seq ≠ .off && (!(sensor = 2 || sensor = 4) || (!asleep && decide (1 ≤ s.aon.groups)))

def State.islandOn (s : State) : Bool := decide (1 ≤ s.aon.groups)
/-- Keys may have been unsealed: the island and the store are both up (steps 4 and 5 of Table 9). -/
def State.unsealing (s : State) : Bool := s.sec.ready && s.store.ready && s.islandOn

/-- Table 7 of R424. A start-up alarm of an island that is not ready yet meets its start-up's end, which leaves it in quarantine. -/
def execTamperAlarm (sensor : BitVec 3) (when_ : TamperWhen) (s : State) : Host.Outcome State Fault Refusal :=
  .next (if !s.sensorRuns sensor (when_ = .sleep) then s
    else match when_ with
      | .startup =>
        if s.sec.ready && s.store.ready then s
        else if s.sec.ready then (s.latchAlarm sensor 1).quarantine
        else s.latchAlarm sensor 1
      | .sleep => if s.pwr.dev = .background || s.pwr.dev = .idle then s.latchAlarm sensor 2 else s
      | .run => if s.unsealing then ((s.latchAlarm sensor 3).zeroise).quarantine else s
      | .keyop slot =>
        if s.unsealing then (((s.latchAlarm sensor 4).emptySlot (if slot = 0 then 128 else slot.toNat)).zeroise).quarantine
        else s)

/-- Every sensor stops asserting. -/
def execSensorDeassert (s : State) : Host.Outcome State Fault Refusal := .next (s.modSec (fun k => { k with alarm := false }))

def execZeroisationComplete (s : State) : Host.Outcome State Fault Refusal := .next s.zeroised

/-- A latched alarm of the sleeping island is answered at the wake. -/
def State.wakeTamper (s : State) : State :=
  if s.sec.latched && s.sec.kind = 2 && !s.sec.quarantine then s.zeroise.quarantine else s

/-! ### Start-up (R428) -/

/-- A key that the island derives into a slot. -/
def State.internalKey (s : State) (slot : Nat) (key : List Byte) : State :=
  s.fillSlot slot { KeySlot.empty with kind := .internal, session := 7, key := key }
def State.deriveKey (s : State) (slot : Nat) (seed : List Byte) : State :=
  s.internalKey slot ((List.range 48).map (Config.derivedKeyByte slot seed))

/-- The sealing key is derived from the device secret and the firmware's SVN, the identity key from the secret and the ROM's measurement,
and the alias key from the identity seed and the measurements of both images (R405, R413). -/
def State.deriveOwn (s : State) : State :=
  let s1 := s.internalKey sealSlot (s.sealKey s.ras.siRun.svn)
  let s2 := s1.internalKey identitySlot (hkdf384 s.fuses.secret (s.measurement 1) 48)
  s2.deriveKey aliasSlot ((s2.keySlot identitySlot).key ++ fwDigest s.ras.siRun ++ fwDigest s.ras.mcRun)

/-- Step 4: the island's own keys are derived, and the device memory key is generated. Its identity is that of the zeros that
initialisation leaves in DRAM. -/
def State.deriveKeys (s : State) : State :=
  ((s.fillSlot devKeySlot { KeySlot.empty with kind := .internal, ident := 0, session := 7 }).deriveOwn).modSec
    (fun k => { k with ready := true })

/-- One of the two copies of a slot's blob, opened. `bad` names copies that the flash returns in error; one of a later SVN than the running
firmware's has no key. -/
def State.openCopy (s : State) (bad : List (BitVec 7 × Bool)) (n : Nat) (second : Bool) : Option (Blob × KeySlot) :=
  match s.blob (128 * boolNat second + n) with
  | none => none
  | some b =>
    if bad.contains (BitVec.ofNat 7 n, second) || decide (s.ras.siRun.svn.toNat < b.svn.toNat) then none
    else (b.opened (s.sealKey b.svn) n).map (fun k => (b, k))
def State.openBlob (s : State) (bad : List (BitVec 7 × Bool)) (n : Nat) : Option (Blob × KeySlot) :=
  (s.openCopy bad n false).or (s.openCopy bad n true)

/-- A blob that opens is held in both copies, sealed again where its SVN is below the running firmware's. -/
def State.reseal (s : State) (n : Nat) (b : Blob) (k : KeySlot) : State :=
  s.setBlob n (some (if b.svn = s.ras.siRun.svn then b else sealUnder (s.keySlot sealSlot).key s.ras.siRun.svn n b.gen k))

/-- Step 5 for one blob: it goes into its slot. A blob of which neither copy authenticates is discarded. -/
def State.unsealBlob (bad : List (BitVec 7 × Bool)) (s : State) (n : Nat) : State :=
  if (s.keySlot n).kind ≠ .empty then s
  else match s.openBlob bad n with
    | none => (s.setBlob n none).record 0x0602 srcSec 0 0 (toLE 1 n)
    | some (b, k) => (s.fillSlot n k).reseal n b k

/-- The slots that have a blob. -/
def State.blobSlots (s : State) : List Nat := (s.sec.blobs.map (fun e => e.1 % 128)).eraseDups

/-- The blobs are sealed again at the SVN of a new firmware. -/
def State.resealAll (s : State) : State :=
  s.blobSlots.foldl (fun s n => match s.openBlob [] n with
    | some (b, k) => s.reseal n b k
    | none => s) s

/-- Step 5: sealed blobs are unsealed into their slots. `bad` names the copies, of the two that each blob has, that fail to authenticate. -/
def State.unseal (bad : List (BitVec 7 × Bool)) (s : State) : State :=
  if s.sec.quarantine || !s.sec.ready || (s.keySlot sealSlot).kind = .empty then s
  else s.blobSlots.foldl (State.unsealBlob bad) s

end Sys2Proof.Machine
end

