-- ==== Sys2Proof/Machine/StoreEvents.lean ====
section
/-! DEFINITION. Events of the weight store (R229 to R253): unit programs, erases, page reads and decodes, reference checks,
Darner copies, retention, checkpoints, compaction, interface rates, and the writes of FLS_ASM and FLS_CONSENT. -/

namespace Sys2Proof.Machine

/-! ### Unit programs (R229, R230, R233, R242 step 3, R248) -/

/-- A bank holds a program. -/
def State.bankBusy (s : State) (key : Nat) : Bool := s.store.programming.any (fun p => p.2.2.2 / 256 = key / 256)

/-- The wordlines of a row below `w` from `lo` belong to dead stripes (log entry 22). -/
def State.skippable (s : State) (r lo w : Nat) : Bool :=
  (List.range (w - lo)).all (fun i => !s.liveStripes.contains (r, lo + i))

/-- A unit whose eight codewords wait may be programmed at its place (R230). -/
def State.unitReady (s : State) (h stripe u key w : Nat) : Bool :=
  let b := s.blk key
  s.storeOpen && s.flashMoves && (unitOffsets stripe u).all (fun o => s.accepted h o && !(s.codeword h o).programmed) &&
  decide (b.wl ≤ w) && s.skippable b.row b.wl w && b.copyTo = none && b.retire = none && !s.bankBusy key &&
  !s.bankErases (key / 256) key

/-- A unit of an extent waits for a program slot of a die. -/
def State.unitWaits (s : State) (die : Nat) : Bool :=
  s.store.cws.any (fun e =>
    let h := e.1 / 2 ^ 32
    let o := e.1 % 2 ^ 32
    !e.2.programmed && (match s.cwPlace h o with
      | some (key, w) => dieOf key = die && s.unitReady h (o / stripeCodewords) (o % stripeCodewords / 8) key w
      | none => false))

def execUnitProgramStart (handle : BitVec 16) (stripe : Nat) (unit : BitVec 8) (s : State) : Host.Outcome State Fault Refusal :=
  let h := handle.toNat
  match s.unitPlace h stripe unit.toNat with
  | none => .next s
  | some (key, w) =>
    .next (if s.unitReady h stripe unit.toNat key w && s.unitSlot (dieOf key) then
        { s with store := { s.store with programming := s.store.programming ++ [(h, stripe, unit.toNat, key)] } }
      else s)

/-- The codewords of a unit count as programmed. -/
def State.unitDone (s : State) (h stripe u : Nat) : State :=
  (unitOffsets stripe u).foldl (fun s o => s.setCodeword h o { s.codeword h o with programmed := true }) s

/-- The block has its next wordline; its age runs from its first. -/
def State.programWl (s : State) (key w : Nat) : State :=
  let b := s.blk key
  s.setBlk key { b with wl := w + 1, born := if b.wl = 0 then s.us else b.born }

/-- A unit program ends. A failed one leaves its codewords waiting for the destination of an URGENT copy of the block. -/
def execUnitProgramDone (handle : BitVec 16) (stripe : Nat) (unit : BitVec 8) (ok : Bool) (s : State) :
    Host.Outcome State Fault Refusal :=
  let h := handle.toNat
  match s.store.programming.find? (fun p => p.1 = h && p.2.1 = stripe && p.2.2.1 = unit.toNat) with
  | none => .next s
  | some p =>
    let key := p.2.2.2
    let s1 := { s with store := { s.store with programming := s.store.programming.filter (fun q => q ≠ p) } }
    if !ok then .next (s1.retireLater key 3 true)
    else
      let w := match s.unitPlace h stripe unit.toNat with | some x => x.2 | none => (s.blk key).wl
      let s2 := s1.programWl key w
      .next (if h = 0 then s2 else (s2.unitDone h stripe unit.toNat).sealTry h)

/-! ### Consent (R249) -/

/-- A write of MODEL and GO. -/
def execFlsConsent (val : Word) (s : State) : Host.Outcome State Fault Refusal :=
  let m := getBits val 0 5
  let s1 := s.setReg 0x60068 (w32 m)
  .next (s.byHost (
    if !bitOf val 31 then s1
    else if !s.store.shrink || s.store.need = 0 then s1
    else if s.extentsOf m = [] then s1.setReg 0x60004 (s1.reg 0x60004 ||| 0x04000000#32)
    else (s1.evictModel m false).shrinkGo))

/-! ### Erases (R231, R233, R246) -/

/-- The system blocks of a die are levelled among themselves: the one with the fewest cycles is erased next (R224; log entry 20). -/
def State.systemTurn (s : State) (key : Nat) : Bool :=
  (s.blk key).st ≠ .system ||
  ((List.range 8192).map (fun i => dieOf key * 8192 + i)).all (fun k => (s.blk k).st ≠ .system || decide ((s.blk key).pe ≤ (s.blk k).pe))

/-- An erase may begin: its data's reads are over, its bank is idle and the die has a slot for it (R231, R233, R234). -/
def State.eraseMayStart (s : State) (key : Nat) : Bool :=
  !s.readsOf key && !s.bankErases (key / 256) key && s.systemTurn key && s.eraseSlot (dieOf key) (s.unitWaits (dieOf key))

/-- The array operations of the store go on: it is READY and the device not in Idle. In an emergency what was under way ends (R251). -/
def State.storeRuns (s : State) : Bool := s.store.ready && s.pwr.dev ≠ .idle

/-- A pulse ends. In an emergency only the pulse in flight does (R251). A block of the system partition is erased in place. -/
def execErasePulseDone (die : BitVec 3) (bank : BitVec 5) (block : BitVec 8) (s : State) : Host.Outcome State Fault Refusal :=
  let key := blkKey die.toNat bank.toNat block.toNat
  let b := s.blk key
  let emergency := s.aon.seq = .emergency
  let go := (decide (0 < b.pulses) || s.eraseMayStart key) && (!emergency || !s.store.lastPulse.contains key)
  .next (if (b.st = .erasing || b.st = .system) && s.storeRuns && decide (b.pulses < 6) && !s.bankBusy key && go then
      let s1 := s.setBlk key { b with pulses := b.pulses + 1 }
      { s1 with store := { s1.store with
          gapReads := nset 0 s1.store.gapReads (key / 256) 0,
          lastPulse := if emergency then s1.store.lastPulse ++ [key] else s1.store.lastPulse } }
    else s)

/-- The spread of a die's wear and the block to level (R246). -/
def State.wearMark (s : State) (die : Nat) : State :=
  let goods := (dieKeys die).filter (fun k => (s.blk k).st ≠ .retired && (s.blk k).st ≠ .system)
  let pes := goods.map (fun k => (s.blk k).pe)
  let mapped := goods.filter (fun k => (s.blk k).st = .mapped)
  if s.spread < pes.foldl max 0 - pes.foldl min 65536 then
    match bestBlock s (fun a b => decide (a < b)) mapped with
    | some k => s.mark .wear k
    | none => s
  else s

/-- An erase and the reference programs after it end: the block is free with its counters at 0, or retired. A block of the system
partition goes on there, or is replaced (R224). A reference program that is under way at PWRFAIL_N completes (R251). -/
def execBlockEraseDone (die : BitVec 3) (bank : BitVec 5) (block : BitVec 8) (ok : Bool) (s : State) :
    Host.Outcome State Fault Refusal :=
  let key := blkKey die.toNat bank.toNat block.toNat
  let b := s.blk key
  if !s.storeRuns || decide (b.pulses < 6) then .next s
  else if b.st = .system then
    let s1 := s.setBlk key { b with pe := b.pe + 1, pulses := 0, segs := [] }
    .next (if !ok then s1.retireBlock key 0 true else if 100000 ≤ b.pe + 1 then s1.retireBlock key 2 true else s1)
  else if b.st ≠ .erasing then .next s
  else
    let s1 := s.setBlk key { Blk.fresh with pe := b.pe + 1 }
    if !ok then .next (s1.retireBlock key 0 true)
    else if 20000 ≤ b.pe + 1 then .next (s1.retireBlock key 2 true)
    else match b.retire with
      | some c => .next (s1.retireBlock key c (c ≠ 4))
      | none => .next (s1.wearMark die.toNat)

/-! ### Reads (R236, R237, R240, R241) -/

def segMax : Nat := 16777215
/-- `n` page reads of a segment: the counter and the marks of its thresholds. -/
def State.readSegment (s : State) (key seg n : Nat) : State :=
  let b := s.blk key
  let c := min segMax (nget 0 b.segs seg + n)
  let s1 := s.setBlk key { b with segs := nset 0 b.segs seg c }
  if s.threshUrgent ≤ c then s1.markUrgent key else if s.threshQueue ≤ c then s1.mark .queued key else s1

/-- The extent in use, and the stripe of it, that a wordline of a row holds. -/
def State.stripeAt (s : State) (row w : Nat) : Option (Nat × Nat) :=
  s.store.exts.findSome? (fun e =>
    if e.2.inUse then ((List.range e.2.stripes.length).find? (fun i => e.2.stripes[i]? = some (row, w))).map (fun i => (e.1, i)) else none)

/-- `n` reads of a bank between two pulses of an erase (R233). -/
def State.countGap (s : State) (bank n : Nat) : State :=
  if s.bankErases bank 65536 then
    { s with store := { s.store with gapReads := nset 0 s.store.gapReads bank (nget 0 s.store.gapReads bank + n) } }
  else s

/-- A read is under way: its page is named until its four codewords are decoded, or for the 70 µs that a read takes at most (R236). -/
def State.beginRead (s : State) (key wl : Nat) : State :=
  let b := s.blk key
  let s1 := s.countGap (key / 256) 1
  { s1 with store := { s1.store with
      reads := s.store.reads.filter (fun r => decide (s.us < r.until_)) ++
        [{ key := key, row := b.row, slot := b.slot, wl := wl, ext := s.stripeAt b.row wl, got := [], until_ := s.us + 70 }] } }

/-- The bank can take `n` reads now: it holds no program, and between two pulses of an erase it serves up to 16 reads (R233). -/
def State.bankReads (s : State) (bank n : Nat) : Bool :=
  !s.store.programming.any (fun p => p.2.2.2 / 256 = bank) &&
  (!s.bankErases bank 65536 || decide (nget 0 s.store.gapReads bank + n ≤ 16))

/-- A bank reads a page of a wordline, of any block (R240). Past HOLD a new read waits until the block's copy flips: what the bank
then reads is the copy itself. -/
def execFlashPageRead (die : BitVec 3) (bank : BitVec 5) (block : BitVec 8) (wl : BitVec 7) (s : State) :
    Host.Outcome State Fault Refusal :=
  let key := blkKey die.toNat bank.toNat block.toNat
  let b := s.blk key
  let seg := wl.toNat / 16
  if !s.storeOpen || !s.bankReads (key / 256) 1 then .next s
  else if b.st = .mapped && decide (s.threshHold ≤ nget 0 b.segs seg) then
    .next (if b.copyTo = none then s.flagHold else s.readSegment key seg 1)
  else .next ((s.beginRead key wl.toNat).readSegment key seg 1)

/-- FLS_UE_ADDR for a codeword at a place. -/
def ueAddr (key w o : Nat) : Word :=
  w32 (dieOf key * 2 ^ 28 + bankOf key * 2 ^ 23 + blockOf key * 2 ^ 15 + w * 2 ^ 8 + o % 8 / 4 * 2 ^ 7 + o % 4 * 2 ^ 5)

/-- A codeword that no stage decodes: unreadable until its extent is freed, with its address and event. -/
def State.cwFails (s : State) (h o key w : Nat) : State :=
  let s1 := (if s.accepted h o then s.setCodeword h o { s.codeword h o with bad := true } else s).bump 0x60058 0 16 1
  let s2 := s1.setRecord 0x6005C (ueAddr key w o)
  s2.record 0x0301 srcFls 3 stUncorrectable (regCopy (s2.reg 0x6005C) 0x6005C)

/-- A read under way has fetched a codeword: its extent's stripe stood in the wordline when the read began, and the codeword is on the
page that the read is of and not decoded yet. -/
def FlashRead.serves (r : FlashRead) (h o : Nat) : Bool :=
  r.ext = some (h, o / stripeCodewords) && r.slot = o % stripeCodewords / 8 && !r.got.contains (o % 8) &&
  r.got.all (fun i => i / 4 = o % 8 / 4)

/-- One more codeword of a read is decoded; with the page's fourth the read is over. -/
def takeCodeword (r : FlashRead) (o : Nat) : List FlashRead → List FlashRead
  | [] => []
  | x :: t => if x = r then (if 3 ≤ r.got.length then t else { r with got := r.got ++ [o % 8] } :: t) else x :: takeCodeword r o t

/-- The physical block and wordline that a weight read of a codeword reads: where a read under way began, whatever has been copied, moved
or freed since, else where the codeword stands; whether a read is under way; and the state after it (R242 step 5, R247, R249). -/
def State.readPlace (s : State) (h o : Nat) : Option (Nat × Nat × Bool × State) :=
  let live := s.store.reads.filter (fun r => decide (s.us < r.until_))
  match live.find? (fun r => r.serves h o) with
  | some r => some (r.key, r.wl, true, { s with store := { s.store with reads := takeCodeword r o live } })
  | none => (s.cwPlace h o).map (fun x => (x.1, x.2, false, s))

/-- The decode of a codeword that a weight read fetched ends. A codeword that needs stage 2 makes its block URGENT, whether stage 2
succeeds or not (R237): one that no stage decodes counts in UE alone and not in SOFT, of which R236 says nothing (DESIGN CHOICE, log entry
109). With no read of it under way the read of a held segment waits (R241); one that was in flight when its extent was freed completes
(R249). -/
def execFlashCodewordDecoded (handle : BitVec 16) (offset : Word) (d : Decode) (s : State) : Host.Outcome State Fault Refusal :=
  let h := handle.toNat
  let o := offset.toNat
  match s.readPlace h o with
  | none => .next s
  | some (key, w, begun, s0) =>
    if !s.store.ready || !s.flashMoves || (!begun && ((s.extent h).st ≠ .sealed_ || !(s.codeword h o).programmed)) then .next s
    else if !begun && s.cwHeld h o then .next s.flagHold
    else
      let s1 := if (s0.extent h).inUse then s0.setExtent h { s0.extent h with lastRead := (s.aon.calSec.toNat : Int) } else s0
      match d with
      | .hard n => .next (if s.ecRefresh < n && decide (n ≤ 64) then s1.mark .queued key else s1)
      | .soft => .next ((s1.bump 0x60058 16 16 1).mark .urgent key)
      | .fail => .next ((s1.cwFails h o key w).mark .urgent key)

/-! ### Reference wordlines (R238, R239) -/

/-- One more block for a column's candidate entry: a full list first loses the entry with the fewest blocks, the oldest of
such. -/
def addCandidate (cs : List (Nat × List Nat)) (col key : Nat) : List (Nat × List Nat) :=
  if cs.any (fun c => c.1 = col) then cs.map (fun c => if c.1 = col && !c.2.contains key then (c.1, c.2 ++ [key]) else c)
  else
    let fewest := (cs.map (fun c => c.2.length)).foldl min 65536
    let kept := if cs.length < 16 then cs else dropFirst (fun (c : Nat × List Nat) => c.2.length = fewest) cs
    kept ++ [(col, [key])]

def State.cands (s : State) (bk : Nat) : List (Nat × List Nat) := nget [] s.store.cands bk
def State.setCands (s : State) (bk : Nat) (cs : List (Nat × List Nat)) : State :=
  { s with store := { s.store with cands := nset [] s.store.cands bk cs } }
def State.colmap (s : State) (bk : Nat) : List Nat := nget [] s.store.colmap bk

/-- A column recorded in three blocks of a bank is mapped, or every block of the bank is retired. Whether these are the blocks outside the
system partition alone R239 does not say: the model leaves the bank's four system blocks out (DESIGN CHOICE, log entry 109). -/
def State.mapColumn (s : State) (bk col : Nat) : State :=
  let keys := (List.range 252).map (fun b => bk * 256 + b)
  let s1 := s.setCands bk ((s.cands bk).filter (fun c => c.1 ≠ col))
  if (s.colmap bk).length < 128 then
    let s2 := { s1 with store := { s1.store with colmap := nset [] s1.store.colmap bk (s1.colmap bk ++ [col]) } }
    let v := 0x80000000#32 ||| w32 (bk / 32 * 2 ^ 28 + bk % 32 * 2 ^ 23 + col * 2 ^ 5)
    let s3 := (s2.setReg 0x60060 v).record 0x0302 srcFls 0 0 (regCopy v 0x60060)
    keys.foldl (fun s k => s.mark .retention k) s3
  else
    let s2 := s1.record 0x0303 srcFls 0 0 (toLE 1 (bk / 32) ++ toLE 1 (bk % 32) ++ [0, 4])
    keys.foldl (fun s k => s.retireLater k 4 false) s2

/-- One failing column by Table 6. A column that is mapped already is read through its spare. -/
def State.refColumn (s : State) (key : Nat) (c : RefColumn) : State :=
  let bk := key / 256
  if decide (147455 < c.column) || (s.colmap bk).contains c.column then s
  else match c.senseOk, c.farOk with
    | true, false => s.retireLater key 1 true
    | false, false =>
      let cs := addCandidate (s.cands bk) c.column key
      let s1 := s.setCands bk cs
      if cs.any (fun x => x.1 = c.column && decide (3 ≤ x.2.length)) then s1.mapColumn bk c.column else s1
    | true, true => s
    | false, true => s.mark .queued key

/-- The Darner reads both reference wordlines of a block twice, when the bank can read (R233); each read counts for the nearest segment
(R240). -/
def execReferenceCheck (die : BitVec 3) (bank : BitVec 5) (block : BitVec 8) (cols : List RefColumn) (s : State) :
    Host.Outcome State Fault Refusal :=
  let key := blkKey die.toNat bank.toNat block.toNat
  if !s.storeOpen || (s.blk key).st ≠ .mapped || !s.bankReads (key / 256) 4 then .next s
  else .next (cols.foldl (fun s c => s.refColumn key c) (((s.countGap (key / 256) 4).readSegment key 0 2).readSegment key 7 2))

/-! ### Darner copies (R234, R242, R244, R246) -/

/-- The Darner takes the first block of its queue, where a slot is free. While a COMPACT mark stands first, its work is the moves of
the row's stripes (R245). -/
def execDarnerCopyStart (die : BitVec 3) (s : State) : Host.Outcome State Fault Refusal :=
  match s.nextCopy die.toNat with
  | none => .next s
  | some (c, key, dst) =>
    if !s.storeOpen || !s.flashMoves || !s.darnerSlot die.toNat (decide (c = .urgent)) (s.unitWaits die.toNat) then .next s
    else
      let b := s.blk key
      .next ((s.setBlk dst { s.blk dst with st := .dest, row := b.row, slot := b.slot }).setBlk key { b with copyTo := some dst })

/-- The copy's last wordline is programmed: the block map changes, and the source goes to its erase or its retirement. A destination
that is itself to be retired is marked for its own copy. -/
def State.flip (s : State) (key dst : Nat) : State :=
  let b := s.blk key
  let x := s.frow b.row
  let s1 := s.setFRow b.row { x with map := nset 65536 x.map b.slot dst }
  let s2 := s1.setBlk dst { s1.blk dst with st := .mapped, wl := b.wl, born := s.us }
  let s3 := (s2.bump 0x60054 0 32 1).unmark key
  let s4 := if (s.blk dst).retire.isSome then s3.mark .urgent dst else s3
  match b.retire with
  | some c => s4.retireBlock key c (c ≠ 4)
  | none => s4.startErase key

def execDarnerCopyFlip (die : BitVec 3) (bank : BitVec 5) (block : BitVec 8) (s : State) : Host.Outcome State Fault Refusal :=
  let key := blkKey die.toNat bank.toNat block.toNat
  let b := s.blk key
  match b.copyTo with
  | some dst =>
    .next (if b.st = .mapped && s.store.ready && !s.store.programming.any (fun p => p.2.2.2 = key) then s.flip key dst else s)
  | none => .next s

def dayUs : Nat := 86400000000

/-- A block's oldest programmed wordline is DAYS days old: a RETENTION mark, and an exit event (R445). -/
def execRetentionDue (die : BitVec 3) (bank : BitVec 5) (block : BitVec 8) (s : State) : Host.Outcome State Fault Refusal :=
  let key := blkKey die.toNat bank.toNat block.toNat
  let b := s.blk key
  .next (if b.st = .mapped && decide (0 < b.wl) && decide (b.born + s.days * dayUs ≤ s.us) then (s.mark .retention key).exitIdle else s)

/-! ### Checkpoints (R243, R251, R252) -/

/-- Every counter as it stands, by block and segment. -/
def counters (s : Store) : NMap Nat := (s.blks.map (fun e => e.2.segs.map (fun g => (8 * e.1 + g.1, g.2)))).flatten
def State.checkpoint (s : State) : State := { s with store := { s.store with ckpt := counters s.store } }

def execCounterCheckpoint (s : State) : Host.Outcome State Fault Refusal := .next (if s.store.ready then s.checkpoint else s)

/-- The counters of one block after a power loss without a checkpoint. -/
def chargedSegs (s : State) (key : Nat) : NMap Nat :=
  ((List.range 8).map (fun g => (g, min segMax (nget 0 s.store.ckpt (8 * key + g) + s.ckptInterval * 166667)))).filter (fun e => e.2 ≠ 0)

/-- A block at a start-up: its counters, and a copy or an erase starts again. -/
def bootBlk (s : State) (clean : Bool) (key : Nat) : Blk :=
  let b := s.blk key
  let segs := if clean then b.segs else chargedSegs s key
  let held := (s.frow b.row).map.any (fun e => e.2 = key)
  match b.st with
  | .mapped =>
    if held then { b with copyTo := none, segs := segs } else { Blk.fresh with st := .erasing, pe := b.pe, segs := segs, retire := b.retire }
  | .dest => { Blk.fresh with st := .erasing, pe := b.pe, segs := segs, retire := b.retire }
  | .erasing => { b with pulses := 0, segs := segs }
  | _ => { b with segs := segs }

def State.bootBlocks (s : State) (clean : Bool) : State :=
  let keys := if clean then s.store.blks.map (·.1) else List.range 65536
  { s with store := { s.store with
    blks := (keys.map (fun k => (k, bootBlk s clean k))).filter (fun e => e.2 ≠ s.newBlk e.1),
    reads := [], gapReads := [], lastPulse := [] } }

/-- Marks for what the charge has taken past a threshold. -/
def State.chargeMarks (s : State) : State :=
  s.store.blks.foldl (fun (s : State) e =>
    let top := (e.2.segs.map (·.2)).foldl max 0
    if e.2.st ≠ .mapped || e.2.wl = 0 then s
    else
      if s.threshUrgent ≤ top then s.markUrgent e.1 else if s.threshQueue ≤ top then s.mark .queued e.1 else s) s

/-- Units whose program the loss interrupted count as not programmed, and their blocks are URGENT. -/
def State.lostPrograms (s : State) : State :=
  let ps := s.store.programming
  ps.foldl (fun (s : State) p => s.mark .urgent p.2.2.2) { s with store := { s.store with programming := [] } }

/-- Codewords that were accepted and not programmed are lost with the assembly area (R251). -/
def State.lostAccepted (s : State) : State :=
  { s with store := { s.store with cws := s.store.cws.filter (fun e => e.2.programmed),
                                   exts := s.store.exts.map (fun e => (e.1, if e.2.st = .sealing then { e.2 with st := .open_ } else e.2)) } }

/-- One page read of every segment of a block that holds data. -/
def State.readEach (s : State) (key : Nat) : State :=
  (List.range (((s.blk key).wl + 15) / 16)).foldl (fun (s : State) seg => s.readSegment key seg 1) s

/-- With the calendar lost the Darner reads every segment of every mapped block and restarts its age (R244). Which blocks
need more than EC_REFRESH corrections nothing fixes: a free bit each. -/
def State.calendarLost (s : State) : State :=
  (nkeys s.store.blks (fun b => b.st = .mapped && decide (0 < b.wl))).foldl (fun (s : State) key =>
    let d := (s.readEach key).drawBits 1
    let s1 := if d.1.getLsbD 0 then d.2.mark .retention key else d.2
    s1.setBlk key { s1.blk key with born := s.us }) s

/-- The store loads its maps and counters (R252, R243, R244). -/
def State.storeLoad (s : State) (clean : Bool) : State :=
  let s1 := (s.bootBlocks clean).lostPrograms
  let s2 := if clean then s1 else (s1.setReg 0x60004 (s1.reg 0x60004 ||| 0x08000000#32)).chargeMarks
  let s3 := if s.store.timeLost then s2.calendarLost else s2
  { s3 with store := { s3.store with ready := true, saved := false, timeLost := false } }

/-! ### Compaction (R247) -/

/-- The FULL row with the fewest live stripes, the lowest of such. -/
def State.sparsest (s : State) : Option Nat :=
  let rs := (List.range 256).filter (fun r => (s.frow r).st = .full && (s.frow r).map ≠ [])
  rs.find? (fun r => rs.all (fun q => decide (s.rowLive r ≤ s.rowLive q)))

/-- A codeword of an extent has no place: its row waits for blocks. -/
def State.placeless (s : State) (h o : Nat) : Bool :=
  (s.extent h).inUse && decide (o < (s.extent h).codewords) && (s.cwPlace h o).isNone
/-- A PROGRAM waits under R232: an accepted codeword, or the next of an MWRITE, has no place. -/
def State.programHeld (s : State) : Bool :=
  s.store.cws.any (fun e => !e.2.programmed && s.placeless (e.1 / 2 ^ 32) (e.1 % 2 ^ 32)) ||
  s.cmds.any (fun k => k.op = 0x22 && k.stage = .started && s.placeless (k.u 4 2) (k.u 8 4 + k.done))

/-- A PROGRAM waits for a row, 128 stripes are dead, or a shrink is pending. -/
def State.wantsCompaction (s : State) : Bool := s.programHeld || decide (128 ≤ s.dead) || s.store.shrink

def execCompactionStart (s : State) : Host.Outcome State Fault Refusal :=
  if !s.storeOpen || s.store.compacting ≠ none || !s.wantsCompaction then .next s
  else match s.sparsest with
    | none => .next s
    | some r =>
      let s1 := { s with store := { s.store with compacting := some r } }
      .next ((((s.frow r).map.map (·.2)).foldl (fun (s : State) k => s.mark .compact k) s1).compactTry)

/-- Work of a higher class than COMPACT waits (R245). -/
def State.aboveCompact (s : State) : Bool :=
  s.store.marks.any (fun m => m.1 ≠ .compact && m.1 ≠ .wear && (s.blk m.2).st = .mapped && (s.blk m.2).copyTo = none)

/-- The next stripe of the compaction row. -/
def State.takeComp (s : State) : Option ((Nat × Nat) × State) :=
  let row := match s.store.compRow with
    | some r => some (r, s)
    | none => s.openComp
  match row with
  | none => none
  | some (r, s1) =>
    let t := s1.takeFrom r
    some ((r, t.1), { t.2 with store := { t.2.store with compRow := if t.1 = 127 then none else some r } })

/-- A live stripe of the row under compaction has been programmed in its new place, and its directory entry changes. -/
def State.moveStripe (s : State) (h i : Nat) : State :=
  match s.takeComp with
  | none => s
  | some ((r, w), s1) =>
    let e := s1.extent h
    let s2 := s1.setExtent h { e with stripes := e.stripes.set i (r, w) }
    let s3 := ((s2.frow r).map.map (·.2)).foldl (fun (s : State) k => s.programWl k w) s2
    s3.compactTry

def execStripeMoveDone (handle : BitVec 16) (stripe : Nat) (s : State) : Host.Outcome State Fault Refusal :=
  let h := handle.toNat
  match (s.extent h).stripes[stripe]? with
  | none => .next s
  | some (r, _) =>
    .next (if s.store.compacting = some r && s.storeOpen && s.flashMoves && s.stripeDone h stripe && !s.aboveCompact then
        s.moveStripe h stripe else s)

/-! ### Interface rates (R235, R491) -/

/-- The minima of Table 5: RDLAT, WRPRE and TURN. -/
def waitMinima (rate : BitVec 2) (lowv : Bool) : Nat × Nat × Nat :=
  match rate.toNat with
  | 0 => if lowv then (16, 8, 10) else (12, 6, 8)
  | 1 => (8, 4, 6)
  | _ => (4, 2, 4)

/-- The lowest supply of a rate, in mV. -/
def supplyFloor (rate : BitVec 2) : Nat := if rate.toNat ≤ 1 then 800 else 750

def State.waitsOk (s : State) (rate : BitVec 2) : Bool :=
  let r := s.reg 0x60008
  let m := waitMinima rate s.store.lowv
  decide (supplyFloor rate ≤ s.store.vccq) && decide (m.1 ≤ getBits r 0 8) && decide (m.2.1 ≤ getBits r 8 8) && decide (m.2.2 ≤ getBits r 16 8)

/-- Whether the band of the supply is held at the rate in force: after a sample, a change of rate and a write of FLS_WAIT (R235). -/
def State.bandCheck (s : State) : State := { s with store := { s.store with bandHeld := !s.waitsOk s.store.rate } }

/-- A change of rate takes effect, or is held while FLS_WAIT is too low. -/
def State.setFlashRate (s : State) (rate : BitVec 2) : State :=
  if rate = 3 then s
  else if s.waitsOk rate then ({ s with store := { s.store with rate := rate, held := false } }).bandCheck
  else { s with store := { s.store with held := true } }

/-- The rates that the mode in force permits (Table 2 of R439): Quiet up to 2.0 GT/s, Background 1.0 GT/s. -/
def State.modeRate (s : State) (rate : BitVec 2) : Bool :=
  if s.pwr.dev = .background then rate = 2 else s.pwr.mode ≠ 0 || rate ≠ 0

/-- While the temperature is critical the rate stays at 1.0 GT/s (R447). -/
def execFlashRateChange (rate : BitVec 2) (s : State) : Host.Outcome State Fault Refusal :=
  .next (if (s.pwr.crit && rate ≠ 2) || !s.modeRate rate then s else s.setFlashRate rate)

/-- LOWV while the interface supply reads below 0.86 V. A band whose wait states FLS_WAIT does not hold at the rate in force is held
(R235). -/
def execVccqFlashSample (mv : Nat) (s : State) : Host.Outcome State Fault Refusal :=
  .next ({ s with store := { s.store with lowv := decide (mv < 860), vccq := mv } } : State).bandCheck

/-! ### FLS_ASM (R253) -/

def State.flsCfgErr (s : State) : State := s.setReg 0x60004 (s.reg 0x60004 ||| 0x04000000#32)

def asmOf (v : Word) : Nat × Nat := (getBits v 0 20 * unit64K, getBits v 20 6 * 8388608)

/-- Only the management controller writes FLS_ASM, and EN = 1 needs a place apart from pools, frame tables and windows. STRIPES is 2 to 32
(Table 13); R253 speaks of the ranges of Table 12 alone, and the model treats a write outside this range as one outside those: ignored, with
CFG_ERR (DESIGN CHOICE, log entry 109). -/
def execFlsAsmWrite (who : Agent) (val : Word) (s : State) : Host.Outcome State Fault Refusal :=
  let st := getBits val 20 6
  let a := asmOf val
  match who with
  | .host => .next s
  | .mgmt =>
    .next (if decide (st < 2) || decide (32 < st) then s.flsCfgErr
      else if bitOf val 31 && (!inDram a || overlaps a (s.poolRegions noSkip ++ s.windowRegions noSkip noSkip)) then s.flsCfgErr
      else s.setReg 0x60028 (val &&& 0x83FFFFFF#32))

end Sys2Proof.Machine
end

