-- ==== Sys2Proof/Machine/Resets.lean ====
section
/-! DEFINITION. Resets (R15, R16): what POR, PERST, FLR and CORE resets do to every part (R66, R88, R115, R137, R171, R195, R196,
R219, R283, R302, R330, R354, R380, R399, R431, R459, R483, R505), the events that bring them about, and the global reset of R393. -/

namespace Sys2Proof.Machine

/-! ### Registers -/

def Dom.rank : Dom → Nat
  | .core => 0
  | .flr => 1
  | .perst => 2
  | .por => 3
  | .aon => 4
  | .kept => 5

/-- Registers whose domain a reset of a level covers take their reset values; latches with them (R510). R482 names no domain for
the values latched in EVT_DATA1 to EVT_DATA7, EVT_NOW_HI and EVT_NOW_F: the model clears them at an FLR and at every wider reset
(DESIGN CHOICE, log entry 82). -/
def State.resetRegs (s : State) (level : Nat) : State :=
  { s with regs := s.regs.filter (fun e => match regInfo e.1 with | some r => decide (level < r.dom.rank) | none => true), latch := [] }

/-! ### Parts of an FLR -/

/-- A core whose bitstream and work are gone; its fence, its faults and its operating point stay (R467, R459, R483). -/
def Core.afterFlr (k : Core) : Core :=
  { Core.reset with fence := k.fence, faultStep := if k.fence = .testing then 3 else k.faultStep, faultTimes := k.faultTimes, retest := k.retest,
                    gated := k.gated, point := k.point, stretch := k.stretch, ceWindow := k.ceWindow, ceActed := k.ceActed }

/-- Every active bitstream becomes RESIDENT; a load that was under way leaves its slot EMPTY. -/
def Bs.afterFlr (b : Bs) : Bs :=
  match b.st with
  | .active => { b with st := .resident, lastCtx := none, cqOk := false, switched := none }
  | .loading => .empty
  | _ => { b with switched := none }

/-- A patch before its flip is abandoned, and a load goes on without its command. -/
def Model.afterFlr (m : Model) : Model := { m with patch := none, loader := none }

/-- Contexts are disabled; ADMIN takes its reset value, and what comes with a key stays (R431). -/
def Ctx.afterFlr (n : Nat) (c : Ctx) : Ctx := { c with en := false, cls := false, admin := decide (n = 0) }

/-- The self-test of the hub after a DEVICE fault (R470): its outcome is free. -/
def State.hubTest (s : State) : State :=
  if !s.ras.deviceFault then s
  else
    let d := s.drawBits 1
    let ok := d.1 = 1#1
    { d.2 with ras := { d.2.ras with deviceFault := !ok, flrFailed := !ok } }

/-- IDE and session slots empty, and every session ends. -/
def State.secFlr (s : State) : State := (List.range 12).foldl (fun s i => s.emptySlot (104 + i)) s.endSessions

/-- A deferred version is released at once (R283). -/
def State.dropAllOld (s : State) : State := (s.models.map (·.1)).foldl State.dropOld s

/-- The DRAM bytes that a core's abandoned instructions had begun to write are undefined; the reset clears the other memories
(R171, R196). -/
def State.dropBegun (s : State) (n : Nat) : State :=
  s.scrambleMap n ((s.openWrites n).filter (fun r => decide (dramBase ≤ r.1)))

/-- The reset that FLR, PERST and POR share. -/
def State.flrReset (s : State) : State :=
  let s1 := (((List.range 16).foldl State.dropBegun s).hubTest).resetRegs 1
  let s2 :=
    { s1 with
      cmds := [], spools := [], seqs := [], pages := [], used := [], chans := [], parts := [], shm := .zero, shmPatrol := 0,
      passes := [], passNo := 0, rings := [], hostGran := [], colls := [],
      cores := ((List.range 16).map (fun n => (n, (s1.core n).afterFlr))).filter (fun e => e.2 ≠ Core.reset),
      bs := ((List.range 8).map (fun n => (n, (s1.bsSlot n).afterFlr))).filter (fun e => e.2 ≠ Bs.empty),
      models := ((List.range 32).map (fun n => (n, (s1.model n).afterFlr))).filter (fun e => e.2 ≠ Model.free),
      ctxs := ((List.range 64).map (fun n => (n, (s1.ctx n).afterFlr n))).filter (fun e => e.2 ≠ Ctx.reset),
      dram := { s1.dram with rq := [], wq := [], drain := 0, laneTotal := [], laneWin := [], probing := false },
      pwr := { s1.pwr with dev := .active, exiting := false, fixed := 0, samples := [], ticks := 0, long := 0, temps := [], flashTemp := 0 },
      ras := { s1.ras with tags := [], orphans := [] },
      evt := { s1.evt with gone := false }, tst := .reset, wrg := .reset, store := { s1.store with reads := [] },
      pcie := { s1.pcie with pba := [], cfg := [] } }
  s.alertEdge s2.secFlr.dropAllOld

/-- An FLR of a device whose ports stay UP: the other members of its system channels hear of it first (R399). The device is Active again,
and an alarm that came in sleep is answered (R424). -/
def State.flrUp (s : State) : State := s.leaveSystem.flrReset.wakeTamper

/-! ### PERST and POR -/

/-- A pending security-island image runs, and is measured; keys that depend on it are derived anew (R405, R473), and blobs are sealed at its
SVN (R413). -/
def State.runPendingSi (s : State) : State :=
  match s.ras.pendingSi with
  | none => s
  | some f =>
    let s1 := { s with ras := { s.ras with pendingSi := none, siPrev := some s.ras.siRun, siRun := f } }
    let s2 := if !s1.sec.ready then s1
      else s1.deriveOwn.resealAll
    s2.record 0x0802 srcMgt 0 0 (fwData f)

/-- Models that were LOADING or READY load again (R283). -/
def State.reloadMarks (s : State) : State :=
  { s with models := s.models.map (fun (e : Nat × Model) => (e.1,
      if e.2.st = .loading ∨ e.2.st = .ready then { e.2 with st := .loading, mir := [] } else e.2)) }

/-- The start-up reload of one model: without a mirror area it stays STORED, with an event (R262). Where EN is 1 and no run fits, R262 says
neither: the model leaves it STORED without an event (DESIGN CHOICE, log entry 106). -/
def State.reloadModel (s : State) (m : Nat) : State :=
  match s.loadStart m none with
  | some t => t
  | none =>
    let s1 := s.setModel m { s.model m with st := .stored, mir := [] }
    if s.mirrorArea.isNone then s1.record 0x0F01 srcStr 0 0 (regCopy (s1.reg 0x70000) 0x70000) else s1

/-- A model in its place by last use. -/
def insertUse (e : Nat × Model) : List (Nat × Model) → List (Nat × Model)
  | [] => [e]
  | f :: t => if f.2.use < e.2.use then e :: f :: t else f :: insertUse e t

/-- The models to load again, most recently used first. -/
def State.reloadOrder (s : State) : List Nat :=
  let ms := s.models.filter (fun e => e.2.st = .loading && e.2.loader.isNone && e.2.mir = [])
  (ms.foldl (fun l e => insertUse e l) []).map (·.1)

def State.reloadModels (s : State) : State := s.reloadOrder.foldl State.reloadModel s

/-- Step 4 of the security start-up is done, or has ended in quarantine. -/
def State.islandUp (s : State) : Bool := s.sec.ready || s.sec.quarantine

/-- Bitstreams are read back from the store into their DRAM area, and models load again, once DRAM, the store and the security island are
all up: whichever comes last brings this about (R262, R354). -/
def State.reloadAll (s : State) : State :=
  if s.dram.ready && s.store.ready && s.islandUp then ((List.range 8).foldl State.bsReload s).reloadModels else s

/-- Step 4 of R329; after a POR the clearing starts. -/
def execDramInitDone (s : State) : Host.Outcome State Fault Refusal :=
  .next (if !s.dram.initing then s else (s.modDram Dram.initialised).reloadAll)

/-- Keys at PERST: contexts are unkeyed, and the device memory key is replaced; quarantine ends once its alarm is recovered. -/
def State.secPerst (s : State) : State :=
  let s1 := (List.range 64).foldl (fun s c => s.emptySlot (ctxKeySlot c)) s
  let s2 := if s1.sec.ready then s1.genKey devKeySlot .internal 7 else s1
  s2.modSec (fun k => { k with quarantine := k.quarantine && (k.latched || k.alarm || s2.tap.testMode) })

/-- The controller's registers at PERST; channels in self-refresh, contents kept (R330). -/
def Dram.afterPerst (d : Dram) : Dram :=
  { Dram.reset with mem := d.mem, fresh := d.fresh, keys := d.keys, clearing := d.clearing, cleared := d.cleared,
                    selfRef := 0xFFFF, mr4 := d.mr4, seen := d.seen }

/-- What PERST and POR share beyond an FLR. -/
def State.perstBase (s : State) : State :=
  let s1 := (s.flrReset).resetRegs 2
  let s2 := { s1 with ports := [], dram := s1.dram.afterPerst, ras := { s1.ras with fwData := none },
                      pcie := { s1.pcie with linkUp := false, aer := false, rate := 0, width := 0 } }
  s2.runPendingSi.reloadMarks

/-- A PERST reset. What the store holds is read back once DRAM is READY again (R330, R354); an alarm that came in sleep is answered
(R424). -/
def State.perstReset (s : State) : State :=
  s.perstBase.secPerst.wakeTamper

/-- Every slot but slot 0 empties; the sealed blobs stay (R431). -/
def State.secPor (s : State) : State :=
  ((List.range 127).foldl (fun s i => s.emptySlot (i + 1)) s).modSec (fun k => { k with ready := false, quarantine := false })

/-- The ring as the log holds it; numbering goes on from its last record (R480). -/
def Evt.afterPor (e : Evt) : Evt :=
  { e with ring := e.log, ack := e.logAck, head := e.flushed, gone := false, flushGo := false,
           below := decide ((e.flushed - e.logAck).toNat < 256) }

/-- Points at P0, windows from the start; a fenced core stays fenced. -/
def Core.afterPor (k : Core) : Core :=
  { k with retest := false, point := 0, gated := false, stretch := false, ceWindow := 0, ceActed := false }

def State.porReset (s : State) : State :=
  let s1 := { s with store := { s.store with ready := false, compacting := none, rate := 0, held := false, lowv := false, bandHeld := false } }
  let s2 := (s1.perstBase).resetRegs 3
  let s3 := s2.secPor.lostAccepted
  { s3 with dram := .reset, pwr := { Pwr.reset with mode := s3.pwr.mode }, evt := s3.evt.afterPor,
            cores := ((List.range 16).map (fun n => (n, (s3.core n).afterPor))).filter (fun e => e.2 ≠ Core.reset),
            ras := { s3.ras with deviceFault := false, flrFailed := false, shmCe := 0, shmActed := false, mcRestarts := [] },
            tap := { Tap.reset with strap := s3.tap.strap, i3cHigh := s3.tap.i3cHigh } }

/-! ### The events -/

/-- Loss of the always-on supply: the AON registers, and a POR at the next power-up (R16). -/
def execAonSupplyLoss (s : State) : Host.Outcome State Fault Refusal :=
  let s1 := s.porReset
  .next { s1 with aon := { Aon.reset with supply := false }, store := { s1.store with timeLost := true },
                  sec := { s1.sec with alarm := false, latched := false, kind := 0, erased := false, sensors := 0 } }

/-- The supply is good again: the calendar restarts at 0, not valid, and I3C_ADDR is sampled (R489). -/
def execAonSupplyUp (s : State) : Host.Outcome State Fault Refusal :=
  .next (if s.aon.supply then s else { s with aon := { Aon.reset with i3cStrap := s.tap.i3cHigh } })

/-- From power-good on, an assertion resets the PERST domain (R496). -/
def execPerstAssert (s : State) : Host.Outcome State Fault Refusal :=
  let s1 := { s with pcie := { s.pcie with perst := true } }
  .next (if s.pcie.perst || s.aon.seq = .off || s.aon.seq = .rampUp then s1 else s1.perstReset)

/-- A release takes effect once REFCLK has run for 100 µs. -/
def execPerstRelease (refclkOk : Bool) (s : State) : Host.Outcome State Fault Refusal :=
  .next (if refclkOk then { s with pcie := { s.pcie with perst := false } } else s)

/-- The configuration write that starts an FLR. The reset is whole in one step, so no request meets a function that is in it, and the
two answers of R380 during it never show (log entry 2). -/
def execFlr (s : State) : Host.Outcome State Fault Refusal := .next (if s.linkOpen then s.flrUp else s)

/-- A hot reset, or a link that leaves DL_Up, acts as an FLR, which takes configuration space with it; sticky AER bits stay (R380). -/
def execLinkDlDown (s : State) : Host.Outcome State Fault Refusal :=
  .next (if s.pcie.linkUp then
      let s1 := s.flrUp
      { s1 with pcie := { s1.pcie with linkUp := false, rate := 0, width := 0 } }
    else s)

/-- The link finishes training; with TEST_MODE, or before power-good, it does not train (R355, R496, R502). -/
def execPcieLinkUp (rate width : BitVec 4) (s : State) : Host.Outcome State Fault Refusal :=
  .next (if s.pcie.perst || s.tap.testMode || s.aon.groups ≠ 5 || !(rate = 3 || rate = 4 || rate = 5) ||
      !(width = 1 || width = 4 || width = 8) then s
    else { s with pcie := { s.pcie with linkUp := true, rate := rate, width := width } })

/-! ### CORE reset of every core, and the global reset (R393) -/

/-- The commands that run on the cores end with ST_DISCARDED, with their records (Table 14 of R380). -/
def State.resetCores (s0 : State) : State :=
  let gone := s0.cmds.filter (fun k => k.onCores)
  let s1 := (List.range s0.coreCount).foldl State.abandon s0
  let s2 := gone.foldl (fun s k => s.discardCmd k (s0.discardCodes k)) s1
  ((List.range s0.coreCount).foldl State.coreReset s2).keyDestroyTry.wrgFill

/-- A member applies the reset, with its event. -/
def State.applyGreset (s : State) (flr : Bool) : State :=
  let s1 := if flr then s.flrUp else s.resetCores
  s1.record 0x0502 srcUlk 0 0 (regCopy (s1.reg 0xB0214) 0xB0214)

/-- A GRESET flit: DOMAIN in OFFSET bit 0 (log entry 46). -/
def gresetFlit (src dst : Nat) (flr : Bool) : Flit :=
  { Flit.zero with typ := 5, src := BitVec.ofNat 4 src, dst := BitVec.ofNat 4 dst, offset := w32 (boolNat flr) }

def execFlitGreset (p : BitVec 2) (f : Flit) (s : State) : Host.Outcome State Fault Refusal :=
  .next (if f.typ ≠ 5 then s
    else if f.dst.toNat = s.node then s.takeFlit p.toNat f (f.vc = 0) false (fun t => t.applyGreset (bitOf f.offset 0))
    else s.takeFlit p.toNat f (f.vc = 0) true (fun t => t.forward p.toNat f 0))

/-- A management write of ULK_GRESET with GO: the flits leave, GO clears, and this device applies it when it is a member. -/
def execUlkGreset (val : Word) (s : State) : Host.Outcome State Fault Refusal :=
  .next (if !bitOf val 31 || decide (s.aon.groups < 1) || (s.pcie.perst && s.aon.groups = 5) then s
    else
      let s1 := s.setReg 0xB0214 (val &&& 0x001FFFF0#32)
      let ms := nodesOf (BitVec.ofNat 16 (getBits val 4 16))
      let s2 := (ms.filter (fun n => n ≠ s.node)).foldl (fun s n => s.sendTo (gresetFlit s.node n (bitOf val 20)) 0) s1
      if ms.contains s.node then s2.applyGreset (bitOf val 20) else s2)

end Sys2Proof.Machine
end

