-- ==== Sys2Proof/Machine/Power.lean ====
section
/-! DEFINITION. Power, clocks and thermal control (R432 to R459) and the rails (R491 to R497): the governor's samples and
points, droop stretching, thermal levels, device states, the sequencer, the always-on domain, and the store's start-up
(R243, R252, R262, R354, R428). -/

namespace Sys2Proof.Machine

def State.modPwr (s : State) (f : Pwr → Pwr) : State := { s with pwr := f s.pwr }
def State.modAon (s : State) (f : Aon → Aon) : State := { s with aon := f s.aon }

/-! ### PWR_EVT (R457) -/

/-- A signed reading as 8 bits. -/
def tempByte (t : Int) : Nat := (t % 256).toNat
/-- The readings that stand, by sensor. -/
def Pwr.readings (p : Pwr) : List (Nat × Int) := p.temps.filterMap (fun e => e.2.map (fun t => (e.1, t)))
/-- The hottest sensor, the lowest of such; none before the first sample. -/
def hottest : List (Nat × Int) → Option (Nat × Int)
  | [] => none
  | e :: t => match hottest t with
    | none => some e
    | some f => if e.2 < f.2 then some f else some e
def Pwr.tj (p : Pwr) : Int := match hottest p.readings with | some e => e.2 | none => 0

/-- A bit of PWR_EVT becomes set: event, ALERT_N, and vector 3 unless masked. -/
def State.pwrEvent (s : State) (bit : Nat) : State :=
  if bitOf (s.reg 0x3002C) bit then s
  else
    let s1 := s.alertEdge (s.setReg 0x3002C (s.reg 0x3002C ||| w32 (2 ^ bit)))
    let s2 := s1.record 0x0701 srcPwr 0 0 (regCopy (s1.reg 0x3002C) 0x3002C ++ toLE 1 (tempByte s1.pwr.tj))
    if bitOf (s2.reg 0x30030) bit then s2 else s2.signal 3

/-! ### Points (R432 to R436, R439) -/

def pointMv (p : Nat) : Nat := [650, 650, 700, 750, 800, 850, 900].getD p 900
def pointMhz (p : Nat) : Nat := [400, 600, 800, 1000, 1200, 1350, 1500].getD p 1500
/-- The mode in force: 3 for Background. -/
def State.modeNow (s : State) : Nat := if s.pwr.dev = .background then 3 else s.pwr.mode.toNat
/-- The highest core point of a mode (Table 2). -/
def modeTop (m : Nat) : Nat := [4, 5, 6, 2].getD m 2
def State.pl2 (s : State) : Nat := getBits (s.reg (0x30008 + 4 * s.modeNow)) 16 16
def State.pl1 (s : State) : Nat := getBits (s.reg (0x30008 + 4 * s.modeNow)) 0 16

/-- A core's demand (R436). -/
def State.demand (s : State) (n : Nat) : Nat := if (s.core n).run then modeTop s.modeNow else 0
/-- The point that a core goes to: its demand, or in fixed mode the point of a core that runs (R441). -/
def State.wanted (s : State) (n : Nat) : Nat :=
  if (s.core n).run && s.pwr.fixed ≠ 0 then s.pwr.fixed.toNat + 1 else s.demand n

def State.topPoint (s : State) (r : Nat) : Nat := ((s.ridgeCores r).map (fun n => (s.core n).point)).foldl max 0
def State.heldPoint (s : State) (r : Nat) : Nat := nget 0 s.pwr.ridgePoint r
def State.setPoints (s : State) (r : Nat) (f : Nat → Nat → Nat) : State :=
  (s.ridgeCores r).foldl (fun s n => s.movePoint n (f n (s.core n).point)) s

/-- The ridge voltage falls to its cores' highest point; a ramp that was under way ends. -/
def State.settle (s : State) (r : Nat) : State := s.modPwrPoint r (s.topPoint r)

/-- One point down for a ridge: clocks first, then the voltage. -/
def State.lowerRidge (s : State) (r : Nat) : State := (s.setPoints r (fun _ p => p - 1)).settle r

def State.logical (s : State) (p : Nat) : Option Nat := (List.range s.coreCount).find? (fun n => s.positions.getD n 16 = p)

/-- The cores that move with a core: those of its ridge that run the same command (R436). -/
def State.mates (s : State) (n : Nat) : List Nat :=
  (s.ridgeCores (s.ridge n)).filter (fun m => m = n || ((s.core n).run && (s.core m).run && (s.core m).cmd = (s.core n).cmd))

/-- Cores that a hot island's rule lowers: itself with the cores that move with it, or a segment's cores. -/
def State.coolCores (s : State) (sensor : Nat) : List Nat :=
  if sensor < 16 then ((s.logical sensor).toList.map s.mates).flatten
  else if sensor < 20 then s.ridgeCores (sensor - 16)
  else []

/-- The governor holds a raise of a core that a pair of neighbouring islands keeps down (R27, R435). -/
def State.heldDown (s : State) (n : Nat) : Bool := s.pwr.hot.any (fun e => (s.coolCores e.1).contains n)

/-- Where each core of a ridge goes at a raise: a step toward its demand, or its point of fixed mode. -/
def State.raised (s : State) (n p : Nat) : Nat :=
  if s.wanted n ≤ p || s.heldDown n then p else if s.pwr.fixed ≠ 0 then s.wanted n else p + 1
def State.raiseTarget (s : State) (r : Nat) : Nat := ((s.ridgeCores r).map (fun n => s.raised n (s.core n).point)).foldl max 0

/-- A raise: the voltage ramps first where the new point needs more. -/
def State.raiseRidge (s : State) (r : Nat) : State :=
  let t := s.raiseTarget r
  if nget 0 s.pwr.rampTo r ≠ 0 then s
  else if pointMv (max (s.heldPoint r) (s.topPoint r)) < pointMv t then s.modPwr (fun p => { p with rampTo := nset 0 p.rampTo r t })
  else (s.setPoints r s.raised).settle r

def State.ridgePower (s : State) (r : Nat) : Nat := s.pwr.ridgeMw.getD r 0
/-- A ridge comes before another when the governor lowers: higher point, then higher power, then lower number. -/
def State.lowersFirst (s : State) (a b : Nat) : Bool :=
  let x := (s.topPoint a, s.ridgePower a)
  let y := (s.topPoint b, s.ridgePower b)
  decide (y.1 < x.1) || (x.1 = y.1 && (decide (y.2 < x.2) || (x.2 = y.2 && decide (a ≤ b))))

def State.lowerOne (s : State) : State :=
  let rs := (List.range 4).filter (fun r => decide (0 < s.topPoint r))
  match rs.find? (fun a => rs.all (fun b => s.lowersFirst a b)) with
  | some r => s.lowerRidge r
  | none => s

def State.raiseOne (s : State) : State :=
  let rs := (List.range 4).filter (fun r => (s.ridgeCores r).any (fun n => decide ((s.core n).point < s.raised n (s.core n).point)))
  match rs.find? (fun a => rs.all (fun b => s.lowersFirst b a)) with
  | some r => s.raiseRidge r
  | none => s

/-- Cores never run above the point that they go to. -/
def State.clipPoints (s : State) : State :=
  (List.range 4).foldl (fun s r =>
    if (s.ridgeCores r).any (fun n => decide (s.wanted n < (s.core n).point)) then
      (s.setPoints r (fun n p => min p (s.wanted n))).settle r
    else s) s

/-! ### POWER_SAMPLE (R440, R441) -/

/-- The governor runs from power-good to the end of the shutdown. -/
def State.powered (s : State) : Bool := s.aon.groups = 5

def Pwr.sum (p : Pwr) : Nat := p.samples.foldl (· + ·) 0
/-- The short average, rounded down. -/
def Pwr.shortAvg (p : Pwr) : Nat := if p.samples = [] then 0 else p.sum / p.samples.length
/-- 2⁻³² mW as the unit of the long average. -/
def longUnit : Nat := 4294967296
def State.takeSample (s : State) (mw : Nat) (ridges : List Nat) : State :=
  let tau := max 1 (getBits (s.reg 0x30018) 0 5)
  s.modPwr (fun p =>
    { p with samples := mw :: p.samples.take 4999, ticks := p.ticks + 1, ridgeMw := ridges,
             long := p.long + (2 * mw * longUnit) / (tau * 1000000) - 2 * p.long / (tau * 1000000) })

/-- The governor leaves fixed mode. -/
def State.leaveFixed (s : State) : State :=
  if s.pwr.fixed = 0 then s else (s.modPwr (fun p => { p with fixed := 0 })).pwrEvent 4

/-- The limits of the mode (R440): every 20 µs for the short average, every 1 ms for the others. -/
def State.limits (s : State) : State :=
  let p := s.pwr
  let over2 := decide (s.pl2 * p.samples.length < p.sum)
  let over1 := decide (s.pl1 * longUnit < p.long)
  let under := decide (100 * p.sum ≤ 95 * s.pl2 * p.samples.length) && decide (100 * p.long ≤ 95 * s.pl1 * longUnit)
  let s1 := if over2 && p.ticks % 10 = 0 then s.lowerOne else s
  let s2 := if over1 && p.ticks % 500 = 0 then s1.lowerOne else s1
  let s3 := if over2 || over1 then s2.pwrEvent 3 else s2
  if under && p.ticks % 500 = 0 && !p.crit && !p.ctrlHold then s3.raiseOne else s3

/-- Fixed mode: cores that run go to their point, unless the thermal levels hold a raise (R447), and PL2 ends it. -/
def State.fixedStep (s : State) : State :=
  if decide (s.pl2 * s.pwr.samples.length < s.pwr.sum) then s.leaveFixed
  else if s.pwr.crit || s.pwr.ctrlHold then s
  else (List.range 4).foldl (fun s r =>
    if (s.ridgeCores r).any (fun n => decide ((s.core n).point < s.raised n (s.core n).point)) then s.raiseRidge r else s) s

/-! #### The estimate (R438): islands in the numbering of the temperature sensors (R446); the tables of weights and leakage, and the fixed
terms of the dies, are the part's own (log entry 105) -/

/-- The supply voltage of an island in mV: a core's ridge, a segment at 0.80 V, or the fixed voltage of another island (R432). -/
def State.islandMv (s : State) (i : Nat) : Nat :=
  if i < 16 then pointMv (s.heldPoint (i / 4)) else if i < 20 then 800 else Config.islandMv i

/-- An island's part in nW: its weighted count of activity over 2 µs scaled by (V / V_nominal)², and its leakage. -/
def State.islandNw (s : State) (i : Nat) (counts : List Nat) : Nat :=
  let v := s.islandMv i
  let active := ((indexed counts).map (fun e => e.2 * Config.powerWeight i e.1)).foldl (· + ·) 0
  active * 500 * v ^ 2 / Config.nominalMv i ^ 2 + Config.leakNw i v (nget none s.pwr.temps i)

/-- The parts of the cores and of the other islands, in nW. -/
def State.coreNw (s : State) (cores : List (List Nat)) (n : Nat) : Nat := s.islandNw (s.positions.getD n 0) (cores.getD n [])
def State.restNw (s : State) (others : List (List Nat)) : Nat :=
  ((List.range 16).map (fun i => s.islandNw (16 + i) (others.getD i []))).foldl (· + ·) 0

/-- P in mW, rounded down: the islands' parts and the fixed term of the DRAM and flash dies at their rates. -/
def State.estimate (s : State) (cores others : List (List Nat)) : Nat :=
  let sum := ((List.range s.coreCount).map (s.coreNw cores)).foldl (· + ·) 0 + s.restNw others +
    Config.dieNw (getBits s.dram.active.mode 28 3) s.store.rate.toNat
  sum / 1000000

/-- A ridge's part in mW: its cores' (R436). -/
def State.ridgeEstimate (s : State) (cores : List (List Nat)) (r : Nat) : Nat :=
  ((s.ridgeCores r).map (s.coreNw cores)).foldl (· + ·) 0 / 1000000

/-- An estimate of package power, from the events that each island has counted in the sample, by kind in the order of R438. -/
def execPowerSample (cores others : List (List Nat)) (s : State) : Host.Outcome State Fault Refusal :=
  if !s.powered then .next s
  else
    let s1 := (s.takeSample (s.estimate cores others) ((List.range 4).map (s.ridgeEstimate cores))).clipPoints
    let s2 := if s1.pwr.fixed ≠ 0 then s1.fixedStep else s1
    let s3 := if s2.pwr.fixed = 0 then s2.limits else s2
    .next (if (List.range s.coreCount).any (fun n => decide ((s3.core n).point < s3.demand n)) then s3.bump 0x30034 0 32 1 else s3)

/-- A ridge's voltage has reached its target, and the clocks rise unless a thermal level holds them (R447). Where no core has risen to the
target, the voltage falls again to the highest point (R433). -/
def execPointRampDone (ridge : BitVec 2) (s : State) : Host.Outcome State Fault Refusal :=
  let r := ridge.toNat
  let t := nget 0 s.pwr.rampTo r
  .next (if t = 0 then s
    else (if s.pwr.crit || s.pwr.ctrlHold then s else s.setPoints r (fun n p => min t (s.raised n p))).settle r)

/-- A host write of CLK_FIXED. In Background, a setting above its highest point ends fixed mode at once (R441). -/
def State.fixedWrite (s : State) (val : Word) : State :=
  let set := BitVec.ofNat 2 (getBits val 0 2)
  let s1 := s.modPwr (fun p => { p with fixed := set })
  if s.pwr.dev = .background && decide (2 ≤ set.toNat) then s1.leaveFixed else s1

/-- The write of CLK_FIXED is an exit event (R445). -/
def execClkFixedWrite (val : Word) (s : State) : Host.Outcome State Fault Refusal := .next (s.byHost (s.fixedWrite val).exitIdle)

/-! ### Temperature (R435, R446 to R448) -/

/-- Sensors of neighbouring islands (R26): core and segment, segment and segment, segment and hub, hub and the others. -/
def State.neighbours (s : State) : List (Nat × Nat) :=
  s.positions.map (fun p => (p, 16 + p / 4)) ++
  [(16, 17), (16, 18), (16, 19), (17, 18), (17, 19), (18, 19)] ++
  ((List.range 4).map (fun r => (List.range 4).map (fun h => (16 + r, 20 + h)))).flatten ++
  ((List.range 4).map (fun h => (List.range 8).map (fun i => (20 + h, 24 + i)))).flatten

def Pwr.temp? (p : Pwr) (i : Nat) : Option Int := nget none p.temps i
/-- How much hotter one sensor is than another. -/
def Pwr.over (p : Pwr) (a b : Nat) : Int :=
  match p.temp? a, p.temp? b with
  | some x, some y => x - y
  | _, _ => 0

/-- The pairs that R435 acts on: from above 28 °C until 25 °C. -/
def State.hotPairs (s : State) : List (Nat × Nat) :=
  let all := s.neighbours ++ s.neighbours.map (fun e => (e.2, e.1))
  all.filter (fun e => decide (28 < s.pwr.over e.1 e.2) || (s.pwr.hot.contains e && decide (25 < s.pwr.over e.1 e.2)))

def State.lowerCores (s : State) (ns : List Nat) : State :=
  let s1 := ns.foldl (fun s n => s.movePoint n ((s.core n).point - 1)) s
  (List.range 4).foldl (fun s r => if ns.any (fun n => s.ridge n = r) then s.settle r else s) s1

/-- Cores at P0 whose difference still exceeds 29 °C are gated until 25 °C. -/
def State.heatGates (s : State) (pairs : List (Nat × Nat)) : BitVec 16 :=
  pairs.foldl (fun m e =>
    match s.logical e.1 with
    | some n =>
      if e.1 < 16 ∧ (s.pwr.heatGated.getLsbD n ∨ ((s.core n).point = 0 ∧ 29 < s.pwr.over e.1 e.2)) then m ||| nodeBit n else m
    | none => m) 0

/-- The neighbour rule: pairs at every sample, a step every 1 ms. -/
def State.neighbourRule (s : State) : State :=
  let pairs := s.hotPairs
  let s1 := s.modPwr (fun p => { p with hot := pairs })
  if pairs = [] then s1.modPwr (fun p => { p with heatGated := 0 })
  else
    let s2 := s1.modPwr (fun p => { p with heatGated := s1.heatGates pairs })
    let s3 := if s.pwr.tempTicks % 20 = 0 then s2.lowerCores ((pairs.map (fun e => s2.coolCores e.1)).flatten.eraseDups) else s2
    s3.pwrEvent 5

def State.tAlert (s : State) : Int := ((s.reg 0x30028).setWidth 8).toInt
def State.tCtrl (s : State) : Int := (((s.reg 0x30028) >>> 8).setWidth 8).toInt

/-- Every core to P0. -/
def State.allP0 (s : State) : State :=
  (List.range 4).foldl (fun s r => (s.setPoints r (fun _ _ => 0)).settle r) s

/-- The levels of Table 4. -/
def State.thermal (s : State) : State :=
  let tj := s.pwr.tj
  let s1 := if s.tAlert ≤ tj then (s.pwrEvent 0).exitIdle else s
  let tooHot := decide (s.tCtrl < tj)
  let hold := tooHot || (s.pwr.ctrlHold && !decide (tj ≤ s.tCtrl - 3))
  let crit := decide (105 ≤ tj) || (s.pwr.crit && !decide (tj ≤ 100))
  let s2 := s1.modPwr (fun p => { p with ctrlHold := hold, crit := crit })
  let s3 := if tooHot then (s2.pwrEvent 1).leaveFixed else s2
  let s4 := if tooHot && s.pwr.tempTicks % 2 = 0 then s3.lowerOne else s3
  if crit then ((s4.leaveFixed.allP0).setFlashRate 2).pwrEvent 2 else s4

/-- Readings in °C by sensor; sensors of disabled positions are not read. -/
def execTempSample (readings : List (BitVec 5 × Int)) (s : State) : Host.Outcome State Fault Refusal :=
  if !s.powered then .next s
  else
    let ok := readings.filter (fun e => decide (16 ≤ e.1.toNat) || s.fuses.mask.getLsbD e.1.toNat)
    let s1 := s.modPwr (fun p =>
      { p with temps := ok.foldl (fun m e => nset none m e.1.toNat (some e.2)) p.temps, tempTicks := p.tempTicks + 1 })
    .next s1.neighbourRule.thermal

/-- The hottest flash die in °C. -/
def execFlashTempSample (hottest : Nat) (s : State) : Host.Outcome State Fault Refusal :=
  .next (if !s.powered then s
    else
      let s1 := s.modPwr (fun p => { p with flashTemp := hottest })
      if 90 < hottest then s1.pwrEvent 6 else s1)

/-! ### Droop (R437) -/

/-- A core above P0, or a routing segment, stretches its clock. -/
def execDroopDetect (i : Island) (s : State) : Host.Outcome State Fault Refusal :=
  .next (if !s.powered then s
    else match i with
      | .core n =>
        if decide (s.coreCount ≤ n.toNat) || (s.core n.toNat).point = 0 then s else s.modCore n.toNat (fun k => { k with stretch := true })
      | .seg n => s.modPwr (fun p => { p with segStretch := putBit p.segStretch n.toNat true })
      | _ => s)

/-- The stretched cycles of a stretch: at least the 16 that end it, and a free number more. -/
def State.stretchCycles (s : State) (off : Nat) : State :=
  ({ s with draws := s.draws + 1 }).bump off 0 32 (16 + Config.freeNat s.draws)

def execStretchEnd (i : Island) (s : State) : Host.Outcome State Fault Refusal :=
  .next (match i with
    | .core n =>
      if (s.core n.toNat).stretch then (s.modCore n.toNat (fun k => { k with stretch := false })).stretchCycles (clkStretch n.toNat) else s
    | .seg n =>
      if s.pwr.segStretch.getLsbD n.toNat then
        (s.modPwr (fun p => { p with segStretch := putBit p.segStretch n.toNat false })).stretchCycles (0x40020 + 4 * n.toNat)
      else s
    | _ => s)

/-! ### Device states (R443 to R445) -/

/-- R444: what Idle entry needs. -/
def State.mayIdle (s : State) : Bool :=
  bitOf (s.reg 0x30004) 31 && s.aon.seq = .on && (s.pwr.dev = .active || s.pwr.dev = .background) &&
  s.cmds.all (fun k => k.stage = .ended) && s.models.all (fun e => e.2.st ≠ .loading && e.2.patch.isNone) &&
  !s.dram.switching && !s.dram.probing && s.store.marks.all (fun m => m.1 ≠ .urgent && m.1 ≠ .queued) &&
  (List.range 4).all (fun n => (s.port n).st ≠ 2) && s.sec.destroyWait.isNone

/-- The conditions have held for IDLE_DELAY. -/
def execIdleEntry (s : State) : Host.Outcome State Fault Refusal :=
  .next (if s.mayIdle then s.modPwr (fun p => { p with dev := .enteringIdle }) else s)

/-- On-die state goes, active bitstreams become RESIDENT, the counters are checkpointed, and DRAM is in self-refresh. -/
def State.goIdle (s : State) : State :=
  let s1 := ((List.range 8).filter (fun i => (s.bsSlot i).st = .active)).foldl State.deactivate s
  let s2 := (List.range 16).foldl (fun s n => (s.movePoint n 0).modCore n Core.lose) s1
  let s3 := { s2 with shm := .zero, shmPatrol := 0, dram := { s2.dram with selfRef := 0xFFFF, openRow := [] } }
  ((s3.checkpoint).modPwr (fun p => { p with dev := .idle, ridgePoint := [], rampTo := [] })).driveClkreq false

/-- The Darner has finished the programs that were in progress; an erase pulse is one step of the model, and in Idle none follows
(log entry 2). -/
def execIdleEntered (s : State) : Host.Outcome State Fault Refusal :=
  .next (if s.pwr.dev = .enteringIdle && s.store.programming = [] then s.goIdle else s)

/-- The device is Active again; a tamper alarm that came in sleep is answered (R424). -/
def State.wake (s : State) : State := (s.modPwr (fun p => { p with dev := .active, exiting := false })).wakeTamper

/-- An exit event has come, and the ridges, the hub memories and the flash interfaces are powered up. -/
def execIdleExit (s : State) : Host.Outcome State Fault Refusal :=
  .next (if s.pwr.dev = .idle && s.pwr.exiting then s.wake else s)

/-! ### The sequencer (R449 to R454) -/

def seqCode : SeqState → Nat
  | .off => 0
  | .rampUp => 1
  | .starting => 2
  | .on => 3
  | .down => 4
  | .emergency => 5

def State.seqEvent (s : State) (group what : Nat) : State :=
  s.record 0x0703 srcAon 0 0 (toLE 1 (seqCode s.aon.seq) ++ toLE 1 group ++ toLE 1 what)

/-- The groups whose rails reach the memory dies only through a power switch: G3 the DRAM, G4 the flash (R491, R492). -/
def Aon.switch (a : Aon) (g : Nat) : Bool := if g = 3 then a.dramSwitch else if g = 4 then a.flashSwitch else false
def Aon.setSwitch (a : Aon) (g : Nat) (on : Bool) : Aon :=
  if g = 3 then { a with dramSwitch := on } else if g = 4 then { a with flashSwitch := on } else a
/-- A group is good, and its switch closes. -/
def State.closeSwitch (s : State) (g : Nat) : State :=
  if g = 3 || g = 4 then (s.modAon (fun a => a.setSwitch g true)).emit (.powerSwitch g true) else s
/-- A group's enable falls, after its switch has opened. -/
def State.groupOff (s : State) (g : Nat) : State :=
  (if s.aon.switch g then (s.modAon (fun a => a.setSwitch g false)).emit (.powerSwitch g false) else s).emit (.railEnable g false)

/-- The rails go in reverse order: every volatile state is lost, and MIN_OFF runs. What the always-on domain has recorded before
power-good stays (R449, R454). -/
def State.railsOff (s : State) : State :=
  let gs := (List.range (if s.aon.seq = .rampUp then s.aon.groups + 1 else 5)).reverse
  let s0 := s.porReset
  let s1 := ({ s0 with evt := if s.aon.seq = .rampUp then s.evt else s0.evt } : State).modAon (fun a =>
    { a with seq := .off, groups := 0, minOff := true, offLatched := false, posted := [], busy := false, shadow := [] })
  (gs.foldl (fun s g => s.groupOff (g + 1)) s1).driveClkreq false

/-- A group that is not good, or was good before its enable: the ramp ends, with an event (R449, R493). -/
def State.rampFails (s : State) (group : Nat) : State := (s.seqEvent group 0).railsOff

/-- The enable of a group rises, unless its power-good is high already (R493). -/
def State.enableGroup (s : State) (g : Nat) : State := if s.aon.pg.getLsbD g then s.rampFails g else s.emit (.railEnable g true)

def State.startRamp (s : State) : State :=
  (s.modAon (fun a => { a with seq := .rampUp, groups := 0, onLatched := false })).enableGroup 1

/-- An on request (Tables 5 and 8). -/
def State.onRequest (s : State) : State :=
  match s.aon.seq with
  | .off =>
    if s.aon.trip then s.seqEvent 0 1
    else if s.aon.minOff then s.modAon (fun a => { a with onLatched := true })
    else s.startRamp
  | .down => s.modAon (fun a => { a with onLatched := true })
  | .emergency => s.modAon (fun a => { a with onLatched := true })
  | _ => s

/-- Step 1 of an orderly power-down. -/
def State.startDown (s : State) : State :=
  let s1 := s.modAon (fun a => { a with seq := .down, offLatched := false })
  let s2 := s1.modPwr (fun p => { p with dev := if p.dev = .enteringIdle then .active else p.dev })
  s2.cmds.foldl (fun s k => if s.affected k.ref.ctx k.ref.spool then s else s.stopCmd stAborted k) s2

/-- A core fault is between its steps 2 and 5. -/
def State.fencing (s : State) : Bool := (List.range 16).any (fun n => (s.core n).faultStep = 1 || (s.core n).faultStep = 2)

/-- An off request that came during a core fault is taken at its step 5 (Table 3 of R469). -/
def State.lateOff (s : State) : State := if s.aon.seq = .on && s.aon.offLatched && !s.fencing then s.startDown else s

def execFenceDeadline (c : BitVec 4) (s : State) : Host.Outcome State Fault Refusal :=
  .next (if (s.core c.toNat).faultStep = 2 then (s.fence c.toNat).lateOff else s)

/-- An off request (Table 8). -/
def State.offRequest (s : State) : State :=
  match s.aon.seq with
  | .rampUp => s.modAon (fun a => { a with offLatched := true })
  | .starting => s.modAon (fun a => { a with offLatched := true })
  | .on => if s.fencing then s.modAon (fun a => { a with offLatched := true }) else s.startDown
  | _ => s

/-- An emergency shutdown begins: every core stops, and the recorder flushes. -/
def State.emergency (s : State) : State :=
  let s1 := (s.stopAll).record 0x0702 srcAon 0 0 (toLE 1 (seqCode s.aon.seq))
  (s1.flushLog).modAon (fun a => { a with seq := .emergency, clean := false })

/-- PWRFAIL_N or a trip meets the sequencer (Table 8). -/
def State.powerFails (s : State) : State :=
  match s.aon.seq with
  | .rampUp => s.railsOff
  | .starting => s.emergency
  | .on => s.emergency
  | .down => s.emergency
  | _ => s

def State.supplied (s t : State) : State := if s.aon.supply then t else s

def execPowerOnRequest (s : State) : Host.Outcome State Fault Refusal := .next (s.supplied s.onRequest)
def execPwrfailDeassert (s : State) : Host.Outcome State Fault Refusal :=
  .next (s.supplied (if s.aon.autoOn then s.onRequest else s))
def execI3cOn (val : Word) (s : State) : Host.Outcome State Fault Refusal :=
  .next (s.supplied (if bitOf val 31 then s.onRequest else s))
def execI3cOff (val : Word) (s : State) : Host.Outcome State Fault Refusal :=
  .next (s.supplied (if bitOf val 30 then s.offRequest else s))

/-- A host write of PWR_CTRL: its fields, an off request with OFF, and an exit event (R445). -/
def State.ctrlWrite (s : State) (val : Word) : State :=
  let s1 := s.setReg 0x30004 (if getBits val 0 16 = 0 then (s.reg 0x30004 &&& 0x0000FFFF#32) ||| (val &&& 0x80000000#32) else val &&& 0x8000FFFF#32)
  (if bitOf val 30 then s1.offRequest else s1).exitIdle

def execPwrCtrlOff (val : Word) (s : State) : Host.Outcome State Fault Refusal := .next (s.byHost (s.ctrlWrite val))

/-- Power-good: POR is released, WAKE_N is released, and the TEST_MODE strap is taken. -/
def State.powerGood (s : State) : State :=
  let s1 := s.modAon (fun a => { a with groups := 5, seq := .starting, wake := false })
  ({ s1 with tap := { s1.tap with testMode := s1.tap.strap } }).driveClkreq true

/-- PWR_AON_STATUS without AON_BUSY. -/
def aonStatus (a : Aon) : Word :=
  w32 (seqCode a.seq * 2 ^ 28 + boolNat a.trip * 2 ^ 27 + boolNat a.clean * 2 ^ 26 + boolNat a.ext32k * 2 ^ 25 + boolNat a.wake * 2 ^ 24)
def aonCtrlWord (a : Aon) : Word := w32 (boolNat a.autoOn * 2 ^ 31 + boolNat a.alarmEn * 2 ^ 29)
/-- EVT_NOW_LO, EVT_NOW_HI and EVT_NOW_F. -/
def calWords (a : Aon) : List Word :=
  [w32 (a.calSec.toNat % 2 ^ 32), w32 (boolNat a.calValid * 2 ^ 31 + a.calSec.toNat / 2 ^ 32), w32 a.calFrac.toNat]

/-- The management island's shadow of the always-on registers. -/
def State.shadowNow (s : State) : State := s.modAon (fun a => { a with shadow := [aonStatus a, aonCtrlWord a, a.alarm] ++ calWords a })

/-- A group of the ramp is good: the next group's enable follows, or power-good. The management island wakes with the first, and takes its
shadow (log entry 105). -/
def State.groupGood (s : State) (g : Nat) : State :=
  if g = 5 then s.powerGood
  else
    let s1 := (s.modAon (fun a => { a with groups := g })).closeSwitch g
    (if g = 1 then s1.shadowNow else s1).enableGroup (g + 1)

/-- A group's power-good rises; one that rises before its enable fails the ramp. Outside a ramp only its level is kept. -/
def execRailGroupGood (group : BitVec 3) (s : State) : Host.Outcome State Fault Refusal :=
  let g := group.toNat
  let s1 := s.modAon (fun a => { a with pg := putBit a.pg g true })
  .next (if !s.aon.supply || decide (g < 1) || decide (5 < g) then s
    else if s.aon.seq ≠ .rampUp || decide (g ≤ s.aon.groups) then s1
    else if s.aon.groups + 1 < g then s1.rampFails g
    else s1.groupGood g)

def execRailGroupTimeout (group : BitVec 3) (s : State) : Host.Outcome State Fault Refusal :=
  .next (if s.aon.seq = .rampUp && group.toNat = s.aon.groups + 1 then s.rampFails group.toNat else s)

/-- A group that falls is handled as PWRFAIL_N, with a SEQ_EVENT (R493). -/
def execRailGroupFail (group : BitVec 3) (s : State) : Host.Outcome State Fault Refusal :=
  let s1 := s.modAon (fun a => { a with pg := putBit a.pg group.toNat false })
  .next (if !s.aon.supply || decide (group.toNat < 1) || decide (5 < group.toNat) then s
    else if s.aon.seq = .starting || s.aon.seq = .on then (s1.seqEvent group.toNat 0).powerFails
    else s1)

/-- The safe point: DRAM READY, which an assertion of PERST_N does not put off again (R496), step 4 of the security start-up, store READY.
A latched off request follows. -/
def execSafePoint (s : State) : Host.Outcome State Fault Refusal :=
  .next (if s.aon.seq = .starting && s.dram.seen && s.sec.ready && s.store.ready then
      let s1 := s.modAon (fun a => { a with seq := .on })
      if s.aon.offLatched then s1.startDown else s1
    else s)

def execPwrfail (s : State) : Host.Outcome State Fault Refusal := .next (s.supplied s.powerFails)

/-- The store has finished; its checkpoint is in flash. -/
def State.savedStore (s : State) : State :=
  if s.store.ready then
    let s1 := s.checkpoint
    { s1 with store := { s1.store with saved := true } }
  else s

def execEmergencyRailsOff (s : State) : Host.Outcome State Fault Refusal :=
  .next (if s.aon.seq = .emergency && s.store.programming = [] then (s.savedStore).railsOff else s)

/-- The calendar second of the earliest RETENTION deadline, 7 days before it (R456). -/
def State.retentionAlarm (s : State) : Option Nat :=
  let ds := (s.store.blks.filter (fun e => e.2.st = .mapped && decide (0 < e.2.wl))).map (fun e => e.2.born + s.days * dayUs)
  match ds with
  | [] => none
  | d :: t => some (s.aon.calSec.toNat + (t.foldl min d - s.us) / 1000000 - 7 * 86400)

/-- Steps 2 and 3 of Table 7. -/
def State.downWork (s : State) : State :=
  let s1 := s.savedStore
  let s2 := { s1 with bs := s1.bs.map (fun (e : Nat × Bs) => (e.1, if e.2.persist then { e.2 with persist := false, copy := true } else e.2)) }
  let s3 := s2.flushLog
  let s4 := match s.retentionAlarm with
    | some t => s3.modAon (fun a => { a with alarm := w32 t, alarmEn := true })
    | none => s3
  ((List.range 4).foldl State.disablePort s4).modAon (fun a => { a with clean := true })

/-- Steps 2 to 5 of an orderly power-down, once every command has its record and no program is in progress. -/
def execPowerDownRailsOff (s : State) : Host.Outcome State Fault Refusal :=
  .next (if s.aon.seq = .down && s.cmds = [] && s.store.programming = [] then (s.downWork).railsOff else s)

/-- MIN_OFF has passed: a latched on request starts the ramp, or is refused while the trip is latched. -/
def execMinOffExpire (s : State) : Host.Outcome State Fault Refusal :=
  .next (if s.aon.seq = .off && s.aon.minOff then
      let s1 := s.modAon (fun a => { a with minOff := false, onLatched := false })
      if s.aon.onLatched then s1.onRequest else s1
    else s)

/-- Analog comparators trip at 125 °C (R448). -/
def execThermalTrip (s : State) : Host.Outcome State Fault Refusal :=
  .next (if s.aon.groups = 0 then s else ((s.modAon (fun a => { a with trip := true })).emit .thermtrip).powerFails)

/-! ### The always-on domain (R455, R456, R497) -/

/-- A write of PWR_AON_CTRL takes effect; CLEAR_TRIP only below 110 °C. -/
def State.aonCtrl (s : State) (val : Word) : State :=
  s.modAon (fun a =>
    { a with autoOn := bitOf val 31, alarmEn := bitOf val 29, wake := a.wake && bitOf val 29,
             trip := a.trip && !(bitOf val 30 && decide (s.pwr.tj < 110)) })

def State.postAon (s : State) (off : Nat) (v : Word) : State :=
  s.modAon (fun a => { a with posted := a.posted ++ [(off, v)], busy := true })

/-- A management write of PWR_AON_CTRL with CLEAR_TRIP: posted, as every write of the register (R455). -/
def execClearTrip (val : Word) (s : State) : Host.Outcome State Fault Refusal :=
  .next (if s.powered && bitOf val 30 then s.postAon 0x44 val else s)

/-- I3C_STAT.TJ: Tj while ON, otherwise the always-on sensor's reading, which is free. -/
def State.i3cTj (s : State) : BitVec 8 × State :=
  if s.aon.seq = .on then (BitVec.ofNat 8 (tempByte s.pwr.tj), s) else s.drawBits 8

def execI3cClearTrip (val : Word) (s : State) : Host.Outcome State Fault Refusal :=
  let t := s.i3cTj
  .next (s.supplied (if bitOf val 29 then
      (if t.1.toInt < 110 then t.2.modAon (fun a => { a with trip := false }) else t.2)
    else s))

/-- The calendar reaches the wake alarm while the sequencer is OFF. -/
def execWakeAlarm (s : State) : Host.Outcome State Fault Refusal :=
  .next (if s.aon.supply && s.aon.alarmEn && s.aon.seq = .off && decide (s.aon.alarm.toNat ≤ s.aon.calSec.toNat % 2 ^ 32) then
      s.modAon (fun a => { a with wake := true })
    else s)

/-- A posted write: the oldest takes effect. A host's write of ALARM_EN 0 is posted as offset 1. -/
def execAonPostedWrite (s : State) : Host.Outcome State Fault Refusal :=
  .next (match s.aon.posted with
    | [] => s
    | (off, v) :: t =>
      let s1 := s.modAon (fun a => { a with posted := t, busy := t ≠ [] })
      if off = 0x44 then s1.aonCtrl v
      else if off = 0x48 then s1.modAon (fun a => { a with alarm := v })
      else s1.modAon (fun a => { a with alarmEn := false, wake := false }))

def execAonShadowRefresh (s : State) : Host.Outcome State Fault Refusal :=
  .next (if decide (1 ≤ s.aon.groups) then s.shadowNow else s)

def execClk32kLock (s : State) : Host.Outcome State Fault Refusal := .next (s.supplied (s.modAon (fun a => { a with ext32k := true })))
def execClk32kLoss (s : State) : Host.Outcome State Fault Refusal := .next (s.supplied (s.modAon (fun a => { a with ext32k := false })))

/-! ### The store is READY (R252) -/

/-- What follows once the store and the security island are both up: sealed blobs are unsealed; bitstreams, whose keys they hold, are
read back, and models load again, once DRAM is READY too (R354, R413, R428, R450). -/
def State.storeUp (s : State) (bad : List (BitVec 7 × Bool)) : State := (s.unseal bad).reloadAll

/-- Maps and counters are loaded; bitstreams are read back, models reload and blobs are unsealed. `clean` tells whether the
supplies went with a checkpoint, and `bad` names the copies of blobs that fail to authenticate. -/
def execStoreReady (start : StoreStart) (s : State) : Host.Outcome State Fault Refusal :=
  if s.store.ready || s.aon.seq ≠ .starting || start.clean ≠ s.store.saved then .next s
  else
    let s1 := s.storeLoad start.clean
    let s2 := if start.clean then s1 else s1.record 0x0306 srcFls 0 0 []
    .next (if s2.islandUp then s2.storeUp start.bad else s2)

/-- Steps 2 to 4 of the security start-up. `verified` is the outcome of step 2. -/
def execSecurityStartupDone (start : IslandStart) (s : State) : Host.Outcome State Fault Refusal :=
  if s.aon.seq ≠ .starting || s.sec.ready || s.sec.quarantine then .next s
  else if !start.verified then .next s.zeroised
  else
    let s1 := s.zeroised
    let s2 :=
      if s1.sec.latched || s1.sec.alarm then
        (if s1.sec.kind = 2 && !s1.sec.erased then s1.zeroise else s1).quarantine
      else if s1.tap.testMode then s1.quarantine
      else s1.deriveKeys
    .next (if s2.store.ready then s2.storeUp start.bad else s2)

end Sys2Proof.Machine
end

