-- ==== Sys2Proof/Machine/Mgmt.lean ====
section
/-! DEFINITION. The mailbox operations (R377, R426, R442, R467, R472, R473, R477, R478) and the event recorder's commands
(R479, R480). -/

namespace Sys2Proof.Machine

/-! ### INFO, power modes -/

def execInfo (s : State) : Host.Outcome State Fault Refusal :=
  .next (s.mailbox 0x0001 0
    (s.answer stOk (toLE 4 s.ras.mcRun.version.toNat ++ toLE 4 s.ras.siRun.version.toNat ++ toLE 8 s.aon.calSec.toNat)))

def Dram.rate (d : Dram) : Nat := getBits d.active.mode 28 3
/-- The DRAM rate and the flash rate of a mode are in force (Table 2): Quiet to 6,400 MT/s and 2.0 GT/s, Background to 4,266 MT/s
and 1.0 GT/s. -/
def State.ratesOk (s : State) : Bool :=
  match s.modeNow with
  | 0 => decide (2 ≤ s.dram.rate) && decide (1 ≤ s.store.rate.toNat)
  | 3 => decide (3 ≤ s.dram.rate) && s.store.rate = 2
  | _ => true

/-- The flash interface goes to the fastest rate that the mode permits, where it runs faster. -/
def State.modeFlash (s : State) : State :=
  match s.modeNow with
  | 0 => if s.store.rate = 0 then s.setFlashRate 1 else s
  | 3 => if s.store.rate ≠ 2 then s.setFlashRate 2 else s
  | _ => s

/-- The answer comes once the rates are in force: the DRAM's by a switch of its own. -/
def State.modeAnswer (s : State) : State := if s.ratesOk then s.answer stOk [] else s

/-- An operation that was outstanding when the device went Idle is an exit event, and is served after the exit (R445). -/
def execPowerMode (s : State) : Host.Outcome State Fault Refusal :=
  let m := mgtArg s 0 1
  .next (s.mailbox 0x0002 1 (
    if 2 < m then s.answer stBounds []
    else if s.pwr.dev = .idle then s.exitIdle
    else
      let s1 := s.modPwr (fun p => { p with mode := BitVec.ofNat 2 m })
      if s.pwr.dev = .background then s1.answer stOk [] else (s1.modeFlash.clipPoints).modeAnswer))

/-- Entry to Background ends a fixed mode above its highest point; ridges without an active bitstream power down. -/
def State.enterBackground (s : State) : State :=
  let s1 := s.modPwr (fun p => { p with dev := .background })
  let s2 := if decide (2 ≤ s1.pwr.fixed.toNat) then s1.leaveFixed else s1
  s.backgroundOff s2.modeFlash.clipPoints

def State.leaveBackground (s : State) : State :=
  if s.pwr.dev = .background then (((s.modPwr (fun p => { p with dev := .active })).wakeTamper).modeFlash).clipPoints else s

def execBackground (s : State) : Host.Outcome State Fault Refusal :=
  let m := mgtArg s 0 1
  .next (s.mailbox 0x0007 1 (
    if 1 < m then s.answer stBounds []
    else if s.pwr.dev = .idle then s.exitIdle
    else if m = 1 then (s.enterBackground).modeAnswer
    else (s.leaveBackground).modeAnswer))

/-! ### Time (R477, R478) -/

/-- Stored calendar times move with the setting, as signed values, so that their order stays; elapsed times are kept in model microseconds,
which it does not touch. -/
def State.shiftTimes (s : State) (d : Int) : State :=
  { s with
    models := s.models.map (fun (e : Nat × Model) => (e.1, if e.2.st = .free then e.2 else { e.2 with use := e.2.use + d })),
    store := { s.store with exts := s.store.exts.map (fun (e : Nat × Extent) => (e.1, if e.2.inUse then { e.2 with lastRead := e.2.lastRead + d } else e.2)) },
    aon := { s.aon with alarm := if s.aon.alarmEn then s.aon.alarm + BitVec.ofInt 32 d else s.aon.alarm } }

def State.setTime (s : State) (sec ns : Nat) : State :=
  let old := s.aon.calSec.toNat
  let valid := s.aon.calValid
  let s1 := s.shiftTimes ((sec : Int) - old)
  let s2 := s1.modAon (fun a =>
    { a with calSec := BitVec.ofNat 48 sec, calFrac := BitVec.ofNat 15 (ns * 32768 / 1000000000), calAcc := 0, calValid := true })
  s2.record 0x0901 srcMgt 0 0 (toLE 6 old ++ toLE 1 (boolNat valid))

def execSetTime (s : State) : Host.Outcome State Fault Refusal :=
  let sec := mgtArg s 0 8
  let ns := mgtArg s 8 4
  .next (s.mailbox 0x0003 12 (
    if decide (2 ^ 48 ≤ sec) || decide (1000000000 ≤ ns) then s.answer stBounds [] else (s.setTime sec ns).answer stOk []))

/-! ### Firmware (R472, R473) -/

def fwMagic : Nat := 0x46574C43
def fwLenOk (n : Nat) : Bool := decide (4096 ≤ n) && decide (n ≤ 1048576)
def fwOf (b : List Byte) : Fw :=
  { target := byteAt b 4 = 1, svn := w32 (leAt b 8 4), version := w32 (leAt b 0xC 4), bytes := b }
def fwHeaderOk (b : List Byte) : Bool :=
  leAt b 0 4 = fwMagic && decide (byteAt b 4 < 2) && allZero (bytesAt b 5 3) && allZero (bytesAt b 0x10 0x30)
/-- Signed under slot 0, over every byte before the trailer. -/
def State.fwSigned (s : State) (b : List Byte) : Bool := s.signedBy 0 (b.take (b.length - 96)) (b.drop (b.length - 96))
def State.fwRunning (s : State) (target : Bool) : Fw := if target then s.ras.siRun else s.ras.mcRun

/-- The conditions of R472 that apply to an image. -/
def State.fwConds (s : State) (b : List Byte) : List Nat :=
  condList [(!fwHeaderOk b, stBounds),
    (!s.fwSigned b || decide ((fwOf b).svn.toNat < (s.fwRunning (fwOf b).target).svn.toNat), stBitstream)]

def State.fwStaged (s : State) (b : List Byte) : State :=
  let f := fwOf b
  (({ s with ras := { s.ras with staged := f :: s.ras.staged.filter (fun g => g.target ≠ f.target) } }).record 0x0801 srcMgt 0 0 (fwData f)).answer stOk []

/-- The image is here, or its read failed. -/
def State.fwGot (s : State) (len : Nat) (r : HostRead) : State :=
  let s1 := { s with ras := { s.ras with fwData := none } }
  match r with
  | .error => s1.answer stUncorrectable []
  | .poisoned => s1.answer stPoisoned []
  | .ok d =>
    let b := padTo len d
    if s1.fwConds b = [] then s1.fwStaged b else s1.answerWith (s1.fwConds b)

def execFwStage (s : State) : Host.Outcome State Fault Refusal :=
  let len := mgtArg s 8 4
  .next (s.mailbox 0x0004 12 (
    if !fwLenOk len then s.answer stBounds []
    else match s.ras.fwData with
      | none => s.emit (.hostRead (mgtArg s 0 8) len)
      | some r => s.fwGot len r))

/-- The management image changes; one whose self-check fails changes back (R473). -/
def State.fwSwap (s : State) (f : Fw) (selfCheck : Bool) : State :=
  let r := s.ras
  if selfCheck then
    ((({ s with ras := { r with staged := r.staged.drop 1, mcPrev := some r.mcRun, mcRun := f } }).record 0x0802 srcMgt 0 0 (fwData f)).answer stOk [])
  else
    ((({ s with ras := { r with staged := r.staged.drop 1, mcPrev := some f } }).record 0x0803 srcMgt 0 0 (fwData r.mcRun)).answer stTimeout [])

/-- The image staged last is activated: the request names none (log entry 111). `selfCheck` is the outcome of the new image's self-check. -/
def execFwActivate (selfCheck : Bool) (s : State) : Host.Outcome State Fault Refusal :=
  .next (s.mailbox 0x0005 0 (
    match s.ras.staged with
    | [] => s.answer stBounds []
    | f :: rest =>
      if f.target then ({ s with ras := { s.ras with staged := rest, pendingSi := some f } }).answer stOk []
      else s.fwSwap f selfCheck))

/-! ### TAMPER_RECOVER (R426) and CORE_RETEST (R467) -/

def State.recover (s : State) (keep : Bool) : State :=
  let s1 := if !keep && !s.sec.erased then s.zeroise.zeroised else s
  (s1.modSec (fun k => { k with latched := false })).answer stOk []

def execTamperRecover (s : State) : Host.Outcome State Fault Refusal :=
  let b := mgtArg s 0 1
  .next (s.mailbox 0x0006 1 (
    let conds := condList [(decide (1 < b), stBounds), (s.sec.alarm || (b % 2 = 1 && s.sec.kind ≠ 1), stTamper)]
    if conds ≠ [] then s.answerWith conds else s.recover (b = 1)))

/-- The test runs; its end answers. -/
def execCoreRetest (s : State) : Host.Outcome State Fault Refusal :=
  let n := mgtArg s 0 1
  .next (s.mailbox 0x0008 1 (
    if decide (s.coreCount ≤ n) || (s.core n).fence ≠ .retired then s.answer stBounds []
    else if (s.core n).retest then s
    else (s.coreReset n).modCore n (fun k => { k with faultTimes := [], retest := true, faultStep := 3 })))

/-! ### The event recorder -/

/-- An acknowledgement; one that brings the difference below THRESH arms vector 2 again (R479). -/
def State.acked (s : State) (val : Word) : State :=
  let s1 := { s with evt := { s.evt with ack := val } }
  if s1.evtFull then s1 else { s1 with evt := { s1.evt with below := true } }

/-- An acknowledgement moves forward to a record that exists. -/
def State.ackEvents (s : State) (val : Word) : State :=
  let e := s.evt
  if (val - e.ack).toNat ≤ (e.head - e.ack).toNat then s.acked val else s

def execEvtAckWrite (val : Word) (s : State) : Host.Outcome State Fault Refusal := .next (s.byHost (s.ackEvents val))

def execEvtFlush (val : Word) (s : State) : Host.Outcome State Fault Refusal :=
  .next (s.byHost (if bitOf val 31 then s.flushLog else s))

/-- Every 10 s while a record is unflushed. -/
def execEvtFlushPeriodic (s : State) : Host.Outcome State Fault Refusal :=
  .next (if s.evt.head = s.evt.flushed then s else s.flushLog)

end Sys2Proof.Machine
end

