-- ==== Sys2Proof/Machine/Package.lean ====
section
/-! DEFINITION. The balls of the package (R485 to R489): names, and the places of the signal balls. No command acts on a place; the
events at the balls are commands of their own. -/

namespace Sys2Proof.Machine

/-- The letters of the first nineteen rows, in order. -/
def rowLetters : List String :=
  ["A", "B", "C", "D", "E", "F", "G", "H", "J", "K", "L", "M", "N", "P", "T", "U", "V", "W", "Y"]
/-- The letters of a row by its index, 1 to 44 (R485). -/
def rowName (n : Nat) : String :=
  if n ≤ 19 then rowLetters.getD (n - 1) "" else if n ≤ 38 then "A" ++ rowLetters.getD (n - 20) "" else "B" ++ rowLetters.getD (n - 39) ""

/-- A ball by row index and column. -/
structure Ball where
  row : Nat
  col : Nat
  deriving DecidableEq, Repr

def Ball.name (b : Ball) : String := rowName b.row ++ toString b.col

/-- The P or N ball of a PCIe lane's transmit or receive pair (R487). -/
def pcieBall (lane : Nat) (tx n : Bool) : Ball := { row := if tx then 2 else 4, col := 4 + 4 * lane + boolNat n }
def refclkBall (n : Bool) : Ball := { row := 2, col := 38 + boolNat n }

/-- The P or N ball of a Ulirvo lane's transmit or receive pair (R488). -/
def ulirvoBall (port lane : Nat) (tx n : Bool) : Ball :=
  { row := (if port % 2 = 0 then 5 else 24) + 2 * lane + boolNat n,
    col := if port < 2 then (if tx then 2 else 4) else if tx then 43 else 41 }

/-- The sideband, strap, JTAG and sense signals (Table 3 of R489). -/
inductive Signal where
  | perst | clkreq | wake | alert | thermtrip | pwrfail | i3cScl | i3cSda | i3cAddr | clk32k
  | en (group : Nat) | pg (group : Nat)
  | testMode | tck | tms | tdi | tdo | trst
  | senseCore (n : Bool) | senseHub (n : Bool)
  deriving DecidableEq, Repr

def Signal.ball : Signal → Ball
  | .perst => { row := 44, col := 6 }
  | .clkreq => { row := 44, col := 7 }
  | .wake => { row := 44, col := 8 }
  | .alert => { row := 44, col := 9 }
  | .thermtrip => { row := 44, col := 10 }
  | .pwrfail => { row := 44, col := 11 }
  | .i3cScl => { row := 44, col := 12 }
  | .i3cSda => { row := 44, col := 13 }
  | .i3cAddr => { row := 44, col := 14 }
  | .clk32k => { row := 44, col := 15 }
  | .en g => { row := 43, col := 5 + g }
  | .pg g => { row := 43, col := 10 + g }
  | .testMode => { row := 42, col := 6 }
  | .tck => { row := 42, col := 7 }
  | .tms => { row := 42, col := 8 }
  | .tdi => { row := 42, col := 9 }
  | .tdo => { row := 42, col := 10 }
  | .trst => { row := 42, col := 11 }
  | .senseCore n => { row := 42, col := 13 + boolNat n }
  | .senseHub n => { row := 42, col := 15 + boolNat n }

/-- The signals of Table 3 in its order. -/
def tableSignals : List Signal :=
  [.perst, .clkreq, .wake, .alert, .thermtrip, .pwrfail, .i3cScl, .i3cSda, .i3cAddr, .clk32k] ++
  (List.range 5).map (fun g => .en (g + 1)) ++ (List.range 5).map (fun g => .pg (g + 1)) ++
  [.testMode, .tck, .tms, .tdi, .tdo, .trst, .senseCore false, .senseCore true, .senseHub false, .senseHub true]

/-- The balls that the boundary register covers (R502): those of Table 3 but the TAP's own and the sense balls. -/
def Signal.scanned : Signal → Bool
  | .tck => false
  | .tms => false
  | .tdi => false
  | .tdo => false
  | .trst => false
  | .senseCore _ => false
  | .senseHub _ => false
  | _ => true

end Sys2Proof.Machine
end

