-- ==== Sys2Proof/Machine/Test.lean ====
section
/-! DEFINITION. The I3C target (R501), boundary scan (R502), and the pattern generators and checkers (R503 to R505). -/

namespace Sys2Proof.Machine

/-! ### I3C (R489, R501) -/

/-- The target answers on its bus. -/
def State.i3cSay (s : State) (data : List Byte) : State := s.emit (.i3c data)
/-- A direct command reaches the target at its dynamic address. -/
def State.i3cDirect (s : State) (act : State) : State := s.supplied (if s.aon.i3cAddr.isSome then act else s)
def i3cPidBytes : List Byte := (toLE 6 Config.i3cPid.toNat).reverse
/-- The static address by the I3C_ADDR strap, as sampled. -/
def State.i3cStatic (s : State) : BitVec 7 := if s.aon.i3cStrap then 0x4D else 0x4C

/-- A target without a dynamic address takes part: identifier and characteristics, then the address. -/
def execEntdaa (addr : BitVec 7) (s : State) : Host.Outcome State Fault Refusal :=
  .next (s.supplied (if s.aon.i3cAddr.isSome then s
    else (s.modAon (fun a => { a with i3cAddr := some addr })).i3cSay (i3cPidBytes ++ [Config.i3cBcr, Config.i3cDcr])))

/-- Sent to the static address of a target without a dynamic one. -/
def execSetdasa (addr : BitVec 7) (s : State) : Host.Outcome State Fault Refusal :=
  .next (s.supplied (if s.aon.i3cAddr.isSome then s else s.modAon (fun a => { a with i3cAddr := some addr })))

def execRstdaa (s : State) : Host.Outcome State Fault Refusal :=
  .next (s.supplied (s.modAon (fun a => { a with i3cAddr := none })))

def execGetpid (s : State) : Host.Outcome State Fault Refusal := .next (s.i3cDirect (s.i3cSay i3cPidBytes))
def execGetbcr (s : State) : Host.Outcome State Fault Refusal := .next (s.i3cDirect (s.i3cSay [Config.i3cBcr]))
def execGetdcr (s : State) : Host.Outcome State Fault Refusal := .next (s.i3cDirect (s.i3cSay [Config.i3cDcr]))

/-- The two status bytes are free. -/
def execGetstatus (s : State) : Host.Outcome State Fault Refusal :=
  let d := s.drawBytes 2
  .next (s.i3cDirect (d.2.i3cSay d.1))

/-! ### Pattern test (R503 to R505) -/

/-- The fields of TST_CTRL take a write; ABORTED and REFUSED clear where it has ones. -/
def State.tstFields (s : State) (val : Word) : State :=
  s.setReg tstCtrl ((s.reg tstCtrl &&& 0x60400000#32 &&& ~~~(val &&& 0x20400000#32)) ||| (val &&& 0x1F00FFFF#32))

/-- The transmit lanes of the run send their patterns; a run that only checks has none of its own (Table 10). -/
def State.tstSend (s : State) : State :=
  let r := s.reg tstCtrl
  if tstMode r = 3 then s
  else s.tst.selected.foldl (fun (s : State) l => s.emit (.prbs l (getBits r 24 2) (prbsStart (getBits r 24 2) (l % 256)))) s

/-- GO: a run on the selected groups, with DONE and every count clear, or REFUSED. A generating run checks nothing, so its duration
counts at once. -/
def State.tstStart (s : State) : State :=
  let sel := s.reg tstSel
  let r := s.reg tstCtrl
  let i := getBits sel 16 3
  let all := bitOf r 28
  let groups := tstOn i (getBits sel 8 8) all
  if s.tst.running then s
  else if groups = [] || !tstModeOk i (tstMode r) || !s.tstPermitted i groups then s.tstOr 0x00400000#32
  else
    ((s.setReg tstCtrl (r &&& 0xBFFFFFFF#32)).modTst (fun _ =>
      { running := true, counting := tstMode r = 2, countAt := s.us, iface := BitVec.ofNat 3 i, group := BitVec.ofNat 8 (getBits sel 8 8),
        all := all, lanes := [] })).tstSend

/-- A write of TST_CTRL: the fields, then GO, then STOP. -/
def State.tstCtrlWrite (s : State) (val : Word) : State :=
  let s1 := s.tstFields val
  let s2 := if bitOf val 31 then s1.tstStart else s1
  if bitOf val 23 && s2.tstRuns then s2.tstEnd s2.us else s2

/-- A write of a TST register. -/
def State.tstWrite (s : State) (off : Nat) (val : Word) : State :=
  if off = tstSel then s.setReg tstSel (val &&& 0x0007FFFF#32)
  else if off = tstCtrl then s.tstCtrlWrite val
  else s

/-- A write that sets GO. ABORTED, where a run is aborted in the very cycle of the write, stays set (R12). -/
def execTstGo (data : RegData) (s : State) : Host.Outcome State Fault Refusal :=
  .next (s.byHost (if bitOf data.val 31 then (s.tstCtrlWrite data.val).tstOr (data.set &&& 0x20000000#32) else s))

/-- A write that sets STOP and not GO. -/
def execTstStop (data : RegData) (s : State) : Host.Outcome State Fault Refusal :=
  .next (s.byHost (if bitOf data.val 23 && !bitOf data.val 31 then (s.tstCtrlWrite data.val).tstOr (data.set &&& 0x20000000#32) else s))

/-- SECONDS have passed since every selected checker locked; 0 runs until STOP. -/
def execTstRunEnd (s : State) : Host.Outcome State Fault Refusal :=
  let secs := getBits (s.reg tstCtrl) 0 16
  .next (if s.tstRuns && s.tst.counting && secs ≠ 0 then s.tstEnd (s.tst.countAt + 1000000 * secs) else s)

/-- The run's condition no longer holds. -/
def execTstAbort (s : State) : Host.Outcome State Fault Refusal := .next s.tstBreak

/-- A selected checker of a running test has seen 64 bits that match and locks; once all have, the duration counts. -/
def execCheckerLock (rx : LaneRx) (s : State) : Host.Outcome State Fault Refusal :=
  let r := s.reg tstCtrl
  .next (if !s.tstRuns || tstMode r = 2 || !s.tst.selected.contains rx.lane || !prbsLocks (getBits r 24 2) rx.bits ||
      (nget Checker.reset s.tst.lanes rx.lane).lock then s
    else
      let s1 := ({ s with draws := s.draws + 1 }).modTst (fun t =>
        { t with lanes := nmod Checker.reset t.lanes rx.lane (fun k => { k with lock := true, since := s.us, draw := s.draws }) })
      if s1.tst.counting || !s1.tst.selected.all (fun l => (nget Checker.reset s1.tst.lanes l).lock) then s1
      else s1.modTst (fun t => { t with counting := true, countAt := s.us }))

/-- 16 errors within 64 bits unlock a checker, which then locks again; `bits` and `errs` are what it counted since it locked. -/
def execCheckerSlip (lane : Nat) (bits errs : Nat) (s : State) : Host.Outcome State Fault Refusal :=
  let k := nget Checker.reset s.tst.lanes lane
  .next (if !s.tstRuns || !s.tst.selected.contains lane || !k.lock || decide (errs < 16) || decide (bits < errs) then s
    else s.modTst (fun t =>
      { t with lanes := nset Checker.reset t.lanes lane { k with lock := false, bits := k.bits + bits, errs := min 0x7FFFFFFF (k.errs + errs) } }))

/-- A TST register as it reads. -/
def State.tstRead (s : State) (off : Nat) : Word :=
  let k := s.checkerAt (getBits (s.reg tstSel) 0 19) s.us
  if off = tstCtrl then s.reg tstCtrl ||| w32 (boolNat s.tst.running * 2 ^ 31)
  else if off = 0xE0008 then w32 (k.bits % 2 ^ 32)
  else if off = 0xE000C then s.latched 0xE000C
  else if off = 0xE0010 then w32 (boolNat k.lock * 2 ^ 31 + k.errs)
  else if off = tstSel then s.reg tstSel
  else 0

/-- A read of TST_BITS_LO latches TST_BITS_HI. -/
def State.tstLatch (s : State) (off : Nat) : State :=
  if off = 0xE0008 then
    s.setLatch 0xE000C (w32 ((s.checkerAt (getBits (s.reg tstSel) 0 19) s.us).bits / 2 ^ 32 % 65536))
  else s

/-! ### The TAP (R502) -/

def wordBits (v n : Nat) : List Bool := (List.range n).map (fun i => v.testBit i)
/-- The TAP works while VDD_IO18, of rail group 1, is on. -/
def State.tapOn (s : State) (act : State) : State := if decide (1 ≤ s.aon.groups) then act else s
/-- An instruction becomes current; without TEST_MODE those of test mode act as BYPASS. -/
def State.tapLoad (s : State) (code : BitVec 8) (testOnly : Bool) (act : State → State) : State :=
  s.tapOn (
    if testOnly && !s.tap.testMode then
      (({ s with tap := { s.tap with ir := 0xFF } }).emit (.balls 0xFF [])).emit (.tdo [false])
    else act (({ s with tap := { s.tap with ir := code } }).emit
      (.balls code (if code = 0x03 || code = 0x04 then s.tap.preload else []))))

/-- The instruction after a reset is IDCODE, and the balls are the device's own again. -/
def execTapReset (s : State) : Host.Outcome State Fault Refusal :=
  .next (s.tapOn (({ s with tap := { s.tap with ir := 1 } }).emit (.balls 1 [])))

/-- The bypass register captures 0. -/
def execBypass (s : State) : Host.Outcome State Fault Refusal := .next (s.tapLoad 0xFF false (fun t => t.emit (.tdo [false])))

def State.idcodeValue (s : State) : Nat :=
  s.fuses.stepping.toNat / 16 * 2 ^ 28 + deviceId s.fuses.grade * 2 ^ 12 + Config.jedecId.toNat * 2 + 1
def execIdcode (s : State) : Host.Outcome State Fault Refusal :=
  .next (s.tapLoad 0x01 false (fun t => t.emit (.tdo (wordBits t.idcodeValue 32))))

/-- The cells of the boundary register: one of each ball that it covers, in the order of Table 3 of R489 (log entry 104). -/
def boundary : List Signal := tableSignals.filter Signal.scanned

/-- A scan of the boundary register: the levels at the balls, free, are captured; each bit at TDI moves a cell's bit out at TDO; and the
update cells take what the register then holds. -/
def State.boundaryScan (s : State) (tdi : List Bool) : State :=
  let d := s.drawBytes boundary.length
  let x := d.1.map (fun (b : Byte) => b.getLsbD 0) ++ tdi
  ({ d.2 with tap := { d.2.tap with preload := x.drop tdi.length } }).emit (.tdo (x.take tdi.length))

/-- The update cells take `cells`. The balls keep the device's own levels. -/
def execSamplePreload (cells : List Bool) (s : State) : Host.Outcome State Fault Refusal :=
  .next (s.tapLoad 0x02 false (fun t => t.boundaryScan cells))

/-- The update cells drive the balls; then a scan captures the balls and brings new cells, which the row does not carry: they are free
(log entry 104). -/
def execExtest (s : State) : Host.Outcome State Fault Refusal :=
  .next (s.tapLoad 0x03 true (fun t =>
    let d := t.drawBytes boundary.length
    let u := d.2.boundaryScan (d.1.map (fun (b : Byte) => b.getLsbD 0))
    u.emit (.balls 0x03 u.tap.preload)))
/-- The update cells hold the balls, with the bypass register between TDI and TDO. -/
def execClamp (s : State) : Host.Outcome State Fault Refusal :=
  .next (s.tapLoad 0x04 true (fun t => t.emit (.tdo [false])))
/-- The balls float. -/
def execHighz (s : State) : Host.Outcome State Fault Refusal :=
  .next (s.tapLoad 0x05 true (fun t => t.emit (.tdo [false])))

/-- What Capture-DR takes: the register that the last update named, with its offset; bit 63 and the zero bits are 0 (log entry 104). -/
def State.tstCapture (s : State) : List Bool :=
  wordBits (s.tap.last.toNat * 2 ^ 32 + (s.tstRead (0xE0000 + s.tap.last.toNat)).toNat) 64

/-- Capture-DR takes the register that the last update named; Update-DR takes `dr`. -/
def State.tstAccess (s : State) (dr : BitVec 64) : State :=
  let last := 0xE0000 + s.tap.last.toNat
  let off := 0xE0000 + dr.toNat / 2 ^ 32 % 65536
  let s1 := (s.tstLatch last).emit (.tdo s.tstCapture)
  let s2 := { s1 with tap := { s1.tap with last := BitVec.ofNat 16 (off - 0xE0000) } }
  if dr.getLsbD 63 then s2.tstWrite off (w32 (dr.toNat % 2 ^ 32)) else s2

def execTstAccess (dr : BitVec 64) (s : State) : Host.Outcome State Fault Refusal :=
  .next (s.tapLoad 0x10 true (fun t => t.tstAccess dr))

end Sys2Proof.Machine
end

