-- ==== Sys2Proof/Machine/View.lean ====
section
/-! DEFINITION. What BAR0 and I3C registers read as (R8 to R15): the registers that hold a value of their own, and those that show
other state. An offset that no table names, and the block of a core that is not enabled, read 0 (R3, R10). -/

namespace Sys2Proof.Machine

/-- One bit at a place. -/
def flag (b : Bool) (i : Nat) : Nat := if b then 2 ^ i else 0

/-! ### Core blocks (R88, R113, R135, R170, R194) -/

def tileCode (t : TileSt) : Nat := match t with | .idle => 0 | .open_ => 1 | .closed => 2
def Core.tileWord (k : Core) (m : Nat) : Nat :=
  ((List.range 16).map (fun i =>
    if 16 * m + i < 4 * packCount k.packing then tileCode (k.tile (16 * m + i)).st * 4 ^ i else 0)).foldl (· + ·) 0

def Core.arrQueue (k : Core) : Nat :=
  let head := match k.mat.pend with | d :: _ => mmaOf d.ins | [] => none
  let waits := fun (f : MmaF → Bool) => match head with | some m => f m | none => false
  flag (head.isSome && decide (queueDepth .matrix ≤ k.mat.flights.length)) 8 + flag (waits (fun m => !k.tack m.ta)) 7 +
  flag (waits (fun m => !k.tack m.tb)) 6 + flag (waits (fun m => m.drain && !k.tack m.td)) 5 + k.mat.flights.length

def Core.mglQueue (k : Core) : Nat :=
  flag (match k.mgl.pend with | d :: _ => k.headWaits .mangle d | [] => false) 7 + flag k.mglBlocked.isSome 6 + k.mgl.flights.length

/-- CORE_VEC_QUEUE: what the head of the unit waits for (R135; log entry 92). -/
def Core.vecQueue (k : Core) (n : Nat) : Nat :=
  match k.vec.pend with
  | d :: _ => flag (k.headWaits .vector d) 7 + flag (k.waitsSfu d) 6 + flag (k.waitsReg d) 5 + flag (k.waitsPort d) 4 + flag (k.vecHeld n d) 3
  | [] => 0

/-- An active transfer waits under R80: a RING transfer has no bytes to write before its piece is staged. -/
def State.dmaProtected (s : State) (n : Nat) (f : Flight) : Bool :=
  (s.core n).dmaActive n f && (s.core n).dmaHeld n f && ((dDesc f.desc).kind ≠ 1 || (f.phase = 0 && s.pieceReady n f))

def State.dmaQueue (s : State) (n : Nat) : Nat :=
  let k := s.core n
  let live := k.dma.flights.take 4
  flag (live.any (s.waitsPiece n)) 8 + flag (live.any (fun f => !k.dmaActive n f)) 7 + flag (live.any (s.dmaProtected n)) 6 +
  flag (match k.dma.pend with | d :: _ => k.headWaits .dma d | [] => false) 5 + k.dma.flights.length

/-- The codes of the loaded micro-programs. -/
def Core.loadedCodes (k : Core) : Nat :=
  ((List.range 16).map (fun i => flag (k.micro.any (fun m => m.code.toNat = 0x40 + i)) i)).foldl (· + ·) 0

/-- The front end waits under R145: at a tack or a channel, for a pending register, or for room in a pending buffer. -/
def State.frontStalls (s : State) (n : Nat) : Bool :=
  let k := s.core n
  (s.frontWaits n).isSome ||
  (k.run && k.front = .running &&
    (match k.fetch with
    | .ins i => k.waitsPending i || (match unitOf i with | some u => !k.hasRoom u | none => false)
    | _ => false))

def State.coreRead (s : State) (n off : Nat) : Word :=
  let k := s.core n
  if s.coreCount ≤ n then 0
  else match off with
    | 0x800 => if k.slot.isSome then k.packing.setWidth 32 else 0
    | 0x804 => w32 (k.tileWord 0)
    | 0x808 => w32 (k.tileWord 1)
    | 0x80C => w32 (k.tileWord 2)
    | 0x810 => w32 (k.tileWord 3)
    | 0x814 => w32 k.arrQueue
    | 0x818 => k.beats.setWidth 32
    | 0x81C => s.latched (coreOff n 0x81C)
    | 0x900 => w32 k.mglQueue
    | 0x904 => k.blocks.setWidth 32
    | 0x908 => s.latched (coreOff n 0x908)
    | 0xA00 => w32 (k.vecQueue n)
    | 0xA04 => if k.slot.isSome then w32 k.loadedCodes else 0
    | 0xB00 => w32 (boolNat k.sat)
    | 0xB04 => w32 (flag k.run 31 + flag (s.frontStalls n) 30 + k.pc.toNat % 8192)
    | 0xB10 => k.tacks.setWidth 32 ||| 1
    | 0xB14 => (k.tacks >>> 32).setWidth 32
    | 0xC00 => if k.slot.isSome then k.bind else 0
    | 0xC04 => (match k.owner with | some c => w32 (128 + c.toNat) | none => 0)
    | 0xC10 => w32 (s.dmaQueue n)
    | _ => s.reg (coreOff n off)

/-! ### GEN, HIF and MGT (R25, R353, R375, R378, R379) -/

def State.genRead (s : State) (off : Nat) : Word :=
  match off with
  | 0x0 => s.genId
  | 0x4 => s.genRev
  | 0x8 => s.genGrade
  | 0xC => s.genCoreEnable
  | 0x10 => s.genCoreRidge
  | 0x20 => genCap
  | 0x24 => genMem
  | _ => 0

/-- What configuration writes have set of a configuration register. -/
def State.cfgSet (s : State) (off : Nat) : Word := nget 0 s.pcie.cfg off

/-- A register of a capability structure: its offset, what it always reads, the bits that a configuration write sets, and their value
after a reset. -/
structure CapReg where
  off : Nat
  ro : Word
  rw : Word
  init : Word
  deriving DecidableEq, Repr

/-- The capabilities of Table 1 of R355 and of R419 in the layout of the PCI Express Base Specification, each at an offset of the model's
(PRESUMED, log entry 100). PCI Express: Max Payload Size up to 512 B, FLR; 32.0 GT/s, x8, ASPM L1 and no L0s, clock power management;
10-bit tags, LTR; Max Read Request Size 512 B until it is set, Relaxed Ordering and No Snoop fixed at 0. MSI-X: 128 vectors, the table at
0x1_8000 and the PBA at 0x1_9000 of BAR0. -/
def pcieCapRegs : List CapReg :=
  [ { off := 0x34, ro := 0x40#32, rw := 0, init := 0 },
    { off := 0x40, ro := 0x00028010#32, rw := 0, init := 0 },
    { off := 0x44, ro := 0x10008022#32, rw := 0, init := 0 },
    { off := 0x48, ro := 0, rw := 0x000071EF#32, init := 0x00002000#32 },
    { off := 0x4C, ro := 0x00040885#32, rw := 0, init := 0 },
    { off := 0x50, ro := 0, rw := 0x00000142#32, init := 0 },
    { off := 0x64, ro := 0x00030800#32, rw := 0, init := 0 },
    { off := 0x68, ro := 0, rw := 0x00001400#32, init := 0 },
    { off := 0x6C, ro := 0x0000003E#32, rw := 0, init := 0 },
    { off := 0x80, ro := 0x007F0011#32, rw := 0xC0000000#32, init := 0 },
    { off := 0x84, ro := 0x00018000#32, rw := 0, init := 0 },
    { off := 0x88, ro := 0x00019000#32, rw := 0, init := 0 } ]

/-- The extended capabilities: AER, with ECRC generation and checking; LTR; L1 PM Substates (ASPM L1.1 and L1.2); DOE; IDE, one stream,
either Link or Selective, with PCRC, AES-GCM-256 and no aggregation or partial header encryption. -/
def extCapRegs : List CapReg :=
  [ { off := 0x100, ro := 0x15020001#32, rw := 0, init := 0 },
    { off := 0x104, ro := 0, rw := 0, init := 0 },
    { off := 0x108, ro := 0, rw := 0x007FF030#32, init := 0x00400000#32 },
    { off := 0x10C, ro := 0, rw := 0x007FF030#32, init := 0x00462030#32 },
    { off := 0x110, ro := 0, rw := 0, init := 0 },
    { off := 0x114, ro := 0, rw := 0x0000F1C1#32, init := 0x0000E000#32 },
    { off := 0x118, ro := 0x000000A0#32, rw := 0x00000140#32, init := 0 },
    { off := 0x150, ro := 0x16010018#32, rw := 0, init := 0 },
    { off := 0x154, ro := 0, rw := 0x1FFF1FFF#32, init := 0 },
    { off := 0x160, ro := 0x1801001E#32, rw := 0, init := 0 },
    { off := 0x164, ro := 0x0000001C#32, rw := 0, init := 0 },
    { off := 0x168, ro := 0, rw := 0xE3FFFF0C#32, init := 0 },
    { off := 0x16C, ro := 0, rw := 0x000000FB#32, init := 0 },
    { off := 0x180, ro := 0x1C02002E#32, rw := 0, init := 0 },
    { off := 0x188, ro := 0, rw := 0x00000002#32, init := 0 },
    { off := 0x1C0, ro := 0x00010030#32, rw := 0, init := 0 },
    { off := 0x1C4, ro := 0x00000063#32, rw := 0, init := 0 },
    { off := 0x1C8, ro := 0, rw := 0, init := 0 },
    { off := 0x1CC, ro := 0, rw := 0xFF000101#32, init := 0 },
    { off := 0x1D0, ro := 0, rw := 0, init := 0 },
    { off := 0x1D8, ro := 0, rw := 0xFF000101#32, init := 0 },
    { off := 0x1DC, ro := 0, rw := 0, init := 0 } ]

/-- What the function's state adds to a capability register: the rate and width of the link, an Uncorrectable Internal Error in AER, and
the Secure state of the enabled IDE stream, Link or Selective. -/
def State.capState (s : State) (off : Nat) : Word :=
  match off with
  | 0x50 => if s.pcie.linkUp then w32 (s.pcie.rate.toNat * 2 ^ 16 + s.pcie.width.toNat * 2 ^ 20) else 0
  | 0x104 => if s.pcie.aer then 0x00400000#32 else 0
  | 0x1D0 => if bitOf (s.cfgSet 0x1CC) 0 && s.sec.ideSecure then 2 else 0
  | 0x1DC => if bitOf (s.cfgSet 0x1D8) 0 && s.sec.ideSecure then 2 else 0
  | _ => 0

/-- A capability register as it reads. -/
def State.capRead (s : State) (off : Nat) : Word :=
  match (pcieCapRegs ++ extCapRegs).find? (fun r => r.off = off) with
  | some r => r.ro ||| (nget r.init s.pcie.cfg off &&& r.rw) ||| s.capState off
  | none => 0

/-- A register of the function's configuration header (R355, R356): vendor and device IDs of GEN_ID, Revision ID of GEN_REV under
class code 0x12_0000, BAR0 of 16 MiB (64-bit, not prefetchable) and BAR2 of 64 GiB (64-bit, prefetchable), and its capabilities. No row
of the table reads or writes one (log entry 100). -/
def State.cfgRead (s : State) (off : Nat) : Word :=
  match off with
  | 0x00 => s.genId
  | 0x08 => 0x12000000#32 ||| (s.genRev &&& 0xFF#32)
  | 0x10 => (s.cfgSet 0x10 &&& 0xFF000000#32) ||| 0x4#32
  | 0x18 => 0xC#32
  | 0x1C => s.cfgSet 0x1C &&& 0xFFFFFFF0#32
  | 0x04 => 0x00100000#32 ||| (s.cfgSet 0x04 &&& 0x546#32)
  | _ => s.capRead off

def State.startedIn (s : State) (of : Cmd → Bool) : Bool := s.cmds.any (fun k => of k && k.stage = .started)
def State.ctxCfgRead (s : State) : Word :=
  let c := s.selCtx
  let x := s.ctx c
  w32 (flag x.en 31 + flag x.cls 30 + flag (!x.en && s.startedIn (fun k => k.ref.ctx.toNat = c)) 29 + min 65535 (s.inflight c))
def State.splCfgRead (s : State) : Word :=
  let e := s.selSpool
  let p := s.spool e.1 e.2
  w32 (flag p.en 31 + flag (!p.en && s.startedIn (fun k => k.ref.ctx.toNat = e.1 && k.ref.spool.toNat = e.2)) 30 + flag p.fetchErr 29 +
    p.log2.toNat)

def bsCode (b : BsSt) : Nat := match b with | .empty => 0 | .loading => 1 | .resident => 2 | .active => 3
def State.selBs (s : State) : Bs := s.bsSlot (getBits (s.reg 0x10F04) 0 3)
def State.bsIdRead (s : State) : Nat := if s.selBs.st = .empty then 0 else bsId s.selBs.image
def State.bsStateRead (s : State) : Word :=
  let b := s.selBs
  if b.st = .empty then 0
  else w32 (bsCode b.st * 2 ^ 30 + flag b.persist 29 + b.model.toNat * 2 ^ 23 + (bsCores b.image).toNat)

/-- Pending bits of vectors 32 i to 32 i + 31. -/
def State.pbaWord (s : State) (i : Nat) : Nat :=
  ((List.range 32).map (fun j => flag (nget false s.pcie.pba (32 * i + j)) j)).foldl (· + ·) 0

/-- READY: the sequencer is ON, so that doorbells are served. -/
def State.hifRead (s : State) (off : Nat) : Word :=
  let sp := s.spool s.selSpool.1 s.selSpool.2
  match off with
  | 0x10000 => w32 (flag (s.linkOpen && s.aon.seq = .on) 31 + s.pcie.rate.toNat * 16 + s.pcie.width.toNat)
  | 0x10014 => s.ctxCfgRead
  | 0x10024 => sp.cmdLo
  | 0x10028 => sp.cmdHi
  | 0x1002C => sp.cplLo
  | 0x10030 => sp.cplHi
  | 0x10034 => s.splCfgRead
  | 0x10F08 => s.bsStateRead
  | 0x10F0C => w32 (s.bsIdRead % 2 ^ 32)
  | 0x10F10 => w32 (s.bsIdRead / 2 ^ 32)
  | _ => if decide (0x19000 ≤ off) && decide (off < 0x19010) then w32 (s.pbaWord ((off - 0x19000) / 4)) else s.reg off

/-! ### PWR and CLK (R457, R458) -/

def devCode (d : DevState) : Nat := match d with | .active => 0 | .background => 1 | .enteringIdle => 2 | .idle => 3
def State.shadowWord (s : State) (i : Nat) : Word := s.aon.shadow.getD i 0
def State.tempWord (s : State) : Nat :=
  let h := hottest s.pwr.readings
  s.pwr.flashTemp % 256 * 2 ^ 24 + (match h with | some e => e.1 % 32 * 256 | none => 0) + tempByte s.pwr.tj

def State.pwrRead (s : State) (off : Nat) : Word :=
  match off with
  | 0x30000 => w32 (devCode s.pwr.dev * 2 ^ 29 + s.pwr.mode.toNat * 2 ^ 27)
  | 0x3001C => w32 (min 65535 s.pwr.shortAvg * 65536 + min 65535 (s.pwr.samples.headD 0))
  | 0x30020 => w32 (min 65535 (s.pwr.long / longUnit))
  | 0x30024 => w32 s.tempWord
  | 0x30040 => s.shadowWord 0 ||| w32 (flag s.aon.busy 31)
  | 0x30044 => s.shadowWord 1
  | 0x30048 => s.shadowWord 2
  | _ => s.reg off

/-- A ridge is powered down in Idle, and in Background while no active bitstream occupies it. -/
def State.ridgeDown (s : State) (r : Nat) : Bool := s.pwr.dev = .idle || (s.pwr.dev = .background && !s.ridgeUsed r)
def State.selCore (s : State) : Nat := getBits (s.reg 0x40000) 0 4
/-- Block CLK (R458). Without rails there is neither clock nor voltage (log entry 105). -/
def State.clkRead (s : State) (off : Nat) : Word :=
  let n := s.selCore
  let k := s.core n
  match off with
  | 0x40004 =>
    if s.coreCount ≤ n then 0
    else w32 (k.point * 2 ^ 29 + flag (k.gated || s.pwr.heatGated.getLsbD n) 28 +
      (if s.aon.groups = 5 then pointMhz k.point else 0) * 65536)
  | 0x40008 => s.reg (clkStretch n)
  | 0x40030 => w32 s.pwr.fixed.toNat
  | _ =>
    if decide (0x40010 ≤ off) && decide (off < 0x40020) then
      let r := (off - 0x40010) / 4
      w32 (s.heldPoint r * 2 ^ 29 + flag (s.ridgeDown r) 28 +
        (if s.ridgeDown r || s.aon.groups ≠ 5 then 0 else pointMv (s.heldPoint r)) * 65536)
    else s.reg off

/-! ### DRM (R328) -/

def State.laneSel (s : State) : Nat := getBits (s.reg 0x50020) 0 10
/-- The lane delays of a set: two banks that exchange with the sets. -/
def State.laneKey (s : State) : Nat := (if bitOf (s.reg 0x50020) 9 == s.dram.flip then 0 else 1024) + s.laneSel % 512
def State.selSet (s : State) : TSet := if s.shadowSel then s.dram.shadow else { s.dram.active with mode := s.dram.activeMode }

def State.drmRead (s : State) (off : Nat) : Word :=
  let d := s.dram
  match off with
  | 0x50000 =>
    w32 (flag d.ready 31 + flag d.switching 30 + getBits d.active.mode 28 3 * 2 ^ 27 + getBits d.active.mode 26 2 * 2 ^ 25 + flag d.clearing 24)
      ||| s.reg off
  | 0x50004 => w32 (flag d.moving 31 + flag d.mrwDone 30)
  | 0x5000C => w32 d.selfRef.toNat
  | 0x50014 => s.selSet.mode
  | 0x50018 => s.selSet.lat
  | 0x5001C => s.selSet.row
  | 0x50024 => nget 0 d.lanes s.laneKey
  | 0x50028 => w32 (nget 0 d.laneTotal (s.laneSel % 512))
  | 0x50034 => s.reg off ||| w32 (flag d.probing 31)
  | _ => s.reg off

/-! ### FLS (R254) -/

def State.selDie (s : State) : Nat := getBits (s.reg 0x60038) 0 3
def State.goodPes (s : State) (d : Nat) : List Nat := ((dieKeys d).filter (fun k => (s.blk k).st ≠ .retired && (s.blk k).st ≠ .system)).map (fun k => (s.blk k).pe)
def markedAs (s : State) (c : Mark) : Nat := min 65535 (s.store.marks.filter (fun m => m.1 = c)).length
def State.segCount (s : State) : Nat :=
  let r := s.reg 0x60048
  nget 0 (s.blk (blkKey (getBits r 16 3) (getBits r 11 5) (getBits r 3 8))).segs (getBits r 0 3)

def State.flsRead (s : State) (off : Nat) : Word :=
  let d := s.selDie
  match off with
  | 0x60004 =>
    w32 (flag s.store.ready 31 + flag s.store.shrink 30 + flag ((List.range 8).any (fun d => decide (s.reserve d < 64))) 29) ||| s.reg off
  | 0x6000C => w32 (flag (s.store.held || s.store.bandHeld) 31 + flag s.store.lowv 2 + s.store.rate.toNat)
  | 0x60030 => w32 (s.store.capRows * 65536 + s.live)
  | 0x60034 => w32 ((s.store.capRows * 128 - s.live) * 65536 + s.dead)
  | 0x6003C => w32 (s.good d * 65536 + s.spare d)
  | 0x60040 => w32 (s.grown d * 65536 + s.reserve d)
  | 0x60044 => w32 ((s.goodPes d).foldl max 0 * 65536 + (match s.goodPes d with | [] => 0 | x :: t => t.foldl min x))
  | 0x6004C => w32 s.segCount
  | 0x60050 => w32 (markedAs s .urgent * 65536 + markedAs s .queued)
  | 0x60064 => s.shrinkReg
  | _ => s.reg off

/-! ### STR (R195, R282) -/

def mdlCode (m : ModelSt) : Nat := match m with | .free => 0 | .installing => 1 | .stored => 2 | .loading => 3 | .ready => 4
/-- A current descriptor names an extent with an uncorrectable codeword. -/
def State.damaged (s : State) (m : Model) : Bool :=
  m.layers.any (fun d => !descShare d && (segsOf d).any (fun g => s.store.cws.any (fun e => e.1 / 2 ^ 32 = g.handle && e.2.bad)))
def Model.flashGranules (m : Model) : Nat :=
  sumSegs (fun g => if g.kind = kDiff then 0 else g.flashGranules) m.layers + m.diffs.foldl (· + ·) 0
def State.selModel (s : State) : Model := s.model (getBits (s.reg 0x70010) 0 5)
def State.modelWord (s : State) : Nat :=
  let m := s.selModel
  mdlCode m.st * 2 ^ 29 + flag m.evicted 28 + flag (s.damaged m) 27 + flag m.variant 25 + (if m.variant then m.base.toNat else 0) * 2 ^ 20 +
  m.layers.length * 256

def State.partWord (s : State) (n : Nat) : Nat :=
  let p := s.part n
  if p.slot.isNone then 0
  else p.kind.toNat % 8 * 2 ^ 29 + p.size * 2 ^ 19 + (if p.kind.toNat = kindWork then flag p.owner.isSome 16 + (match p.owner with | some c => c.toNat | none => 0) * 2 ^ 10 else 0) +
    p.base

/-- A core of a slot has a RING transfer under way on a ring for which no piece of its own is staged. -/
def State.ringStarved (s : State) (slot ring : Nat) : Bool :=
  (List.range 16).any (fun n =>
    let k := s.core n
    k.slot = some (BitVec.ofNat 3 slot) &&
    k.dma.flights.any (fun f => (dDesc f.desc).kind = 1 && (dDesc f.desc).ring = ring && f.phase = 0) &&
    !(s.ringQ slot ring).any (fun p => !p.taken && p.core.toNat = n && p.pass = (s.cmdOf n).pass))

def State.ringWord (s : State) : Nat :=
  let p := s.part (getBits (s.reg 0x70040) 0 4)
  match p.slot with
  | none => 0
  | some sl =>
    if p.kind.toNat ≠ kindRing then 0
    else
      let slot := sl.toNat
      let ring := p.ring.toNat
      let staged := ((s.ringQ slot ring).map (fun q => q.len)).foldl (· + ·) 0
      let next := match s.stagePass slot ring with | some q => s.seek q ring | none => .done
      flag (next ≠ .done) 31 + flag (match next with | .found _ e _ _ => !s.ringRoom slot ring e.piece | _ => false) 30 +
      flag (match next with | .record _ => true | _ => false) 29 + flag (s.ringStarved slot ring) 28 + staged / 64
def State.ringSizeWord (s : State) : Nat :=
  let p := s.part (getBits (s.reg 0x70040) 0 4)
  if p.slot.isSome && p.kind.toNat = kindRing then p.size * 1024 else 0

def State.strRead (s : State) (off : Nat) : Word :=
  let m := s.selModel
  match off with
  | 0x70008 => w32 s.mirFree
  | 0x7000C => w32 (flag (s.models.any (fun e => e.2.st = .loading)) 30) ||| s.reg off
  | 0x70014 => w32 s.modelWord
  | 0x70018 => w32 m.flashGranules
  | 0x7001C => w32 (dramTotal m.layers)
  | 0x70020 => w32 (sumSegs Segm.hostGranules m.layers)
  | 0x70024 => BitVec.ofInt 32 m.use
  | 0x70028 => m.gen
  | 0x70030 => s.passNo
  | 0x70044 => w32 s.ringWord
  | 0x70048 => w32 s.ringSizeWord
  | 0x70070 => w32 (flag ((List.range 32).any s.patching) 31 + flag (s.models.any (fun e => e.2.old ≠ [])) 30) ||| s.reg off
  | _ => if decide (0x70F00 ≤ off) && decide (off < 0x70F40) then w32 (s.partWord ((off - 0x70F00) / 4)) else s.reg off

/-! ### KVP (R216) -/

def seqCode' (q : SeqSt) : Nat := match q with | .free => 0 | .live => 1 | .evicted => 2
def State.selSeq (s : State) : Seq := s.seq (getBits (s.reg 0x80020) 0 10)
def State.deferred (s : State) : Nat := (s.pages.filter (fun e => e.2.refs = 0 && e.2.pins ≠ [])).length
def State.classFree (s : State) : Nat :=
  let r := s.reg 0x80008
  let z := getBits r 0 4
  let p := getBits r 4 2
  if decide (4 ≤ z) && decide (z ≤ 10) && (s.pool p).en then s.freeCount p z else 0
/-- The registers of one pool: UNIT and FREE are the device's. -/
def State.poolRead (s : State) (n r : Nat) : Word :=
  let p := s.pool n
  if r = 2 then s.reg (poolReg n 2) ||| w32 (if p.en then p.unitBytes / 64 * 256 else 0)
  else if r = 4 then w32 (if p.en then s.freeUnits n else 0)
  else s.reg (poolReg n r)

/-- R216 does not say what a count or an address beyond its field reads as: DEFERRED stays at its largest value, and KVP_SEQ_TABLE shows the
low 32 bits of an evicted slot's host address / 64 (DESIGN CHOICE, log entry 108). -/
def State.kvpRead (s : State) (off : Nat) : Word :=
  let q := s.selSeq
  match off with
  | 0x80004 => s.reg off ||| w32 (min 0xFFFFFF s.deferred)
  | 0x8000C => w32 s.classFree
  | 0x80024 => w32 (seqCode' q.st * 2 ^ 30 + flag q.busy.isSome 29 + q.pool.toNat * 256 + q.ctx.toNat)
  | 0x80028 => w32 q.v
  | 0x8002C => w32 q.reserved
  | 0x80030 => w32 (q.maxrows * 65536 + q.rows.length)
  | 0x80034 => w32 ((if q.st = .evicted then q.host else q.table) / 64)
  | _ =>
    if decide (0x80100 ≤ off) && decide (off < 0x80180) then s.poolRead ((off - 0x80100) / 32) ((off - 0x80100) % 32 / 4)
    else if decide (0x80400 ≤ off) && decide (off < 0x80600) && decide (off % 8 = 4) then w32 (s.usedOf ((off - 0x80400) / 8))
    else s.reg off

/-! ### SEC (R429) -/

def kindCode (k : KeyKind) : Nat :=
  match k with | .empty => 0 | .verify => 1 | .context => 2 | .weight => 3 | .ide => 4 | .internal => 5
def State.slotWord (s : State) : Nat :=
  let i := getBits (s.reg 0xA0008) 0 7
  let k := s.keySlot i
  kindCode k.kind * 2 ^ 29 + flag k.sealed_ 28 + flag (i = 0) 27 + (if k.kind = .empty then 0 else k.session.toNat) * 2 ^ 24 + k.gen.toNat
def State.policyWord (s : State) : Nat :=
  let c := s.secCtx
  let x := s.ctx c
  flag x.admin 31 + flag ((s.keySlot (ctxKeySlot c)).kind ≠ .empty) 30 + flag x.sealed_ 29 + flag x.hostrw 28 + flag x.idereq 27 + flag x.ulink 26
def State.sessionsOpen (s : State) : Nat := ((List.range 4).filter (fun i => s.sess i ≠ .none)).length

def State.secRead (s : State) (off : Nat) : Word :=
  let k := s.sec
  match off with
  | 0xA0000 =>
    w32 (flag k.ready 31 + flag k.quarantine 30 + flag k.alarm 29 + s.sessionsOpen * 2 ^ 26 + flag k.ideSecure 25) ||| s.reg off
  | 0xA0004 => secTamper k
  | 0xA000C => w32 s.slotWord
  | 0xA0014 => w32 s.policyWord
  | _ =>
    if decide (0xA0020 ≤ off) && decide (off < 0xA0060) && decide ((off - 0xA0020) % 16 < 12) then
      s.reg (winKey s.secCtx ((off - 0xA0020) / 16) ((off - 0xA0020) % 16 / 4))
    else s.reg off

/-! ### ULK, EVT and RAS (R398, R481, R482) -/

def State.portRead (s : State) (n r : Nat) : Word :=
  let p := s.port n
  match r with
  | 0 => w32 (flag p.en 31 + flag p.retrain 30)
  | 1 => w32 (p.st.toNat * 2 ^ 29 + p.width.toNat * 2 ^ 27 + flag p.rate16 26 + p.peer.toNat * 2 ^ 22 + p.lanes.toNat)
  | _ => s.reg (0xB0100 + 0x20 * n + 4 * r)

def State.ulkRead (s : State) (off : Nat) : Word :=
  match off with
  | 0xB0008 => s.routeReg (getBits (s.reg 0xB0004) 0 4)
  | 0xB0184 => s.reg (0x1100100 + 4 * getBits (s.reg 0xB0180) 0 4)
  | 0xB0204 => s.reg (cqReg (getBits (s.reg 0xB0200) 0 3))
  | _ =>
    if decide (0xB0100 ≤ off) && decide (off < 0xB0180) then s.portRead ((off - 0xB0100) / 32) ((off - 0xB0100) % 32 / 4) else s.reg off

/-- A record's 32 bytes (Table 6 of R475). -/
def EvRec.bytes (r : EvRec) : List Byte :=
  toLE 4 r.firstS.toNat ++ toLE 2 r.firstF.toNat ++ toLE 2 r.lastD.toNat ++ toLE 2 r.count.toNat ++ toLE 2 r.code.toNat ++
  toLE 1 r.source.toNat ++ toLE 1 r.cls.toNat ++ toLE 2 r.status.toNat ++ padTo 12 r.data ++ toLE 4 r.seq.toNat
/-- The record that EVT_SEL names. -/
def State.selRecord (s : State) : Option EvRec := s.evt.ring.find? (fun r => r.seq = s.reg 0xC0010)
def State.selBytes (s : State) : List Byte := match s.selRecord with | some r => r.bytes | none => List.replicate 32 0
/-- The oldest record held; one past the newest in an empty ring. -/
def Evt.tail (e : Evt) : Word := match e.ring.getLast? with | some r => r.seq | none => e.head + 1

def State.evtRead (s : State) (off : Nat) : Word :=
  match off with
  | 0xC0004 => s.evt.head
  | 0xC0008 => s.evt.tail
  | 0xC000C => s.evt.ack
  | 0xC0018 => w32 (flag s.evt.flushGo 31 + flag s.evt.gone 30)
  | 0xC001C => s.evt.flushed
  | 0xC0020 => w32 (leAt s.selBytes 0 4)
  | 0xC0040 => s.shadowWord 3
  | _ => if decide (0xC0024 ≤ off) && decide (off ≤ 0xC0048) then s.latched off else s.reg off

def coresThat (p : Nat → Bool) : Nat := ((List.range 16).map (fun n => flag (p n) n)).foldl (· + ·) 0
def State.rasRead (s : State) (off : Nat) : Word :=
  let r := s.ras
  match off with
  | 0xD0000 => s.reg off ||| w32 (flag r.deviceFault 31)
  | 0xD0004 => w32 (coresThat (fun n => (s.core n).fence = .retired) * 65536 + coresThat (fun n => (s.core n).fence ≠ .inService))
  | 0xD0010 => s.reg off ||| w32 (r.tags.length + r.orphans.length)
  | 0xD0014 =>
    w32 (flag (r.staged ≠ []) 31 + flag (r.staged.head?.any (fun f => f.target)) 30 + flag r.pendingSi.isSome 29 +
      flag (mgtBusy s && (mgtOp s = 4 || mgtOp s = 5)) 28)
  | _ => s.reg off

/-! ### Doorbell pages (R362) -/

def State.doorRead (s : State) (c r : Nat) : Word :=
  let p := s.spool c (r / 8)
  if decide (64 ≤ r) then 0
  else if r % 8 = 0 then w32 p.tail.toNat
  else if r % 8 = 4 then w32 (flag p.phase 31 + p.head.toNat)
  else 0

/-! ### WRG (Table 8 of R301) -/

/-- The units that hold some work, as bits of WRG_BUSY. -/
def State.unitBits (s : State) (p : WrgJob → Bool) (sh : Nat) : Nat :=
  ((List.range 8).map (fun u => flag (let j := nget WrgJob.idle s.wrg.units u; j ≠ .idle && p j) (sh + u))).foldl (· + ·) 0

def State.wrgRead (s : State) (off : Nat) : Word :=
  match off with
  | 0x90014 => w32 (s.unitBits (fun j => match j with | .stream _ _ _ => true | _ => false) 8 + s.unitBits (fun _ => true) 0)
  | _ => s.reg off

/-! ### BAR0 as a whole (Table 2 of R356) -/

def State.readReg (s : State) (off : Nat) : Word :=
  if 0x240000 ≤ off then 0
  else if 0x200000 ≤ off then s.doorRead ((off - 0x200000) / 4096) (off % 4096)
  else if 0x100000 ≤ off then s.coreRead ((off - 0x100000) / 65536) (off % 65536)
  else match off / 65536 with
    | 0x0 => s.genRead off
    | 0x1 => s.hifRead off
    | 0x3 => s.pwrRead off
    | 0x4 => s.clkRead off
    | 0x5 => s.drmRead off
    | 0x6 => s.flsRead off
    | 0x7 => s.strRead off
    | 0x8 => s.kvpRead off
    | 0x9 => s.wrgRead off
    | 0xA => s.secRead off
    | 0xB => s.ulkRead off
    | 0xC => s.evtRead off
    | 0xD => s.rasRead off
    | 0xE => s.tstRead off
    | _ => s.reg off

/-! ### I3C registers (Table 8 of R501) -/

/-- A register of the I3C target as it reads; none where the offset is not acknowledged. TJ is the always-on sensor's, and so free,
unless the sequencer is ON. -/
def State.i3cRead (s : State) (off : Nat) : Option Word :=
  match off with
  | 0 => some (w32 (deviceId s.fuses.grade * 65536 + s.fuses.stepping.toNat * 256))
  | 4 => some 0
  | 8 =>
    some (w32 (seqCode s.aon.seq * 2 ^ 29 + flag s.aon.trip 28 + flag s.aon.clean 27 + flag s.sec.latched 26 + s.i3cTj.1.toNat))
  | 0xC => some (w32 (if s.aon.seq = .on then min 65535 (s.pwr.samples.headD 0) else 0))
  | _ => none

end Sys2Proof.Machine
end

