-- ==== Sys2Proof/Machine/Access.lean ====
section
/-! DEFINITION. Accesses to BAR0 and BAR2 that have no row of their own: register writes (R10, R11), reads that clear (R13) or latch
(R510), bad accesses (R357), DRAM through BAR2 (R358, R416, R425), and the unmasking of a vector (R375). -/

namespace Sys2Proof.Machine

/-! ### Writes that another row describes -/

/-- Registers every write of which is a row of its own. -/
def ownOffsets : List Nat :=
  [0x10014, 0x10034, 0x10F00, 0xC000C, 0xC0018, 0x60068, 0x60028, 0x70000, 0x70004, 0x80000, 0x80108, 0x80128, 0x80148, 0x80168,
   0x50014, 0x50004, 0xB0100, 0xB0120, 0xB0140, 0xB0160, 0x40030]
/-- Registers for which a write with one of some bits set is a row of its own. -/
def ownBits : List (Nat × Nat) :=
  [(0x50034, 31), (0xB0214, 31), (0xA0014, 25), (0x30004, 30), (0x30044, 30), (0xE0004, 31), (0xE0004, 23)]
def isWindowReg (off : Nat) : Bool := decide (0xA0020 ≤ off) && decide (off < 0xA0060) && decide ((off - 0xA0020) % 16 < 12)
/-- DB_TAIL of a spool, or DB_ABORT, of a context's doorbell page (Table 3 of R362). -/
def isDoorbell (off : Nat) : Bool :=
  decide (0x200000 ≤ off) && decide (off < 0x240000) &&
  (off % 4096 = 0x100 || (decide (off % 4096 < 0x40) && off % 8 = 0))
/-- The write is another row's: a doorbell, a window, or one of the lists. -/
def ownRow (off : Nat) (val : Word) : Bool :=
  isDoorbell off || isWindowReg off || ownOffsets.contains off || ownBits.any (fun e => e.1 = off && bitOf val e.2)

/-! ### Registers with a rule of their own -/

/-- A spool's bases, while its EN is 0 (R378). -/
def State.baseWrite (s : State) (off : Nat) (val : Word) : State :=
  let e := s.selSpool
  let p := s.spool e.1 e.2
  if p.en then s
  else if off = 0x10024 then s.setSpool e.1 e.2 { p with cmdLo := val }
  else if off = 0x10028 then s.setSpool e.1 e.2 { p with cmdHi := val }
  else if off = 0x1002C then s.setSpool e.1 e.2 { p with cplLo := val }
  else s.setSpool e.1 e.2 { p with cplHi := val }

/-- GO submits a request unless one is outstanding, and is an exit event (R445); an unknown OP ends it at once (R377). DONE clears on a write of 1. -/
def State.mgtWrite (s : State) (val : Word) : State :=
  let s1 := if bitOf val 29 then s.setReg 0x20000 (s.reg 0x20000 &&& 0xDFFFFFFF#32) else s
  if !bitOf val 31 || mgtBusy s then s1
  else
    let s2 := s1.setReg 0x20000 (s1.reg 0x20000 ||| 0xC0000000#32)
    if decide (1 ≤ mgtOp s2) && decide (mgtOp s2 ≤ 8) then s2.exitIdle else (s2.answer stBounds []).exitIdle

/-- BASE, UNITS and FT of a pool, while its EN is 0 (R217). -/
def State.poolWrite (s : State) (off : Nat) (val : Word) : State :=
  let n := (off - 0x80100) / 32
  let r := (off - 0x80100) % 32 / 4
  if (s.pool n).en then s.cfgErr
  else if r = 1 then s.setReg off (val &&& 0x0FFFFFFF#32)
  else s.setReg off (val &&& 0x000FFFFF#32)

/-- A budget; POOL stays while the context has a slot that is not FREE (R216). -/
def State.budgetWrite (s : State) (c : Nat) (val : Word) : State :=
  let held := s.seqs.any (fun e => e.2.st ≠ .free && e.2.ctx.toNat = c)
  let pool := if held then s.reg (budgetReg c) &&& 0xC0000000#32 else val &&& 0xC0000000#32
  s.setReg (budgetReg c) (pool ||| (val &&& 0x0FFFFFFF#32))

/-- The ranges of Tables 8 and 12 of R253: the thresholds stay 1,000,000 apart in both directions (R242). -/
def State.flsOk (s : State) (off : Nat) (val : Word) : Bool :=
  let n := getBits val 0 24
  match off with
  | 0x60000 => decide (getBits val 16 7 ≤ 50) && decide (getBits val 0 5 ≤ getBits val 8 5)
  | 0x60010 => decide (1000000 ≤ n) && decide (n ≤ 8000000) && decide (n + 1000000 ≤ s.threshUrgent)
  | 0x60014 => decide (s.threshQueue + 1000000 ≤ n) && decide (n ≤ 12000000) && decide (n + 1000000 ≤ s.threshHold)
  | 0x60018 => decide (s.threshUrgent + 1000000 ≤ n) && decide (n ≤ 15000000)
  | 0x6001C => decide (8 ≤ getBits val 16 8) && decide (getBits val 16 8 ≤ 64) && decide (7 ≤ getBits val 0 8) && decide (getBits val 0 8 ≤ 90)
  | 0x60020 => decide (16 ≤ getBits val 0 10) && decide (getBits val 0 10 ≤ 1000)
  | 0x60024 => decide (1 ≤ getBits val 0 6) && decide (getBits val 0 6 ≤ 60)
  | _ => true

/-- Every byte-wide field of a word is at least 1. -/
def bytesSet (val : Word) : Bool := (List.range 4).all (fun i => decide (0 < getBits val (8 * i) 8))
/-- The ranges of the DRM tables (R328). -/
def drmOk (off : Nat) (val : Word) : Bool :=
  match off with
  | 0x50018 => bytesSet val
  | 0x5001C => decide (0 < getBits val 20 12) && decide (0 < getBits val 12 8) && decide (0 < getBits val 4 8)
  | 0x50020 => decide (getBits val 0 5 < 20)
  | 0x5002C => decide (0 < getBits val 16 16) && decide (10 ≤ getBits val 0 16) && decide (getBits val 0 16 ≤ 60000)
  | 0x50034 => decide (getBits val 21 5 < 18)
  | 0x50040 =>
    decide (100 ≤ getBits val 16 16) && decide (getBits val 16 16 ≤ 10000) && decide (512 ≤ getBits val 0 16) && decide (getBits val 0 16 ≤ 32768)
  | _ => true

/-- The limits of R439 for the four modes in mW: PL1 from 2 W to Table 2's value, PL2 from PL1 to half as much again; and the levels of
Table 4 of R447. Log entry 102. -/
def pwrOk (off : Nat) (val : Word) : Bool :=
  match off with
  | 0x30018 => decide (1 ≤ getBits val 0 5) && decide (getBits val 0 5 ≤ 28)
  | 0x30028 =>
    decide (70 ≤ getBits val 0 8) && decide (getBits val 0 8 ≤ 104) && decide (getBits val 0 8 ≤ getBits val 8 8) && decide (getBits val 8 8 ≤ 104)
  | _ =>
    if decide (off < 0x30008) || decide (0x30018 ≤ off) then true
    else
      let pl1 := getBits val 0 16
      let pl2 := getBits val 16 16
      decide (2000 ≤ pl1) && decide (pl1 ≤ [8000, 25000, 45000, 3000].getD ((off - 0x30008) / 4) 0) && decide (pl1 ≤ pl2) &&
        decide (2 * pl2 ≤ 3 * pl1)

/-- The shadow set is open: VALID is 0 and no switch is in progress (R321). -/
def State.shadowOpen (s : State) : Bool := !bitOf s.dram.shadow.mode 31 && !s.dram.switching

/-- LAT and ROW of the shadow set. -/
def State.tsetWrite (s : State) (off : Nat) (val : Word) : State :=
  if !s.shadowSel || !s.shadowOpen then s
  else if !drmOk off val then s.drmCfgErr
  else if off = 0x50018 then s.modDram (fun d => { d with shadow := { d.shadow with lat := val } })
  else s.modDram (fun d => { d with shadow := { d.shadow with row := val &&& 0xFFFFFFF0#32 } })

/-- A lane delay of the shadow set; VREF of a strobe lane is 0. -/
def State.laneWrite (s : State) (val : Word) : State :=
  if !bitOf (s.reg 0x50020) 9 || !s.shadowOpen then s
  else if decide (18 ≤ s.laneSel % 32) && getBits val 8 7 ≠ 0 then s.drmCfgErr
  else s.modDram (fun d => { d with lanes := nset 0 d.lanes s.laneKey (val &&& 0xFFFF7F00#32) })

/-- A system channel that an active bitstream assigns. -/
def State.sysAssigned (s : State) (ch : Nat) : Bool := (s.chan (chanKey 4 ch)).slot.isSome && (s.chan (chanKey 4 ch)).scope = 2

/-- The MSI-X vector control: a vector that is unmasked sends its pending message (R375). -/
def State.vectorCtl (s : State) (v : Nat) (mask : Bool) : State :=
  let s1 := s.setReg (msixCtl v) (w32 (boolNat mask))
  if !mask && nget false s.pcie.pba v then
    ({ s1 with pcie := { s1.pcie with pba := nset false s1.pcie.pba v false } }).emit (.msix v)
  else s1

/-- A register that only its access codes govern; those of the management controller take no host write. -/
def State.plainWrite (s : State) (who : Agent) (off : Nat) (val : Word) : State :=
  match regInfo off with
  | some r => if r.mgmt && who = .host then s else s.setReg off (r.written (s.reg off) val)
  | none => s

/-- A management write that a range check refuses. -/
def State.mgmtOnly (s : State) (who : Agent) (act : State) : State := if who = .mgmt then act else s

/-- PWR_AON_CTRL: posted; of a host's write only ALARM_EN = 0 counts. -/
def State.aonCtrlWrite (s : State) (who : Agent) (val : Word) : State :=
  match who with
  | .mgmt => s.postAon 0x44 val
  | .host => if bitOf val 29 then s else s.postAon 1 val

/-- A host write to a doorbell page besides DB_TAIL and DB_ABORT: in an enabled page it reaches no writable bit; to the page of a
disabled context, or to a register of a disabled spool, it is recorded (R362). -/
def State.pageWrite (s : State) (who : Agent) (off : Nat) : State :=
  let c := (off - 0x200000) / 4096
  let p := off % 4096 / 8
  if who = .mgmt then s
  else if !(s.ctx c).en then s.hifErr 1 c (if off % 4096 < 0x40 then p else 0) 0
  else if decide (off % 4096 < 0x40) && !(s.spool c p).en then s.hifErr 1 c p 0
  else s

/-- A write by one who reaches BAR0. -/
def State.bar0Write (s : State) (who : Agent) (off : Nat) (val : Word) : State :=
  match off with
  | 0x10024 => s.baseWrite off val
  | 0x10028 => s.baseWrite off val
  | 0x1002C => s.baseWrite off val
  | 0x10030 => s.baseWrite off val
  | 0x20000 => s.mgtWrite val
  | 0x30004 => s.ctrlWrite val
  | 0x3002C => s.alertEdge (s.plainWrite who off val)
  | 0x30030 => s.alertEdge (s.plainWrite who off val)
  | 0x30044 => s.aonCtrlWrite who val
  | 0x30048 => s.postAon 0x48 val
  | 0x50018 => s.mgmtOnly who (s.tsetWrite off val)
  | 0x5001C => s.mgmtOnly who (s.tsetWrite off val)
  | 0x50024 => s.mgmtOnly who (s.laneWrite val)
  | 0x60008 => (s.plainWrite who off val).bandCheck
  | 0x60064 => if bitOf val 30 then { s with store := { s.store with forced := false } } else s
  | 0xA0014 => s.policyWrite val
  | 0xB0008 => s.mgmtOnly who (s.setReg (0x1100000 + 4 * getBits (s.reg 0xB0004) 0 4) (val &&& 0xFF#32))
  | 0xB0184 =>
    let ch := getBits (s.reg 0xB0180) 0 4
    if s.sysAssigned ch then s else s.setReg (0x1100100 + 4 * ch) (val &&& 0xFFFF#32)
  | 0xB0204 => s.setReg (cqReg (getBits (s.reg 0xB0200) 0 3)) (val &&& 0x8007FFFF#32)
  | 0xB0208 => if getBits val 0 24 = 0 then s else s.plainWrite who off val
  | 0xC0000 =>
    if getBits val 0 12 = 0 || decide (2048 < getBits val 0 12) then s else (s.plainWrite who off val).evtThreshold
  | 0xD000C => if getBits val 0 16 = 0 || getBits val 16 16 = 0 then s else s.plainWrite who off val
  | _ =>
    if decide (0x80100 ≤ off) && decide (off < 0x80180) && [0, 1, 3].contains ((off - 0x80100) % 32 / 4) then s.poolWrite off val
    else if decide (0x80400 ≤ off) && decide (off < 0x80600) && off % 8 = 0 then s.budgetWrite ((off - 0x80400) / 8) val
    else if decide (0x18000 ≤ off) && decide (off < 0x18800) && off % 16 = 12 then s.vectorCtl ((off - 0x18000) / 16) (bitOf val 0)
    else if off / 65536 = 0x3 && !pwrOk off val then s
    else if off / 65536 = 0x6 && !s.flsOk off val then s.mgmtOnly who s.flsCfgErr
    else if off / 65536 = 0x5 && !drmOk off val then (if off = 0x50020 || who = .mgmt then s.drmCfgErr else s)
    else if off / 65536 = 0xE then s.tstWrite off val
    else if decide (0x100000 ≤ off) && decide (off < 0x200000) then
      (if decide (s.coreCount ≤ (off - 0x100000) / 65536) || (off % 65536 = 0xB18 && getBits val 0 24 = 0) then s else s.plainWrite who off val)
    else if decide (0x200000 ≤ off) && decide (off < 0x240000) then s.pageWrite who off
    else s.plainWrite who off val

/-- Write-one-to-clear bits that the device sets in the cycle of a write are set after it (R12). -/
def State.sameCycle (s : State) (off : Nat) (set : Word) : State :=
  if off = 0x60064 then (if bitOf set 30 then { s with store := { s.store with forced := true } } else s)
  else match regInfo off with
    | some r => if set &&& r.w1c = 0 then s else s.setReg off (s.reg off ||| (set &&& r.w1c))
    | none => s

/-- From power-good, PERST_N held asserted keeps the registers of its domain in reset (R496). Those of the DRAM controller, which start-up
goes on to write (R450), are left out (log entry 105). -/
def State.heldReset (s : State) (off : Nat) : Bool :=
  s.pcie.perst && s.aon.groups = 5 && off / 65536 ≠ 0x5 &&
  (match regInfo off with | some r => decide (r.dom.rank ≤ 2) | none => false)

/-- A write of 4 aligned bytes to a register whose write no other row describes. `set` holds the write-one-to-clear bits that the
device sets in the same cycle. -/
def execRegWrite (who : Agent) (off : BitVec 24) (data : RegData) (s : State) : Host.Outcome State Fault Refusal :=
  let o := off.toNat
  .next (if o % 4 ≠ 0 || ownRow o data.val then s
    else match who with
      | .host => s.byHost ((s.bar0Write .host o data.val).sameCycle o data.set)
      | .mgmt =>
        if decide (1 ≤ s.aon.groups) && !s.heldReset o then (s.bar0Write .mgmt o data.val).sameCycle o data.set else s)

/-! ### Reads -/

/-- Counters of cycles or of finer time than the model keeps: each read returns a free value (log entry 3). -/
def timeCounter (off : Nat) : Bool :=
  off = 0x7005C || off = 0x70060 ||
  (decide (0x100000 ≤ off) && decide (off < 0x200000) && off % 65536 = 0x820)

/-- The register behind an RC read: CLK_STRETCH by its selector. -/
def State.rcKey (s : State) (off : Nat) : Nat := if off = 0x40008 then clkStretch s.selCore else off
/-- The bits of a register that a read clears. -/
def State.rcMask (s : State) (off : Nat) : Word :=
  if off = 0x50028 then 0xFFFF#32 else match regInfo (s.rcKey off) with | some r => r.rc | none => 0

/-- The counter is left with the increment of the same cycle alone (R13). -/
def State.rcClear (s : State) (off : Nat) (inc : Word) : State :=
  if off = 0x50028 then s.modDram (fun d => { d with laneTotal := nset 0 d.laneTotal (s.laneSel % 512) (inc.toNat % 65536) })
  else s.setReg (s.rcKey off) ((s.reg (s.rcKey off) &&& ~~~(s.rcMask off)) ||| (inc &&& s.rcMask off))

def State.say (s : State) (v : Word) : State := s.emit (.read (toLE 4 v.toNat) false)

/-- A read of a register with an RC field; a core's block that is not enabled reads 0. -/
def State.readClear (s : State) (off : Nat) (inc : Word) : State :=
  if decide (0x100000 ≤ off) && decide (off < 0x200000) && decide (s.coreCount ≤ (off - 0x100000) / 65536) then s.say 0
  else if timeCounter off then (let d := s.drawBits 32; d.2.say (if off = 0x70060 then d.1 &&& 0xFFFF#32 else d.1))
  else (s.rcClear off inc).say (s.readReg off)

def execRegReadClear (off : BitVec 24) (inc : Word) (s : State) : Host.Outcome State Fault Refusal :=
  let o := off.toNat
  .next (if o % 4 ≠ 0 || s.rcMask o = 0 then s else s.byHost (s.readClear o inc))

/-- What a latching read takes into its companions: the high half of a 64-bit count, or the calendar's other registers. -/
def State.latchAt (s : State) (off : Nat) : State :=
  let n := (off - 0x100000) / 65536
  if off = 0xC0040 then (s.setLatch 0xC0044 (s.shadowWord 4)).setLatch 0xC0048 (s.shadowWord 5)
  else if off = 0xE0008 then s.tstLatch off
  else if off % 65536 = 0x818 then s.setLatch (off + 4) ((s.core n).beats >>> 32 |>.setWidth 32)
  else s.setLatch (off + 4) ((s.core n).blocks >>> 32 |>.setWidth 32)

/-- Registers whose read latches others. -/
def State.latches (s : State) (off : Nat) : Bool :=
  off = 0xC0040 || off = 0xE0008 ||
  (decide (0x100000 ≤ off) && decide (off < 0x200000) && decide ((off - 0x100000) / 65536 < s.coreCount) &&
    (off % 65536 = 0x818 || off % 65536 = 0x904))

def execLatchingRead (off : BitVec 24) (s : State) : Host.Outcome State Fault Refusal :=
  .next (if s.latches off.toNat then s.byHost ((s.latchAt off.toNat).say (s.readReg off.toNat)) else s)

/-- EVT_DATA1 to EVT_DATA7 take the rest of the record, and GONE tells whether it is held (R479). -/
def State.latchEvent (s : State) : State :=
  let b := s.selBytes
  let s1 := (List.range 7).foldl (fun s i => s.setLatch (0xC0024 + 4 * i) (w32 (leAt b (4 + 4 * i) 4))) s
  { s1 with evt := { s1.evt with gone := s.selRecord.isNone } }

def execEvtData0Read (s : State) : Host.Outcome State Fault Refusal :=
  .next (s.byHost (s.latchEvent.say (w32 (leAt s.selBytes 0 4))))

/-- An access of a size other than 4 B or without alignment: a read completes with zeros, a write is dropped, and both are recorded. -/
def execBar0BadAccess (write : Bool) (off : BitVec 24) (size : Nat) (s : State) : Host.Outcome State Fault Refusal :=
  .next (if size = 4 && off.toNat % 4 = 0 then s
    else s.byHost (
      let s1 := s.hifErr 3 0 0 0
      if write then s1 else s1.emit (.read (List.replicate size 0) false)))

/-! ### BAR2 (R218, R309, R358, R416, R425) -/

/-- The context whose window holds a range whole and permits the access: HOSTRW, and the IDE stream where IDEREQ asks for it. -/
def State.bar2Ctx (s : State) (write : Bool) (off len : Nat) (ide : Bool) : Option Nat :=
  (List.range 64).find? (fun c =>
    let x := s.ctx c
    x.hostrw && (!x.idereq || (ide && s.sec.ideSecure)) &&
    (List.range 4).any (fun w =>
      let v := s.window c w
      v.en && (if write then v.hw else v.hr) && decide (v.base ≤ off) && decide (off + len ≤ v.base + v.size)))

def State.bar2Refused (s : State) (off : Nat) (write : Bool) : State := s.record 0x0208 srcHif 0 0 (toLE 8 off ++ toLE 1 (boolNat write))

/-- An access that is not permitted is recorded, in quarantine too; quarantine answers zeros. Every read completes (R359): before the
channels are initialised DRAM holds nothing that the spec states, and the bytes are free (log entry 71). -/
def State.bar2Get (s : State) (off len : Nat) (ide : Bool) : State :=
  match s.bar2Ctx false off len ide with
  | none => (s.bar2Refused off false).emit (.read (List.replicate len 0) false)
  | some c =>
    if s.sec.quarantine then s.emit (.read (List.replicate len 0) false)
    else if !s.dram.ready then (let d := s.drawBytes len; d.2.emit (.read d.1 false))
    else
      let r := s.dramRead c off len
      r.2.2.emit (.read r.1 (r.2.1.any id))

def State.bar2Put (s : State) (off : Nat) (data : List Byte) (ide : Bool) : State :=
  match s.bar2Ctx true off data.length ide with
  | none => s.bar2Refused off true
  | some c => if s.sec.quarantine then s else s.dramWrite c off data []

def execBar2Read (off : BitVec 36) (len : Nat) (ide : Bool) (s : State) : Host.Outcome State Fault Refusal :=
  .next (s.byHost (s.bar2Get off.toNat len ide))

def execBar2Write (off : BitVec 36) (data : List Byte) (ide : Bool) (s : State) : Host.Outcome State Fault Refusal :=
  .next (s.byHost (s.bar2Put off.toNat data ide))

/-! ### Vectors -/

def execMsixUnmask (vec : BitVec 7) (s : State) : Host.Outcome State Fault Refusal :=
  .next (s.byHost (s.vectorCtl vec.toNat false))

end Sys2Proof.Machine
end

