-- ==== Sys2Proof/Machine/Dispatch.lean ====
section
/-! DEFINITION. One arm per command: each is one direct call of the command's meaning. -/

namespace Sys2Proof.Machine

def exec (i : Instr) (s : State) : Host.Outcome State Fault Refusal :=
  match i with
  | .aonSupplyLoss => Sys2Proof.Machine.execAonSupplyLoss s
  | .aonSupplyUp => Sys2Proof.Machine.execAonSupplyUp s
  | .perstAssert => Sys2Proof.Machine.execPerstAssert s
  | .perstRelease refclkOk => Sys2Proof.Machine.execPerstRelease refclkOk s
  | .flr => Sys2Proof.Machine.execFlr s
  | .linkDlDown => Sys2Proof.Machine.execLinkDlDown s
  | .regWrite who off data => Sys2Proof.Machine.execRegWrite who off data s
  | .regReadClear off inc => Sys2Proof.Machine.execRegReadClear off inc s
  | .latchingRead off => Sys2Proof.Machine.execLatchingRead off s
  | .evtData0Read => Sys2Proof.Machine.execEvtData0Read s
  | .bar0BadAccess write off size => Sys2Proof.Machine.execBar0BadAccess write off size s
  | .bar2Read off len ide => Sys2Proof.Machine.execBar2Read off len ide s
  | .bar2Write off data ide => Sys2Proof.Machine.execBar2Write off data ide s
  | .msixUnmask vec => Sys2Proof.Machine.execMsixUnmask vec s
  | .doorbell ctx spool val => Sys2Proof.Machine.execDoorbell ctx spool val s
  | .commandFetch ctx spool entry => Sys2Proof.Machine.execCommandFetch ctx spool entry s
  | .dbAbort ctx val => Sys2Proof.Machine.execDbAbort ctx val s
  | .spoolEnable data => Sys2Proof.Machine.execSpoolEnable data s
  | .spoolDisable data => Sys2Proof.Machine.execSpoolDisable data s
  | .contextEnable val => Sys2Proof.Machine.execContextEnable val s
  | .contextDisable val => Sys2Proof.Machine.execContextDisable val s
  | .cmdNop r => Sys2Proof.Machine.execCmdNop r s
  | .run r => Sys2Proof.Machine.execRun r s
  | .runStart r => Sys2Proof.Machine.execRunStart r s
  | .create r => Sys2Proof.Machine.execCreate r s
  | .fork r => Sys2Proof.Machine.execFork r s
  | .truncate r => Sys2Proof.Machine.execTruncate r s
  | .drop r => Sys2Proof.Machine.execDrop r s
  | .writeback r => Sys2Proof.Machine.execWriteback r s
  | .evict r => Sys2Proof.Machine.execEvict r s
  | .restore r => Sys2Proof.Machine.execRestore r s
  | .mcreate r => Sys2Proof.Machine.execMcreate r s
  | .mextent r => Sys2Proof.Machine.execMextent r s
  | .mwrite r => Sys2Proof.Machine.execMwrite r s
  | .mseal r => Sys2Proof.Machine.execMseal r s
  | .mtable r => Sys2Proof.Machine.execMtable r s
  | .mload r => Sys2Proof.Machine.execMload r s
  | .munload r => Sys2Proof.Machine.execMunload r s
  | .mfree r => Sys2Proof.Machine.execMfree r s
  | .mxfree r => Sys2Proof.Machine.execMxfree r s
  | .patch r => Sys2Proof.Machine.execPatch r s
  | .patchFlip m => Sys2Proof.Machine.execPatchFlip m s
  | .bsload r => Sys2Proof.Machine.execBsload r s
  | .bsPersistDone slot => Sys2Proof.Machine.execBsPersistDone slot s
  | .bsact r => Sys2Proof.Machine.execBsact r s
  | .bsfree r => Sys2Proof.Machine.execBsfree r s
  | .bsSwitch r => Sys2Proof.Machine.execBsSwitch r s
  | .bsAreaWrite who val => Sys2Proof.Machine.execBsAreaWrite who val s
  | .commandEnd r => Sys2Proof.Machine.execCommandEnd r s
  | .nop c => Sys2Proof.Machine.execNop c s
  | .end_ c => Sys2Proof.Machine.execEnd c s
  | .jmp c => Sys2Proof.Machine.execJmp c s
  | .br c => Sys2Proof.Machine.execBr c s
  | .loop c => Sys2Proof.Machine.execLoop c s
  | .call c => Sys2Proof.Machine.execCall c s
  | .ret c => Sys2Proof.Machine.execRet c s
  | .alu c => Sys2Proof.Machine.execAlu c s
  | .alui c => Sys2Proof.Machine.execAlui c s
  | .li c => Sys2Proof.Machine.execLi c s
  | .sld c => Sys2Proof.Machine.execSld c s
  | .sst c => Sys2Proof.Machine.execSst c s
  | .slds c => Sys2Proof.Machine.execSlds c s
  | .sldsReturn c gd => Sys2Proof.Machine.execSldsReturn c gd s
  | .ssts c => Sys2Proof.Machine.execSsts c s
  | .csrr c => Sys2Proof.Machine.execCsrr c s
  | .tset c => Sys2Proof.Machine.execTset c s
  | .tclr c => Sys2Proof.Machine.execTclr c s
  | .twait c => Sys2Proof.Machine.execTwait c s
  | .twaitWake c => Sys2Proof.Machine.execTwaitWake c s
  | .col c => Sys2Proof.Machine.execCol c s
  | .colRelease node ch => Sys2Proof.Machine.execColRelease node ch s
  | .usig c => Sys2Proof.Machine.execUsig c s
  | .usigSignal c u => Sys2Proof.Machine.execUsigSignal c u s
  | .dma c => Sys2Proof.Machine.execDma c s
  | .dmaIssue c => Sys2Proof.Machine.execDmaIssue c s
  | .ringPieceTake c flight => Sys2Proof.Machine.execRingPieceTake c flight s
  | .mma c => Sys2Proof.Machine.execMma c s
  | .mmaIssue c => Sys2Proof.Machine.execMmaIssue c s
  | .tileClose c flight => Sys2Proof.Machine.execTileClose c flight s
  | .drainDone c flight => Sys2Proof.Machine.execDrainDone c flight s
  | .protectedWaitEnd c u => Sys2Proof.Machine.execProtectedWaitEnd c u s
  | .mgl c => Sys2Proof.Machine.execMgl c s
  | .mglIssue c => Sys2Proof.Machine.execMglIssue c s
  | .mglDone c => Sys2Proof.Machine.execMglDone c s
  | .vop c => Sys2Proof.Machine.execVop c s
  | .vld c => Sys2Proof.Machine.execVld c s
  | .vst c => Sys2Proof.Machine.execVst c s
  | .gate c => Sys2Proof.Machine.execGate c s
  | .vsf c => Sys2Proof.Machine.execVsf c s
  | .norm c => Sys2Proof.Machine.execNorm c s
  | .red c => Sys2Proof.Machine.execRed c s
  | .topk c => Sys2Proof.Machine.execTopk c s
  | .vectorIssue c => Sys2Proof.Machine.execVectorIssue c s
  | .streamReductionDone c => Sys2Proof.Machine.execStreamReductionDone c s
  | .wcmp c => Sys2Proof.Machine.execWcmp c s
  | .wexp c => Sys2Proof.Machine.execWexp c s
  | .wringerIssue c => Sys2Proof.Machine.execWringerIssue c s
  | .wringerBlockDone c => Sys2Proof.Machine.execWringerBlockDone c s
  | .releasePoint c u flight => Sys2Proof.Machine.execReleasePoint c u flight s
  | .waitTimeout c w => Sys2Proof.Machine.execWaitTimeout c w s
  | .corePartEnd c => Sys2Proof.Machine.execCorePartEnd c s
  | .islandGate island => Sys2Proof.Machine.execIslandGate island s
  | .islandWake island => Sys2Proof.Machine.execIslandWake island s
  | .patrolScrub mem granule found => Sys2Proof.Machine.execPatrolScrub mem granule found s
  | .ceWindow => Sys2Proof.Machine.execCeWindow s
  | .coreFault c check => Sys2Proof.Machine.execCoreFault c check s
  | .fenceDeadline c => Sys2Proof.Machine.execFenceDeadline c s
  | .orphanResponse tag => Sys2Proof.Machine.execOrphanResponse tag s
  | .orphanTagTimeout tag => Sys2Proof.Machine.execOrphanTagTimeout tag s
  | .coreSelfTestEnd c passed => Sys2Proof.Machine.execCoreSelfTestEnd c passed s
  | .deviceFault unit check => Sys2Proof.Machine.execDeviceFault unit check s
  | .mcWatchdog => Sys2Proof.Machine.execMcWatchdog s
  | .info => Sys2Proof.Machine.execInfo s
  | .powerMode => Sys2Proof.Machine.execPowerMode s
  | .setTime => Sys2Proof.Machine.execSetTime s
  | .fwStage => Sys2Proof.Machine.execFwStage s
  | .fwActivate selfCheck => Sys2Proof.Machine.execFwActivate selfCheck s
  | .tamperRecover => Sys2Proof.Machine.execTamperRecover s
  | .background => Sys2Proof.Machine.execBackground s
  | .coreRetest => Sys2Proof.Machine.execCoreRetest s
  | .evtAckWrite val => Sys2Proof.Machine.execEvtAckWrite val s
  | .evtFlush val => Sys2Proof.Machine.execEvtFlush val s
  | .evtFlushPeriodic => Sys2Proof.Machine.execEvtFlushPeriodic s
  | .unitProgramStart handle stripe unit => Sys2Proof.Machine.execUnitProgramStart handle stripe unit s
  | .unitProgramDone handle stripe unit ok => Sys2Proof.Machine.execUnitProgramDone handle stripe unit ok s
  | .flsConsent val => Sys2Proof.Machine.execFlsConsent val s
  | .erasePulseDone die bank block => Sys2Proof.Machine.execErasePulseDone die bank block s
  | .blockEraseDone die bank block ok => Sys2Proof.Machine.execBlockEraseDone die bank block ok s
  | .flashPageRead die bank block wl => Sys2Proof.Machine.execFlashPageRead die bank block wl s
  | .flashCodewordDecoded handle offset d => Sys2Proof.Machine.execFlashCodewordDecoded handle offset d s
  | .referenceCheck die bank block cols => Sys2Proof.Machine.execReferenceCheck die bank block cols s
  | .darnerCopyStart die => Sys2Proof.Machine.execDarnerCopyStart die s
  | .darnerCopyFlip die bank block => Sys2Proof.Machine.execDarnerCopyFlip die bank block s
  | .retentionDue die bank block => Sys2Proof.Machine.execRetentionDue die bank block s
  | .counterCheckpoint => Sys2Proof.Machine.execCounterCheckpoint s
  | .compactionStart => Sys2Proof.Machine.execCompactionStart s
  | .stripeMoveDone handle stripe => Sys2Proof.Machine.execStripeMoveDone handle stripe s
  | .flashRateChange rate => Sys2Proof.Machine.execFlashRateChange rate s
  | .storeReady start => Sys2Proof.Machine.execStoreReady start s
  | .flsAsmWrite who val => Sys2Proof.Machine.execFlsAsmWrite who val s
  | .strMirrorWrite size val => Sys2Proof.Machine.execStrMirrorWrite size val s
  | .mirrorLoadDone m ok => Sys2Proof.Machine.execMirrorLoadDone m ok s
  | .pieceStaged slot ring => Sys2Proof.Machine.execPieceStaged slot ring s
  | .routeRecord slot off => Sys2Proof.Machine.execRouteRecord slot off s
  | .kvpEnable val => Sys2Proof.Machine.execKvpEnable val s
  | .poolEnable pool val => Sys2Proof.Machine.execPoolEnable pool val s
  | .poolDisable pool val => Sys2Proof.Machine.execPoolDisable pool val s
  | .dramRequest req line key wr => Sys2Proof.Machine.execDramRequest req line key wr s
  | .dramReadReturn ch symbols => Sys2Proof.Machine.execDramReadReturn ch symbols s
  | .dramRefresh ch bank issue => Sys2Proof.Machine.execDramRefresh ch bank issue s
  | .mr4Poll mult => Sys2Proof.Machine.execMr4Poll mult s
  | .hammerWindow => Sys2Proof.Machine.execHammerWindow s
  | .laneWindow => Sys2Proof.Machine.execLaneWindow s
  | .selfRefreshEntry ch => Sys2Proof.Machine.execSelfRefreshEntry ch s
  | .selfRefreshExit ch => Sys2Proof.Machine.execSelfRefreshExit ch s
  | .dramTempSample temp => Sys2Proof.Machine.execDramTempSample temp s
  | .dramPatrol line symbols => Sys2Proof.Machine.execDramPatrol line symbols s
  | .dramClearUnit unit => Sys2Proof.Machine.execDramClearUnit unit s
  | .shadowFreeze val => Sys2Proof.Machine.execShadowFreeze val s
  | .shadowOpen val => Sys2Proof.Machine.execShadowOpen val s
  | .mrwDone => Sys2Proof.Machine.execMrwDone s
  | .dramSwitch val => Sys2Proof.Machine.execDramSwitch val s
  | .dramSwitchDone => Sys2Proof.Machine.execDramSwitchDone s
  | .dramInitDone => Sys2Proof.Machine.execDramInitDone s
  | .drmProbe val => Sys2Proof.Machine.execDrmProbe val s
  | .probeDone errors => Sys2Proof.Machine.execProbeDone errors s
  | .portEnable p val => Sys2Proof.Machine.execPortEnable p val s
  | .portDisable p val => Sys2Proof.Machine.execPortDisable p val s
  | .portRetrain p val => Sys2Proof.Machine.execPortRetrain p val s
  | .portTrainingDone p t => Sys2Proof.Machine.execPortTrainingDone p t s
  | .portRetry p => Sys2Proof.Machine.execPortRetry p s
  | .peerSilence p => Sys2Proof.Machine.execPeerSilence p s
  | .replayTimeout p => Sys2Proof.Machine.execReplayTimeout p s
  | .flitIdle p f => Sys2Proof.Machine.execFlitIdle p f s
  | .flitData p f => Sys2Proof.Machine.execFlitData p f s
  | .flitCol p f => Sys2Proof.Machine.execFlitCol p f s
  | .flitCtrl p f => Sys2Proof.Machine.execFlitCtrl p f s
  | .flitNak p f => Sys2Proof.Machine.execFlitNak p f s
  | .flitGreset p f => Sys2Proof.Machine.execFlitGreset p f s
  | .flitCrcFail p => Sys2Proof.Machine.execFlitCrcFail p s
  | .collectiveRequest slot idx => Sys2Proof.Machine.execCollectiveRequest slot idx s
  | .collectiveMatch slot idx records => Sys2Proof.Machine.execCollectiveMatch slot idx records s
  | .collectiveDone slot idx => Sys2Proof.Machine.execCollectiveDone slot idx s
  | .collectiveTimeout slot idx => Sys2Proof.Machine.execCollectiveTimeout slot idx s
  | .ulkGreset val => Sys2Proof.Machine.execUlkGreset val s
  | .getVersion => Sys2Proof.Machine.execGetVersion s
  | .getCapabilities => Sys2Proof.Machine.execGetCapabilities s
  | .negotiateAlgorithms => Sys2Proof.Machine.execNegotiateAlgorithms s
  | .getDigests => Sys2Proof.Machine.execGetDigests s
  | .getCertificate slot off len => Sys2Proof.Machine.execGetCertificate slot off len s
  | .challenge slot nonce => Sys2Proof.Machine.execChallenge slot nonce s
  | .getMeasurements index sign nonce => Sys2Proof.Machine.execGetMeasurements index sign nonce s
  | .keyExchange req => Sys2Proof.Machine.execKeyExchange req s
  | .finish sess ok => Sys2Proof.Machine.execFinish sess ok s
  | .heartbeat sess => Sys2Proof.Machine.execHeartbeat sess s
  | .keyUpdate sess => Sys2Proof.Machine.execKeyUpdate sess s
  | .endSession sess => Sys2Proof.Machine.execEndSession sess s
  | .keyWeight sess payload => Sys2Proof.Machine.execKeyWeight sess payload s
  | .keyContext sess payload => Sys2Proof.Machine.execKeyContext sess payload s
  | .keyVerify sess payload => Sys2Proof.Machine.execKeyVerify sess payload s
  | .keyDestroy sess payload => Sys2Proof.Machine.execKeyDestroy sess payload s
  | .keyProg sess set sub tx key => Sys2Proof.Machine.execKeyProg sess set sub tx key s
  | .kSetGo sess set => Sys2Proof.Machine.execKSetGo sess set s
  | .kSetStop sess set => Sys2Proof.Machine.execKSetStop sess set s
  | .ideKmQuery sess => Sys2Proof.Machine.execIdeKmQuery sess s
  | .contextZero val => Sys2Proof.Machine.execContextZero val s
  | .windowWrite w r val => Sys2Proof.Machine.execWindowWrite w r val s
  | .tamperAlarm sensor when_ => Sys2Proof.Machine.execTamperAlarm sensor when_ s
  | .powerSample cores others => Sys2Proof.Machine.execPowerSample cores others s
  | .pointRampDone ridge => Sys2Proof.Machine.execPointRampDone ridge s
  | .tempSample readings => Sys2Proof.Machine.execTempSample readings s
  | .flashTempSample hottest => Sys2Proof.Machine.execFlashTempSample hottest s
  | .droopDetect island => Sys2Proof.Machine.execDroopDetect island s
  | .stretchEnd island => Sys2Proof.Machine.execStretchEnd island s
  | .thermalTrip => Sys2Proof.Machine.execThermalTrip s
  | .clearTrip val => Sys2Proof.Machine.execClearTrip val s
  | .clkFixedWrite val => Sys2Proof.Machine.execClkFixedWrite val s
  | .idleEntry => Sys2Proof.Machine.execIdleEntry s
  | .idleEntered => Sys2Proof.Machine.execIdleEntered s
  | .idleExit => Sys2Proof.Machine.execIdleExit s
  | .powerOnRequest => Sys2Proof.Machine.execPowerOnRequest s
  | .pwrfailDeassert => Sys2Proof.Machine.execPwrfailDeassert s
  | .i3cOn val => Sys2Proof.Machine.execI3cOn val s
  | .i3cOff val => Sys2Proof.Machine.execI3cOff val s
  | .i3cClearTrip val => Sys2Proof.Machine.execI3cClearTrip val s
  | .pwrCtrlOff val => Sys2Proof.Machine.execPwrCtrlOff val s
  | .railGroupGood group => Sys2Proof.Machine.execRailGroupGood group s
  | .railGroupTimeout group => Sys2Proof.Machine.execRailGroupTimeout group s
  | .railGroupFail group => Sys2Proof.Machine.execRailGroupFail group s
  | .safePoint => Sys2Proof.Machine.execSafePoint s
  | .pwrfail => Sys2Proof.Machine.execPwrfail s
  | .emergencyRailsOff => Sys2Proof.Machine.execEmergencyRailsOff s
  | .powerDownRailsOff => Sys2Proof.Machine.execPowerDownRailsOff s
  | .minOffExpire => Sys2Proof.Machine.execMinOffExpire s
  | .wakeAlarm => Sys2Proof.Machine.execWakeAlarm s
  | .aonPostedWrite => Sys2Proof.Machine.execAonPostedWrite s
  | .aonShadowRefresh => Sys2Proof.Machine.execAonShadowRefresh s
  | .clk32kLock => Sys2Proof.Machine.execClk32kLock s
  | .clk32kLoss => Sys2Proof.Machine.execClk32kLoss s
  | .entdaa addr => Sys2Proof.Machine.execEntdaa addr s
  | .setdasa addr => Sys2Proof.Machine.execSetdasa addr s
  | .rstdaa => Sys2Proof.Machine.execRstdaa s
  | .getpid => Sys2Proof.Machine.execGetpid s
  | .getbcr => Sys2Proof.Machine.execGetbcr s
  | .getdcr => Sys2Proof.Machine.execGetdcr s
  | .getstatus => Sys2Proof.Machine.execGetstatus s
  | .tapReset => Sys2Proof.Machine.execTapReset s
  | .bypass => Sys2Proof.Machine.execBypass s
  | .idcode => Sys2Proof.Machine.execIdcode s
  | .samplePreload cells => Sys2Proof.Machine.execSamplePreload cells s
  | .extest => Sys2Proof.Machine.execExtest s
  | .clamp => Sys2Proof.Machine.execClamp s
  | .highz => Sys2Proof.Machine.execHighz s
  | .tstAccess dr => Sys2Proof.Machine.execTstAccess dr s
  | .tstGo data => Sys2Proof.Machine.execTstGo data s
  | .tstStop data => Sys2Proof.Machine.execTstStop data s
  | .tstRunEnd => Sys2Proof.Machine.execTstRunEnd s
  | .tstAbort => Sys2Proof.Machine.execTstAbort s
  | .hostReadCompletion p res => Sys2Proof.Machine.execHostReadCompletion p res s
  | .pcieLinkUp rate width => Sys2Proof.Machine.execPcieLinkUp rate width s
  | .securityStartupDone start => Sys2Proof.Machine.execSecurityStartupDone start s
  | .mmaFinished c flight => Sys2Proof.Machine.execMmaFinished c flight s
  | .vccqFlashSample mv => Sys2Proof.Machine.execVccqFlashSample mv s
  | .sensorDeassert => Sys2Proof.Machine.execSensorDeassert s
  | .zeroisationComplete => Sys2Proof.Machine.execZeroisationComplete s
  | .checkerLock rx => Sys2Proof.Machine.execCheckerLock rx s
  | .checkerSlip lane bits errs => Sys2Proof.Machine.execCheckerSlip lane bits errs s

end Sys2Proof.Machine
end

