-- ==== Sys2Proof/Safety.lean ====
section
/-! DEFINITION. The terms of the statements: a safe run, the conditions under which a command acts, and results of scalar
arithmetic over the integers. -/

namespace Sys2Proof.Safety

open Machine

/-- A step that answers a next state. -/
def steps (s t : State) : Prop := step s = .next t

/-- A state from which no number of steps stops. -/
def safe (s : State) : Prop := ∀ k, ∃ t, core.run k s = .next t

/-- The disabled positions of a ridge. -/
def disabledIn (s : State) (r : Nat) : Nat := ((List.range 4).filter (fun i => !s.fuses.mask.getLsbD (4 * r + i))).length

/-- The part's fuses are those of a grade (R1, R4, R23): GC2016, GC2014 or GC2012 with as many enabled positions, and no ridge with
more than one disabled position: the two of a GC2014 lie in different ridges, and a GC2012 has one in each. -/
def gradeOk (s : State) : Prop :=
  s.fuses.grade.toNat < 3 ∧ s.coreCount = 16 - 2 * s.fuses.grade.toNat ∧ ∀ r, r < 4 → disabledIn s r ≤ 1

/-! ### Cores -/

/-- The front end of a core has an instruction in hand that names no pending register (R145). -/
def handles (s : State) (c : BitVec 4) (i : CoreInstr) : Prop :=
  s.frontReady c.toNat = true ∧ (s.core c.toNat).fetch = .ins i ∧ (s.core c.toNat).waitsPending i = false

/-- A core past an instruction. -/
def past (k : Core) : Core := { k with pc := k.pc + 1 }

/-- The register file after a write: g0 takes none. -/
def gWrite (k : Core) (g : BitVec 5) (v : DWord) : NMap DWord := if g = 0 then k.g else nset 0 k.g g.toNat v

/-- The result of ALU and ALUI over the integers, wrapped to 64 bits (Table 5 of R149); a shift count is 0 to 63. -/
def aluResult (op : Nat) (a b : DWord) : DWord :=
  let n := b.toNat % 64
  match op with
  | 0 => BitVec.ofInt 64 (a.toInt + b.toInt)
  | 1 => BitVec.ofInt 64 (a.toInt - b.toInt)
  | 2 => a &&& b
  | 3 => a ||| b
  | 4 => a ^^^ b
  | 5 => BitVec.ofNat 64 (a.toNat * 2 ^ n)
  | 6 => BitVec.ofNat 64 (a.toNat / 2 ^ n)
  | 7 => BitVec.ofInt 64 (a.toInt / 2 ^ n)
  | 8 => BitVec.ofInt 64 (a.toInt * b.toInt)
  | 9 => if a.toInt ≤ b.toInt then a else b
  | 10 => if a.toInt ≤ b.toInt then b else a
  | 11 => if a.toNat ≤ b.toNat then a else b
  | _ => if a.toNat ≤ b.toNat then b else a

/-- The condition of BR over the integers (Table 5 of R149). -/
def condHolds (cond : Nat) (a b : DWord) : Prop :=
  match cond with
  | 0 => a = b
  | 1 => a ≠ b
  | 2 => a.toInt < b.toInt
  | 3 => b.toInt ≤ a.toInt
  | 4 => a.toNat < b.toNat
  | _ => b.toNat ≤ a.toNat

/-- The core-memory address of a scalar access (R149). -/
def memAddr (k : Core) (ga : BitVec 5) (off : BitVec 20) : Nat := (k.gr ga + off.signExtend 64).toNat

/-- No granule of a range of a memory has an error or poison. -/
def cleanRange (m : Ram) (a len : Nat) : Prop :=
  (∀ e ∈ m.ecc, ¬ (a / 8 ≤ e.1 ∧ e.1 ≤ (a + len - 1) / 8)) ∧ m.poisoned a len = false

/-- One byte of a memory of the state. -/
def byteOf (s : State) (m : MemSel) (x : Nat) : Byte := (s.ram m).byte x

/-- One byte of the memories of the chip at an address of a core's map (R173). -/
def mapByte (s : State) (n x : Nat) : Byte :=
  match placeOf n x 1 with
  | some (.ram m o) => byteOf s m o
  | _ => 0

/-- Nothing but one core differs, and it is as given. -/
def onlyCore (s t : State) (n : Nat) (k : Core) : Prop :=
  t = { s with cores := t.cores } ∧ t.core n = k ∧ ∀ m, m ≠ n → t.core m = s.core m

/-! ### Units of a core -/

/-- A core whose instruction has entered a unit's pending buffer with the operands that it reads at dispatch (R145, R146). -/
def entered (k : Core) (u : CoreUnit) (i : CoreInstr) (a b c d : DWord) : Core :=
  (past { k with nextSn := k.nextSn + 1 }).setUnit u { k.unit u with
    pend := (k.unit u).pend ++ [{ sn := k.nextSn, pc := k.pc.setWidth 13, ins := i, x0 := a, x1 := b, x2 := c, x3 := d }] }

/-- One lane of a lane operation: over the integers for the integer operations, by its FP32 function otherwise (Table 1 of R118). -/
def laneResult (op : BitVec 6) (f t : BitVec 4) (a b c : Word) : Word :=
  match op.toNat with
  | 0x09 => if c = 0 then b else a
  | 0x0A => BitVec.ofInt 32 (a.toInt + b.toInt)
  | 0x0B => BitVec.ofInt 32 (a.toInt - b.toInt)
  | 0x0C => BitVec.ofInt 32 (a.toInt * b.toInt)
  | 0x0D => BitVec.ofInt 32 (max (-2147483648) (min 2147483647 (a.toInt + b.toInt)))
  | 0x0E => BitVec.ofInt 32 (max (-2147483648) (min 2147483647 (a.toInt - b.toInt)))
  | 0x0F => if a.toInt ≤ b.toInt then a else b
  | 0x10 => if a.toInt ≤ b.toInt then b else a
  | 0x11 => a &&& b
  | 0x12 => a ||| b
  | 0x13 => a ^^^ b
  | 0x14 => BitVec.ofNat 32 (a.toNat * 2 ^ (b.toNat % 32))
  | 0x15 => BitVec.ofNat 32 (a.toNat / 2 ^ (b.toNat % 32))
  | 0x16 => BitVec.ofInt 32 (a.toInt / 2 ^ (b.toNat % 32))
  | _ => (laneOp op f t a b c).1

/-- An integer that INT32 holds. -/
def inInt32 (z : Int) : Prop := -2147483648 ≤ z ∧ z ≤ 2147483647

/-- The next vector word of a core, its number, issues at once: nothing waits before it, its tack is set and no earlier instruction
that is ready takes it, no load has still to fill an operand, and the port and special-function unit 0 are free where it uses them
(R120, R142). -/
def vecFree (k : Core) (n : Nat) (i : CoreInstr) : Prop :=
  k.vec.pend = [] ∧ k.tack (vecTacks i).1 = true ∧ k.firstTo n k.nextSn (consumes i) = true ∧
  ∀ f ∈ k.vec.flights, (usesPort i = true → holdsPort f.d.ins = false) ∧ (usesSfu i = true → holdsSfu f.d.ins = false) ∧
    ∀ v ∈ vregsOf i ++ k.secondVreg i, loadsReg f.d.ins ≠ some v

/-- A write into a memory reads nothing that has an error: every granule that it covers only in part is clean (R188, R190). -/
def mergeClean (m : Ram) (a len : Nat) : Prop := ∀ g ∈ partGranules a len, nget Ecc.clean m.ecc g = .clean

/-- A vector word has left the front end and issued, with its tack consumed as its C bit says. -/
def vecIssued (k : Core) (tw : BitVec 6) (cw : Bool) : Core :=
  { (past { k with nextSn := k.nextSn + 1 }).consume cw tw with vec := { k.vec with wait := false } }

/-- The record of an issued instruction that has read no descriptor. -/
def issuedAs (k : Core) (i : CoreInstr) (a b c d : DWord) : Flight :=
  { d := { sn := k.nextSn, pc := k.pc.setWidth 13, ins := i, x0 := a, x1 := b, x2 := c, x3 := d }, desc := [], phase := 0, blk := 0,
    reading := false, fed := [], seen := none, hits := [], ue := false }

/-- A byte string stands at an address of a memory. -/
def inRange (a len x : Nat) : Prop := a ≤ x ∧ x < a + len

/-- No issued instruction of a core has begun a write of DRAM (R171). -/
def noneBegun (s : State) : Prop := ∀ n, n < 16 → ∀ r ∈ s.openWrites n, r.1 < dramBase

/-! ### Host commands -/

/-- Nothing of the whole device keeps a held command: the sequencer is ON, the device is not in Idle, and neither quarantine nor a
DEVICE fault holds it. -/
abbrev serving (s : State) : Prop :=
  s.aon.seq = .on ∧ s.pwr.dev ≠ .idle ∧ s.sec.quarantine = false ∧ s.ras.deviceFault = false

/-- A fetched command that nothing stands before but its own conditions and its order. -/
def hostReady (s : State) (r : CmdRef) (op : Nat) (k : Cmd) : Prop :=
  s.cmd? r = some k ∧ k.op = op ∧ k.stage = .fetched ∧ serving s

/-- A command of a kind that only a context with ADMIN may issue (R421), ready and next in its spool, with its format obeyed. -/
def adminReady (s : State) (r : CmdRef) (op : Nat) (k : Cmd) (format : Cmd → Bool) : Prop :=
  hostReady s r op k ∧ (s.ctx k.ref.ctx.toNat).admin = true ∧ format k = true ∧ s.allEnded k = true

/-- A command has ended with a status. -/
def endedAs (t : State) (r : CmdRef) (status : Nat) : Prop :=
  ∃ k, t.cmd? r = some k ∧ k.stage = .ended ∧ k.status.toNat = status

/-- Every other command is as it was. -/
def cmdsElse (s t : State) (r : CmdRef) : Prop := ∀ q, q ≠ r → t.cmd? q = s.cmd? q

/-- How often a page stands in a list. -/
def timesIn (key : Nat) (ps : List PageId) : Nat := (ps.filter (fun p => p.key = key)).length

/-- Every sequence slot but one is as it was, but for a hold of the command itself. -/
def seqsElse (s t : State) (r : CmdRef) (n : Nat) : Prop := ∀ m, m ≠ n → (s.seq m).busy ≠ some r → t.seq m = s.seq m

/-- What a DROP or TRUNCATE `r` of slot `n` does beside its own effect: a RUN that holds the slot is cut, marked to end with
ST_ABORTED once started and ended with it before; every other command, and every other slot that neither holds, is as it was. -/
def cutFrame (s t : State) (r : CmdRef) (n : Nat) : Prop :=
  (∀ q, q ≠ r → (s.seq n).busy ≠ some q → t.cmd? q = s.cmd? q) ∧
  (∀ q j, q ≠ r → (s.seq n).busy = some q → s.cmd? q = some j →
    (j.isRun = false → t.cmd? q = some j) ∧
    (j.isRun = true → j.stage = .started → t.cmd? q = some { j with cut := true }) ∧
    (j.isRun = true → j.stage ≠ .started → endedAs t q stAborted)) ∧
  ∀ m, m ≠ n → (s.seq m).busy ≠ some r → ((s.seq m).busy = none ∨ (s.seq m).busy ≠ (s.seq n).busy) → t.seq m = s.seq m

/-! ### Events -/

/-- A record of an event stands in the recorder, whether new or merged with an equal one (R475, R476). -/
def logged (t : State) (code src status : Nat) (data : List Byte) : Prop :=
  ∃ e ∈ t.evt.ring, e.code.toNat = code ∧ e.source.toNat = src ∧ e.status.toNat = status ∧ e.data = padTo 12 data

/-- The newest records are in the log of the system partition (R480). -/
def flushed (t : State) : Prop := t.evt.log = t.evt.ring ∧ t.evt.flushed = t.evt.head

/-- Whether the governor has clock-gated an island (R31). -/
def gateBit (s : State) : Island → Bool
  | .core n => (s.core n.toNat).gated
  | .seg n => s.pwr.segGated.getLsbD n.toNat
  | .hub => s.pwr.otherGated.getLsbD 0
  | .dram => s.pwr.otherGated.getLsbD 1
  | .flash => s.pwr.otherGated.getLsbD 2
  | .pcie => s.pwr.otherGated.getLsbD 3
  | .mgmt => s.pwr.otherGated.getLsbD 4
  | .port n => s.pwr.otherGated.getLsbD (8 + n.toNat)

/-- Whether its clock stands: it is gated, and nothing has come for it since. -/
def gatedNow (s : State) : Island → Bool
  | .core n => gateBit s (.core n)
  | i => gateBit s i && s.islandEmpty i

/-- Of the device a command of the store changes the store alone and some registers; a pattern test under way ends where an URGENT mark
breaks its condition (R504). -/
def storeStep (s t : State) (offs : List Nat) : Prop :=
  t = { s with regs := t.regs, store := t.store, tst := t.tst } ∧
  (∀ off, off ∉ offs → (off = tstCtrl → s.tst.running = false) → t.reg off = s.reg off) ∧ (s.tst.running = false → t.tst = s.tst)

/-! ### Interrupts and the mailbox -/

/-- A vector has been sent, or is pending while it is masked (R375). -/
def signalled (t : State) (v : Nat) : Prop := nget false t.pcie.pba v = true ∨ Out.msix v ∈ t.outbox

/-- A request of an operation is outstanding, with the length that Table 11 of R377 gives it. -/
def asked (s : State) (op len : Nat) : Prop := mgtBusy s = true ∧ mgtOp s = op ∧ mgtLen s = len

/-- The management controller has answered: STATUS, RSPLEN and the response, DONE with GO and BUSY clear, and vector 0. -/
def answered (t : State) (status : Nat) (rsp : List Byte) : Prop :=
  t.reg 0x20000 = 0x20000000#32 ∧ t.reg 0x20004 = w32 (status * 65536 + rsp.length) ∧
  (∀ i, 4 * i < rsp.length → t.reg (0x20200 + 4 * i) = w32 (leAt rsp (4 * i) 4)) ∧ signalled t 0

/-- The request is still outstanding. -/
def unanswered (s t : State) : Prop := t.reg 0x20000 = s.reg 0x20000 ∧ t.reg 0x20004 = s.reg 0x20004

end Sys2Proof.Safety
end

