-- ==== Sys2Proof/Certificates/Slice0/Obligations.lean ====
section
/-! DEFINITION. The statements for the provers. Each says of the commands that it names that they answer a next state, what that
state holds and what it leaves as it was; the rules of the manual that it follows stand in its comment. -/

section Claims

open Sys2Proof Sys2Proof.Machine Sys2Proof.Safety

/-- Where the front end of a core handles NOP, END, JMP, BR, LOOP, CALL or RET, the command answers a next state in which
only that core differs: NOP moves to the next word, END stops the front end, JMP takes its target, BR takes its target
exactly when its condition holds over the signed or unsigned integers, LOOP decrements its register (g0 stays 0) and
jumps while it is not 0, CALL saves the next word in g31, and RET takes bits [12:0] of g31. No other register, tack,
memory or core changes. (Core Instruction Set: Encoding) -/
def Obligations.ControlInstructionsMoveThePc : Prop :=
  ∀ (s : State) (c : BitVec 4),
    (handles s c .nop → exec (.nop c) s = .next (s.setCore c.toNat (past (s.core c.toNat)))) ∧
    (handles s c .end_ → exec (.end_ c) s = .next (s.setCore c.toNat { s.core c.toNat with front := .stopped })) ∧
    (∀ t, handles s c (.jmp t) → exec (.jmp c) s = .next (s.setCore c.toNat { s.core c.toNat with pc := t.setWidth 14 })) ∧
    (∀ cond ga gb t, handles s c (.br cond ga gb t) →
      ((condHolds cond.toNat ((s.core c.toNat).gr ga) ((s.core c.toNat).gr gb) →
        exec (.br c) s = .next (s.setCore c.toNat { s.core c.toNat with pc := t.setWidth 14 })) ∧
      (¬ condHolds cond.toNat ((s.core c.toNat).gr ga) ((s.core c.toNat).gr gb) →
        exec (.br c) s = .next (s.setCore c.toNat (past (s.core c.toNat)))))) ∧
    (∀ g t, handles s c (.loop g t) →
      exec (.loop c) s = .next (s.setCore c.toNat
        { s.core c.toNat with
          g := gWrite (s.core c.toNat) g ((s.core c.toNat).gr g - 1),
          pc := if g ≠ 0 ∧ (s.core c.toNat).gr g ≠ 1 then t.setWidth 14 else (s.core c.toNat).pc + 1 })) ∧
    (∀ t, handles s c (.call t) →
      exec (.call c) s = .next (s.setCore c.toNat
        { s.core c.toNat with
          g := nset 0 (s.core c.toNat).g 31 (BitVec.ofNat 64 ((s.core c.toNat).pc + 1).toNat),
          pc := t.setWidth 14 })) ∧
    (handles s c .ret →
      exec (.ret c) s = .next (s.setCore c.toNat
        { s.core c.toNat with pc := BitVec.ofNat 14 (((s.core c.toNat).gr 31).toNat % 8192) }))

/-- Where the front end of a core handles ALU or ALUI, gd receives the result of the operation computed over the integers
and wrapped to 64 bits, with IMM sign-extended; LI writes its zero-extended immediate; CSRR writes the SAT flag, the
core number with its ridge, or the context with its class, and for CYCLE some value. g0 discards the write. The PC
moves to the next word and nothing else changes (CYCLE also takes one free value, the choice of log entry 3). (Core
Instruction Set: Encoding) -/
def Obligations.ScalarResultsAreExact : Prop :=
  ∀ (s : State) (c : BitVec 4),
    (∀ gd ga gb op, handles s c (.alu gd ga gb op) →
      exec (.alu c) s = .next (s.setCore c.toNat (past { s.core c.toNat with
        g := gWrite (s.core c.toNat) gd (aluResult op.toNat ((s.core c.toNat).gr ga) ((s.core c.toNat).gr gb)) }))) ∧
    (∀ gd ga op imm, handles s c (.alui gd ga op imm) →
      exec (.alui c) s = .next (s.setCore c.toNat (past { s.core c.toNat with
        g := gWrite (s.core c.toNat) gd (aluResult op.toNat ((s.core c.toNat).gr ga) (BitVec.ofInt 64 imm.toInt)) }))) ∧
    (∀ gd imm, handles s c (.li gd imm) →
      exec (.li c) s = .next (s.setCore c.toNat (past { s.core c.toNat with
        g := gWrite (s.core c.toNat) gd (BitVec.ofNat 64 imm.toNat) }))) ∧
    (∀ gd csr, handles s c (.csrr gd csr) →
      ∃ (v : DWord) (n : Nat),
        exec (.csrr c) s = .next (({ s with draws := n }).setCore c.toNat (past { s.core c.toNat with
          g := gWrite (s.core c.toNat) gd v })) ∧
        (csr = 0 → v = (if (s.core c.toNat).sat then 1 else 0) ∧ n = s.draws) ∧
        (csr = 2 → v = BitVec.ofNat 64 (c.toNat + 256 * s.ridge c.toNat) ∧ n = s.draws) ∧
        (∀ r, csr = 3 → (s.core c.toNat).cmd = some r →
          v = BitVec.ofNat 64 (r.ctx.toNat + (if (s.ctx r.ctx.toNat).cls then 256 else 0)) ∧ n = s.draws))

/-- Where the front end handles SLD or SST and the address is a multiple of 8 whose 8 bytes lie in banks bound to the
vector port (and, for SLD, hold no error and no poison), SLD writes the little-endian 8 bytes into gd and SST stores
gb: after SST the 8 bytes at the address hold gb and every other byte of every memory reads as before; the bytes are
noted as written by the part of the command (R19) and to the issued Wringer instructions (R290). The PC moves to the
next word and nothing else changes. Any other address raises ST_BOUNDS with the opcode and the PC of the instruction.
Where the front end handles SLDS at a multiple of 8 inside shared memory that the bitstream lets it read, gd becomes
pending, the load stands with its offset and PC and holds one tag, which is the choice of the model (log entry 24),
and the PC moves on. SLDS_RETURN of a register ends its oldest load: with clean bytes gd receives them and is no
longer pending. SSTS to a WORK partition stores gb: the 8 bytes hold it and every other byte of shared memory reads as
before, and the write is noted as that of SST is, to the Wringer instructions of every core. Nothing else changes.
(Core Instruction Set: Encoding, On-Chip Memory, Core Instruction Set: Dispatch and issue) -/
def Obligations.ScalarMemoryAccess : Prop :=
  (∀ (s : State) (c : BitVec 4),
    (∀ gd ga off, handles s c (.sld gd ga off) →
      (memAddr (s.core c.toNat) ga off % 8 = 0 → (s.core c.toNat).inPort 1 (memAddr (s.core c.toNat) ga off) 8 = true →
        cleanRange (s.core c.toNat).cmem (memAddr (s.core c.toNat) ga off) 8 →
        exec (.sld c) s = .next (s.setCore c.toNat (past { s.core c.toNat with
          g := gWrite (s.core c.toNat) gd
            (BitVec.ofNat 64 (leNat ((s.core c.toNat).cmem.bytes (memAddr (s.core c.toNat) ga off) 8))) }))) ∧
      (memAddr (s.core c.toNat) ga off % 8 ≠ 0 ∨ (s.core c.toNat).inPort 1 (memAddr (s.core c.toNat) ga off) 8 = false →
        exec (.sld c) s = .next (s.exception c.toNat stBounds 0x13 (s.core c.toNat).pc.toNat))) ∧
    (∀ ga gb off, handles s c (.sst ga gb off) →
      (memAddr (s.core c.toNat) ga off % 8 = 0 → (s.core c.toNat).inPort 1 (memAddr (s.core c.toNat) ga off) 8 = true →
        ∃ t, exec (.sst c) s = .next t ∧
          onlyCore s t c.toNat (past { ((s.core c.toNat).disturb [(memAddr (s.core c.toNat) ga off, 8)]).note
            [(memAddr (s.core c.toNat) ga off, 8)] with cmem := (t.core c.toNat).cmem }) ∧
          ∀ x, byteOf t (.cmem c) x =
            if memAddr (s.core c.toNat) ga off ≤ x ∧ x < memAddr (s.core c.toNat) ga off + 8 then
              BitVec.ofNat 8 (((s.core c.toNat).gr gb).toNat / 256 ^ (x - memAddr (s.core c.toNat) ga off))
            else byteOf s (.cmem c) x) ∧
      (memAddr (s.core c.toNat) ga off % 8 ≠ 0 ∨ (s.core c.toNat).inPort 1 (memAddr (s.core c.toNat) ga off) 8 = false →
        exec (.sst c) s = .next (s.exception c.toNat stBounds 0x14 (s.core c.toNat).pc.toNat)))) ∧
  (∀ (s : State) (c : BitVec 4),
    (∀ gd ga off o, handles s c (.slds gd ga off) → memAddr (s.core c.toNat) ga off = 0x1000000 + o → o % 8 = 0 →
      s.shmOk (s.core c.toNat).slot [kindWork, kindArgs] o 8 = true → gd ≠ 0 →
      ∃ t, exec (.slds c) s = .next t ∧ t = { s with cores := t.cores, ras := t.ras } ∧
        t.core c.toNat = past { s.core c.toNat with
          pendingG := (s.core c.toNat).pendingG ++ [gd],
          slds := (s.core c.toNat).slds ++ [(gd, o, BitVec.ofNat 13 (s.core c.toNat).pc.toNat)] } ∧
        (∀ m, m ≠ c.toNat → t.core m = s.core m) ∧
        t.ras = { s.ras with tags := s.ras.tags ++ [(s.freshTag, c)] }) ∧
    (∀ gd o p rest, (s.core c.toNat).slds = (gd, o, p) :: rest → gd ≠ 0 → cleanRange s.shm o 8 →
      ∃ t, exec (.sldsReturn c gd) s = .next t ∧ t = { s with cores := t.cores, ras := t.ras } ∧
        t.core c.toNat = { s.core c.toNat with
          slds := rest,
          pendingG := dropFirst (· = gd) (s.core c.toNat).pendingG,
          g := nset 0 (s.core c.toNat).g gd.toNat (BitVec.ofNat 64 (leNat (s.shm.bytes o 8))) } ∧
        (∀ m, m ≠ c.toNat → t.core m = s.core m) ∧ t.ras = { s.ras with tags := t.ras.tags }) ∧
    (∀ ga gb off o, handles s c (.ssts ga gb off) → memAddr (s.core c.toNat) ga off = 0x1000000 + o → o % 8 = 0 →
      s.shmOk (s.core c.toNat).slot [kindWork] o 8 = true →
      ∃ t, exec (.ssts c) s = .next t ∧ t = { s with cores := t.cores, shm := t.shm } ∧
        t.core c.toNat = past (((s.core c.toNat).disturb [(0x1000000 + o, 8)]).note [(0x1000000 + o, 8)]) ∧
        (∀ m, m ≠ c.toNat → t.core m = if m < 16 then (s.core m).disturb [(0x1000000 + o, 8)] else s.core m) ∧
        ∀ x, byteOf t .shm x =
          if o ≤ x ∧ x < o + 8 then BitVec.ofNat 8 (((s.core c.toNat).gr gb).toNat / 256 ^ (x - o)) else byteOf s .shm x))

/-- Where the front end handles TSET or TCLR, that tack reads set or clear afterwards and every other tack as before,
except that tk0 always reads set. TWAIT on a set tack that no earlier instruction ready to issue consumes (R142) moves
on, clearing the tack when C is 1; otherwise the front end waits, and TWAIT_WAKE ends the wait once the tack is set
and free to take. USIG into a pending buffer with room stands behind the unit's earlier instructions, and USIG_SIGNAL
sets its tack when no earlier instruction of the unit is left. Only that core changes. (Core Instruction Set: Tacks,
Core Instruction Set: Encoding) -/
def Obligations.TackInstructions : Prop :=
  ∀ (s : State) (c : BitVec 4),
    (∀ tk, handles s c (.tset tk) → ∃ t, exec (.tset c) s = .next t ∧
      onlyCore s t c.toNat (past { s.core c.toNat with tacks := (t.core c.toNat).tacks }) ∧
      ∀ j : BitVec 6, (t.core c.toNat).tack j = (decide (j = tk) || (s.core c.toNat).tack j)) ∧
    (∀ tk, handles s c (.tclr tk) → ∃ t, exec (.tclr c) s = .next t ∧
      onlyCore s t c.toNat (past { s.core c.toNat with tacks := (t.core c.toNat).tacks }) ∧
      ∀ j : BitVec 6, (t.core c.toNat).tack j = (decide (j = 0) || (!decide (j = tk) && (s.core c.toNat).tack j))) ∧
    (∀ b tk, handles s c (.twait b tk) →
      ((s.core c.toNat).tack tk = true → (s.core c.toNat).firstTo c.toNat (s.core c.toNat).nextSn (consumes (.twait b tk)) = true →
        ∃ t, exec (.twait c) s = .next t ∧
        onlyCore s t c.toNat (past { s.core c.toNat with tacks := (t.core c.toNat).tacks }) ∧
        ∀ j : BitVec 6, (t.core c.toNat).tack j = (decide (j = 0) || (!(b && decide (j = tk)) && (s.core c.toNat).tack j))) ∧
      ((s.core c.toNat).tack tk = false ∨
          (s.core c.toNat).firstTo c.toNat (s.core c.toNat).nextSn (consumes (.twait b tk)) = false →
        exec (.twait c) s = .next (s.setCore c.toNat { s.core c.toNat with front := .tack tk b }))) ∧
    (∀ b tk, (s.core c.toNat).front = .tack tk b → (s.core c.toNat).tack tk = true →
      (s.core c.toNat).firstTo c.toNat (s.core c.toNat).nextSn (consumes (.twait b tk)) = true →
      ∃ t, exec (.twaitWake c) s = .next t ∧
      onlyCore s t c.toNat (past { s.core c.toNat with tacks := (t.core c.toNat).tacks, front := .running }) ∧
      ∀ j : BitVec 6, (t.core c.toNat).tack j = (decide (j = 0) || (!(b && decide (j = tk)) && (s.core c.toNat).tack j))) ∧
    (∀ u tk, handles s c (.usig u tk) → 0 < ((s.core c.toNat).unit u).pend.length → ((s.core c.toNat).unit u).pend.length < 4 →
      (∀ d ∈ ((s.core c.toNat).unit u).pend, opcodeOf d.ins ≠ 0x24) →
      ∃ d : Disp, d.ins = .usig u tk ∧ d.sn = (s.core c.toNat).nextSn ∧
        exec (.usig c) s = .next (s.setCore c.toNat ((past { s.core c.toNat with nextSn := (s.core c.toNat).nextSn + 1 }).setUnit u
          { (s.core c.toNat).unit u with pend := ((s.core c.toNat).unit u).pend ++ [d] }))) ∧
    (∀ u sn tk rest, ((s.core c.toNat).unit u).usigs = (sn, tk) :: rest → ((s.core c.toNat).unit u).quietBefore sn = true →
      ∃ t, exec (.usigSignal c u) s = .next t ∧
        onlyCore s t c.toNat { (s.core c.toNat).setUnit u { (s.core c.toNat).unit u with usigs := rest } with
          tacks := (t.core c.toNat).tacks } ∧
        ∀ j : BitVec 6, (t.core c.toNat).tack j = (decide (j = tk) || (s.core c.toNat).tack j))

/-- Where the front end of a core is at or beyond the program length, NOP and every other row of the front end takes the
exception with ST_BITSTREAM, opcode 0 and the PC fetched; where the word is refused, by its fields or because VB names
a register for a micro-program of one input, the exception carries its opcode. That every row of the front end finds
the two conditions, whichever word stands there, is the model's choice (log entry 5). (Core Instruction Set: Encoding,
Core Instruction Set: Exceptions and the end of a command) -/
def Obligations.RefusedWordsRaiseStBitstream : Prop :=
  ∀ (s : State) (c : BitVec 4) (i : Instr),
    i ∈ [.nop c, .end_ c, .jmp c, .br c, .loop c, .call c, .ret c, .alu c, .alui c, .li c, .sld c, .sst c, .slds c, .ssts c, .csrr c,
      .tset c, .tclr c, .twait c, .col c, .usig c, .dma c, .mma c, .mgl c, .vop c, .vld c, .vst c, .gate c, .vsf c, .norm c,
      .red c, .topk c, .wcmp c, .wexp c] →
    s.frontReady c.toNat = true →
    ((s.core c.toNat).imemLen ≤ (s.core c.toNat).pc.toNat →
      exec i s = .next (s.exception c.toNat stBitstream 0 (s.core c.toNat).pc.toNat)) ∧
    ((s.core c.toNat).pc.toNat < (s.core c.toNat).imemLen →
      (∀ j, decodeWord (s.core c.toNat).word = some j → vbOk (s.core c.toNat).micro j = false) →
      exec i s = .next (s.exception c.toNat stBitstream ((s.core c.toNat).word.toNat / 2 ^ 56) (s.core c.toNat).pc.toNat))

/-- Where the front end handles COL on a barrier channel of its bitstream in which the core takes part, with TW set and no
earlier instruction ready to consume it, the channel not cancelled and the core not arrived, the core's bit of the
arrivals is set, TW is consumed when CW is 1 and the core waits. COL_RELEASE of a barrier of ridge or device scope
whose participants have all arrived releases each waiting participant: gstat reads 0 for ST_OK, TS is set, and the
front end goes on with the next word; the channel is idle again. Only cores and channels change. (Core Instruction
Set: Encoding, The Device and One Token Step: Global operations) -/
def Obligations.ColArrivesAndReleases : Prop :=
  ∀ (s : State) (c : BitVec 4),
    (∀ gaddr gstat ch tw cw ts, handles s c (.col gaddr gstat ch tw cw ts) →
      s.colAllowed c.toNat (s.core c.toNat) (s.chanOf c.toNat ch) = true → (s.core c.toNat).tack tw = true →
      (s.chan (s.chanOf c.toNat ch)).kind = 0 → (s.chan (s.chanOf c.toNat ch)).cancelled = false →
      (s.chan (s.chanOf c.toNat ch)).arrived.getLsbD c.toNat = false →
      (s.core c.toNat).firstTo c.toNat (s.core c.toNat).nextSn (consumes (.col gaddr gstat ch tw cw ts)) = true →
      ∃ t, exec (.col c) s = .next t ∧ t = { s with cores := t.cores, chans := t.chans } ∧
        (∀ m, m ≠ c.toNat → t.core m = s.core m) ∧
        t.core c.toNat = { s.core c.toNat with
          tacks := (t.core c.toNat).tacks,
          front := .col (BitVec.ofNat 3 (s.chanOf c.toNat ch / 16)) (BitVec.ofNat 4 (s.chanOf c.toNat ch))
            ((s.core c.toNat).gr gaddr) gstat ts } ∧
        (∀ j, (t.core c.toNat).tack j = (decide (j = 0) || (!(cw && decide (j = tw)) && (s.core c.toNat).tack j))) ∧
        (∀ key, key ≠ s.chanOf c.toNat ch → t.chan key = s.chan key) ∧
        t.chan (s.chanOf c.toNat ch) = { s.chan (s.chanOf c.toNat ch) with
          arrived := (t.chan (s.chanOf c.toNat ch)).arrived } ∧
        ∀ m : Nat, m < 16 → (t.chan (s.chanOf c.toNat ch)).arrived.getLsbD m =
          (decide (m = c.toNat) || (s.chan (s.chanOf c.toNat ch)).arrived.getLsbD m)) ∧
    (∀ (node : BitVec 3) (ch : BitVec 4) b, (s.chan (16 * node.toNat + ch.toNat)).slot = some b →
      (s.chan (16 * node.toNat + ch.toNat)).cancelled = false → (s.chan (16 * node.toNat + ch.toNat)).kind = 0 →
      (s.chan (16 * node.toNat + ch.toNat)).scope ≠ 2 →
      (s.chan (16 * node.toNat + ch.toNat)).arrived = (s.chan (16 * node.toNat + ch.toNat)).mask →
      ∃ t, exec (.colRelease node ch) s = .next t ∧ t = { s with cores := t.cores, chans := t.chans } ∧
        (t.chan (16 * node.toNat + ch.toNat)).arrived = 0 ∧
        (∀ key, key ≠ 16 * node.toNat + ch.toNat → t.chan key = s.chan key) ∧
        (∀ m gaddr gstat ts, m < 16 → (s.chan (16 * node.toNat + ch.toNat)).mask.getLsbD m = true →
          (s.core m).front = .col node ch gaddr gstat ts →
          (t.core m).front = .running ∧ (t.core m).pc = (s.core m).pc + 1 ∧ (t.core m).gr gstat = 0 ∧
          (t.core m).tack ts = true) ∧
        ∀ m, (s.chan (16 * node.toNat + ch.toNat)).mask.getLsbD m = false → t.core m = s.core m)

/-- WAIT_TIMEOUT of a core whose front end waits at TWAIT, of a running core of one command that has raised nothing and
whose CORE_EXC is not VALID, stops the front end and empties the pending buffers; CORE_EXC reads VALID with opcode
0x22 and ST_TIMEOUT, CORE_EXC_PC the PC of the TWAIT, the CORE_EXC event is in the recorder, and every other core of
the command is stopped. CORE_PART_END of a stopped core that has drained ends its part: RUN is clear and its code
joins the command's codes. Nothing outside cores, channels with the flits that withdraw from them, registers and the
recorder changes for the first, nothing outside the core and the command for the second. (Core Instruction Set:
Exceptions and the end of a command) -/
def Obligations.WaitLimitAndEndOfPart : Prop :=
  ∀ (s : State) (c : BitVec 4) (r : CmdRef),
    (∀ tk b, s.unitsRun c.toNat = true → (s.core c.toNat).run = true → (s.core c.toNat).peer = false →
      (s.core c.toNat).code = none → (s.core c.toNat).cmd = some r → (s.core c.toNat).front = .tack tk b →
      bitOf (s.reg (coreOff c.toNat 0xB08)) 31 = false →
      ∃ t, exec (.waitTimeout c .front) s = .next t ∧ t = { s with regs := t.regs, cores := t.cores, chans := t.chans, ports := t.ports, evt := t.evt, ras := t.ras, pcie := t.pcie, outbox := t.outbox } ∧
        t.core c.toNat = { (s.core c.toNat).stopFront with code := some 8 } ∧
        t.reg (coreOff c.toNat 0xB08) = 0x80220008 ∧
        (t.reg (coreOff c.toNat 0xB0C)).toNat = (s.core c.toNat).pc.toNat % 8192 ∧
        logged t 0x0102 c.toNat 8 (regCopy 0x80220008 (coreOff c.toNat 0xB08) ++ toLE 2 ((s.core c.toNat).pc.toNat % 8192)) ∧
        ∀ m, m < 16 → m ≠ c.toNat → (s.core m).run = true → (s.core m).cmd = some r → (s.core m).code = none →
          (s.core m).peer = false → (t.core m).front = .stopped ∧ (t.core m).peer = true) ∧
    ((s.core c.toNat).run = true → (s.core c.toNat).front = .stopped → (s.core c.toNat).drained = true →
      s.unitsRun c.toNat = true → (s.core c.toNat).cmd = some r →
      ∃ t, exec (.corePartEnd c) s = .next t ∧ t = { s with cores := t.cores, cmds := t.cmds } ∧
        t.core c.toNat = { s.core c.toNat with run := false, code := none } ∧ (∀ m, m ≠ c.toNat → t.core m = s.core m) ∧
        (∀ v, (s.core c.toNat).code = some v →
          t.cmd? r = (s.cmd? r).map (fun k => { k with codes := k.codes ++ [(c, v)] }) ∧ cmdsElse s t r) ∧
        ((s.core c.toNat).code = none → t.cmds = s.cmds))

/-- ISLAND_GATE of an empty island gates it and ISLAND_WAKE of an island that is no fenced core wakes it, with every other
island as before. PATROL_SCRUB of the granule at the patrol's place in a core's memory, found with an uncorrectable
error, poisons the granule, leaves its check bits valid and records it in CORE_MEM_UE unless that is VALID; every byte
reads as before and the place moves on to the next granule, which is the order of the model (log entry 41: the manual
gives none). CE_WINDOW sets the corrected-error counts of every enabled core and of shared memory to 0. (The Device
and One Token Step: Clock islands, On-Chip Memory: ECC, poison and patrol, Faults, Fencing and the Event Recorder) -/
def Obligations.IslandsPatrolAndErrorWindow : Prop :=
  ∀ (s : State),
    (∀ i, s.islandEmpty i = true → ∃ t, exec (.islandGate i) s = .next t ∧ t = { s with regs := t.regs, draws := t.draws, cores := t.cores, pwr := t.pwr } ∧
      gatedNow t i = true ∧ ∀ j, j ≠ i → gatedNow t j = gatedNow s j) ∧
    (∀ i, (∀ n, i = .core n → (s.core n.toNat).fence = .inService) →
      ∃ t, exec (.islandWake i) s = .next t ∧ t = { s with cores := t.cores, pwr := t.pwr } ∧
        gatedNow t i = false ∧ ∀ j, j ≠ i → gatedNow t j = gatedNow s j) ∧
    (∀ (c : BitVec 4) (g : Nat), s.memGated (.cmem c) = false → 8 * g < 0x400000 → (s.core c.toNat).patrol = g →
      bitOf (s.reg (coreOff c.toNat 0xC0C)) 31 = false →
      ∃ t, exec (.patrolScrub (.cmem c) g .ue) s = .next t ∧ t = { s with regs := t.regs, cores := t.cores, chans := t.chans, shm := t.shm, shmPatrol := t.shmPatrol, ports := t.ports, evt := t.evt, ras := t.ras, pcie := t.pcie, outbox := t.outbox } ∧
        nget false (t.core c.toNat).cmem.poison g = true ∧ nget Ecc.clean (t.core c.toNat).cmem.ecc g = .clean ∧
        t.reg (coreOff c.toNat 0xC0C) = 0x90000000 ||| BitVec.ofNat 32 g ∧
        (t.core c.toNat).patrol = g + 1 ∧ (∀ m x, byteOf t m x = byteOf s m x) ∧ logged t 0x0201 c.toNat stUncorrectable
          (regCopy (0x90000000 ||| BitVec.ofNat 32 g) (coreOff c.toNat 0xC0C))) ∧
    (∃ t, exec .ceWindow s = .next t ∧ t = { s with cores := t.cores, ras := t.ras } ∧
      (∀ n, n < s.coreCount → t.core n = { s.core n with ceWindow := 0, ceActed := false }) ∧
      t.ras = { s.ras with shmCe := 0, shmActed := false })

/-- CORE_FAULT of an in-service core by a check that can come about, while no switch is under way, puts it under test: its
front end has stopped, CORE_FAULT is recorded (stated where no core waits at a Col channel, whose cancellation writes
records of its own) and the log is flushed, the tags it held are orphaned and its channels are cancelled.
FENCE_DEADLINE, without an off request that waits for it, then discards every started RUN on it (with no two commands
in hand under one identity, R361), records CORE_FENCED and resets the core: its registers and memories are 0 and it
runs nothing. CORE_SELF_TEST_END with a pass and fewer than three faults within 24 h returns the core to service with
its record and vector 1; otherwise the core is RETIRED, with its record and vector 1. ORPHAN_RESPONSE and
ORPHAN_TAG_TIMEOUT return a tag, the second with TAG_LOST counted and recorded. (Faults, Fencing and the Event
Recorder: Fencing a core) -/
def Obligations.CoreFaultIsFencedAndTested : Prop :=
  ∀ (s : State) (c : BitVec 4),
    (∀ check, c.toNat < s.coreCount → checkOk check = true → (s.core c.toNat).checkFits check = true → (s.core c.toNat).fence = .inService →
      (s.core c.toNat).faultStep = 0 →
      (∀ i, (s.bsSlot i).switched = none) →
      ∃ t, exec (.coreFault c check) s = .next t ∧ t = { s with regs := t.regs, cores := t.cores, chans := t.chans, cmds := t.cmds, seqs := t.seqs, pages := t.pages, used := t.used, models := t.models, hostGran := t.hostGran, store := t.store, passes := t.passes, passNo := t.passNo, rings := t.rings, bs := t.bs, ports := t.ports, evt := t.evt, ras := t.ras, pcie := t.pcie, outbox := t.outbox } ∧
        (t.core c.toNat).fence = .testing ∧ (t.core c.toNat).faultStep = 2 ∧ (t.core c.toNat).front = .stopped ∧
        ((∀ m, m < 16 → ∀ a b d e f, (s.core m).front ≠ .col a b d e f) → ∃ data, logged t 0x0101 c.toNat 0 data) ∧ flushed t ∧
        (∀ key, (s.chan key).slot.isSome = true → (s.chan key).mask.getLsbD c.toNat = true → (t.chan key).cancelled = true) ∧
        (∀ tag, (tag, c) ∈ s.ras.tags → tag ∈ t.ras.orphans ∧ (tag, c) ∉ t.ras.tags)) ∧
    ((s.core c.toNat).faultStep = 2 → (s.core c.toNat).fence = .testing → s.aon.offLatched = false →
      ∃ t, exec (.fenceDeadline c) s = .next t ∧ t = { s with regs := t.regs, latch := t.latch, draws := t.draws, cores := t.cores, chans := t.chans, shm := t.shm, cmds := t.cmds, ctxs := t.ctxs, seqs := t.seqs, pages := t.pages, used := t.used, models := t.models, hostGran := t.hostGran, store := t.store, passes := t.passes, passNo := t.passNo, rings := t.rings, bs := t.bs, dram := t.dram, sec := t.sec, aon := t.aon, pwr := t.pwr, ports := t.ports, evt := t.evt, ras := t.ras, tst := t.tst, pcie := t.pcie, wrg := t.wrg, outbox := t.outbox } ∧
        (t.core c.toNat).run = false ∧ (t.core c.toNat).g = [] ∧ (t.core c.toNat).cmem = .zero ∧ (t.core c.toNat).tacks = 1 ∧
        (t.core c.toNat).fence = .testing ∧ (t.core c.toNat).faultStep = 3 ∧
        (∃ data, logged t 0x0103 c.toNat 0 data) ∧ flushed t ∧
        ((s.cmds.map (fun k => k.ref)).Nodup → ∀ k ∈ s.cmds, k.isRun = true → k.stage = .started → k.cores.getLsbD c.toNat = true → t.cmd? k.ref = none)) ∧
    ((s.core c.toNat).fence = .testing → (s.core c.toNat).faultStep = 3 →
      (recentFaults s (s.core c.toNat)).length < 3 →
      ∃ t, exec (.coreSelfTestEnd c true) s = .next t ∧ t = { s with regs := t.regs, cores := t.cores, chans := t.chans, evt := t.evt, ras := t.ras, pcie := t.pcie, outbox := t.outbox } ∧
        t.core c.toNat = { s.core c.toNat with fence := .inService, faultStep := 0, retest := false } ∧
        (∀ m, m ≠ c.toNat → t.core m = s.core m) ∧ (∃ data, logged t 0x0104 c.toNat 0 data) ∧ signalled t 1) ∧
    (∀ passed, (s.core c.toNat).fence = .testing → (s.core c.toNat).faultStep = 3 →
      (passed = false ∨ 3 ≤ (recentFaults s (s.core c.toNat)).length) →
      ∃ t, exec (.coreSelfTestEnd c passed) s = .next t ∧ t = { s with regs := t.regs, cores := t.cores, chans := t.chans, evt := t.evt, ras := t.ras, pcie := t.pcie, outbox := t.outbox } ∧
        t.core c.toNat = { s.core c.toNat with fence := .retired, faultStep := 0, retest := false } ∧
        (∀ m, m ≠ c.toNat → t.core m = s.core m) ∧ (∃ data, logged t 0x0105 c.toNat 0 data) ∧ signalled t 1) ∧
    (∀ tag, ∃ t, exec (.orphanResponse tag) s = .next t ∧ t = { s with ras := t.ras } ∧
      t.ras = { s.ras with orphans := t.ras.orphans } ∧ ∀ x, x ∈ t.ras.orphans ↔ x ∈ s.ras.orphans ∧ x ≠ tag) ∧
    (∀ tag, tag ∈ s.ras.orphans → ∃ t, exec (.orphanTagTimeout tag) s = .next t ∧ t = { s with regs := t.regs, evt := t.evt, ras := t.ras, pcie := t.pcie, outbox := t.outbox } ∧
      (∀ x, x ∈ t.ras.orphans ↔ x ∈ s.ras.orphans ∧ x ≠ tag) ∧ t.reg 0xD0010 = (s.bump 0xD0010 24 8 1).reg 0xD0010 ∧
      logged t 0x0106 srcRas 0 (toLE 2 tag.toNat))

/-- DEVICE_FAULT of a unit outside the cores stops the front end of every running core, records class 5 with the unit and
check, sets the uncorrectable internal error of AER and flushes the log; device work waits afterwards. MC_WATCHDOG
sets its bit of RAS_STATUS, records MC_WATCHDOG, and answers an outstanding mailbox request with ST_TIMEOUT and DONE;
the third restart within an hour takes the previous image. (Faults, Fencing and the Event Recorder: Faults outside the
cores) -/
def Obligations.DeviceFaultAndWatchdog : Prop :=
  ∀ (s : State),
    (∀ (unit check : BitVec 8), 0x10 ≤ unit.toNat → unit.toNat ≤ 0x1D →
      ∃ t, exec (.deviceFault unit check) s = .next t ∧ t = { s with regs := t.regs, cores := t.cores, evt := t.evt, ras := t.ras, pcie := t.pcie, outbox := t.outbox } ∧
        t.ras.deviceFault = true ∧ t.pcie.aer = true ∧ flushed t ∧
        logged t 0x0A01 srcRas 0 (toLE 1 unit.toNat ++ toLE 1 check.toNat) ∧
        ∀ m, m < 16 → (s.core m).run = true → t.core m = (s.core m).stopFront) ∧
    (∃ t, exec .mcWatchdog s = .next t ∧ t = { s with regs := t.regs, cores := t.cores, evt := t.evt, ras := t.ras, pcie := t.pcie, outbox := t.outbox } ∧
      bitOf (t.reg 0xD0000) 26 = true ∧ (∃ data, logged t 0x0804 srcMgt 0 data) ∧
      (mgtBusy s = true → getBits (t.reg 0x20004) 16 16 = stTimeout ∧ t.reg 0x20000 = 0x20000000) ∧
      (∀ p, 3 ≤ t.ras.mcRestarts.length → s.ras.mcPrev = some p → t.ras.mcRun = p ∧ t.ras.mcPrev = some s.ras.mcRun) ∧
      (t.ras.mcRestarts.length < 3 → t.ras.mcRun = s.ras.mcRun))

/-- Where the front end handles DMA, MMA, MGL, WCMP or WEXP, whose words the encoding permits, and the unit's pending
buffer has room for one of its 4 entries, the instruction enters it with the values of its g registers and the PC
moves on; while the buffer is full the front end waits and nothing changes. Reserved bits in an MMA word, a PAIR that
Table 10 refuses, and a glen that R288 forbids, raise ST_BITSTREAM. Nothing but the core changes. (Core Instruction
Set: Dispatch and issue, Core Instruction Set: Encoding, Wringer Compression) -/
def Obligations.UnitWordsAreDispatched : Prop :=
  ∀ (s : State) (c : BitVec 4),
    (∀ g tw cw ts, handles s c (.dma g tw cw ts) →
      ((s.core c.toNat).dma.pend.length < 4 → exec (.dma c) s = .next (s.setCore c.toNat
        (entered (s.core c.toNat) .dma (.dma g tw cw ts) ((s.core c.toNat).gr g) 0 0 0))) ∧
      (4 ≤ (s.core c.toNat).dma.pend.length → exec (.dma c) s = .next s)) ∧
    (∀ q slot opn close drain ga gb gd gs ta tb td ts ca cb,
      handles s c (.mma q slot opn close drain ga gb gd gs ta tb td ts ca cb) →
      (((s.core c.toNat).gr ga).toNat < 2 ^ 45 → ((s.core c.toNat).gr gb).toNat < 2 ^ 45 →
        ((s.core c.toNat).gr gs).toNat < 2 ^ 32 → (shapeOf ((s.core c.toNat).gr gs)).pair ≤ 7 →
        (shapeOf ((s.core c.toNat).gr gs)).dfmt ≤ 8 → (drain = true → ((s.core c.toNat).gr gd).toNat < 2 ^ 44) →
        ((s.core c.toNat).mat.pend.length < 4 → exec (.mma c) s = .next (s.setCore c.toNat
          (entered (s.core c.toNat) .matrix (.mma q slot opn close drain ga gb gd gs ta tb td ts ca cb) ((s.core c.toNat).gr ga)
            ((s.core c.toNat).gr gb) ((s.core c.toNat).gr gd) ((s.core c.toNat).gr gs)))) ∧
        (4 ≤ (s.core c.toNat).mat.pend.length → exec (.mma c) s = .next s)) ∧
      (2 ^ 45 ≤ ((s.core c.toNat).gr ga).toNat ∨ 8 ≤ (shapeOf ((s.core c.toNat).gr gs)).pair →
        exec (.mma c) s = .next (s.exception c.toNat stBitstream 0x40 (s.core c.toNat).pc.toNat))) ∧
    (∀ op g tq cq tk ck td tg ts, handles s c (.mgl op g tq cq tk ck td tg ts) →
      ((s.core c.toNat).mgl.pend.length < 4 → exec (.mgl c) s = .next (s.setCore c.toNat
        (entered (s.core c.toNat) .mangle (.mgl op g tq cq tk ck td tg ts) ((s.core c.toNat).gr g) 0 0 0))) ∧
      (4 ≤ (s.core c.toNat).mgl.pend.length → exec (.mgl c) s = .next s)) ∧
    (∀ gx gr ga gn tw cw ts, handles s c (.wcmp gx gr ga gn tw cw ts) →
      (glenOk ((s.core c.toNat).gr gn) ((s.core c.toNat).gr gr) = true →
        ((s.core c.toNat).wrg.pend.length < 4 → exec (.wcmp c) s = .next (s.setCore c.toNat
          (entered (s.core c.toNat) .wringer (.wcmp gx gr ga gn tw cw ts) ((s.core c.toNat).gr gx) ((s.core c.toNat).gr gr)
            ((s.core c.toNat).gr ga) ((s.core c.toNat).gr gn)))) ∧
        (4 ≤ (s.core c.toNat).wrg.pend.length → exec (.wcmp c) s = .next s)) ∧
      (glenOk ((s.core c.toNat).gr gn) ((s.core c.toNat).gr gr) = false →
        exec (.wcmp c) s = .next (s.exception c.toNat stBitstream 0x80 (s.core c.toNat).pc.toNat))) ∧
    (∀ ga gr gx gn sp tw cw ts, handles s c (.wexp ga gr gx gn sp tw cw ts) →
      (glenOk ((s.core c.toNat).gr gn) ((s.core c.toNat).gr gr) = true →
        ((s.core c.toNat).wrg.pend.length < 4 → exec (.wexp c) s = .next (s.setCore c.toNat
          (entered (s.core c.toNat) .wringer (.wexp ga gr gx gn sp tw cw ts) ((s.core c.toNat).gr ga) ((s.core c.toNat).gr gr)
            ((s.core c.toNat).gr gx) ((s.core c.toNat).gr gn)))) ∧
        (4 ≤ (s.core c.toNat).wrg.pend.length → exec (.wexp c) s = .next s)) ∧
      (glenOk ((s.core c.toNat).gr gn) ((s.core c.toNat).gr gr) = false →
        exec (.wexp c) s = .next (s.exception c.toNat stBitstream 0x81 (s.core c.toNat).pc.toNat)))

/-- Where the front end handles VOP, GATE or VSF with no vector instruction pending, no load still to fill its operands
and no NORM in the units that it uses, it issues at once: a lane operation writes each of the 64 lanes of VD (integer
results over the integers, INT32 clamped for VSADD and VSSUB with the SAT flag set by a clamp), VBCAST the low 32 bits
of its g register, VLROT the rotated lanes, VEXT one lane into its g register; GATE writes 64 lanes and VSF the first
L lanes, the others keeping their contents. Every other lane, register, tack, memory and core is unchanged; GATE and
VSF add to the SFU cycle counter and move the grant pointers of the special-function units. (Vector Lanes and Special
Functions, Core Instruction Set: Encoding) -/
def Obligations.VectorRegisterInstructions : Prop :=
  ∀ (s : State) (c : BitVec 4),
    (∀ op vd va vb vc gx sh f t, handles s c (.vop op vd va vb vc gx sh f t) →
      vecFree (s.core c.toNat) c.toNat (.vop op vd va vb vc gx sh f t) →
      ∃ u, exec (.vop c) s = .next u ∧
        onlyCore s u c.toNat { vecIssued (s.core c.toNat) 0 false with
          v := (u.core c.toNat).v, g := (u.core c.toNat).g, sat := (u.core c.toNat).sat } ∧
        (op ≠ 0x18#6 → op ≠ 0x19#6 → op ≠ 0x1A#6 →
          (∀ i, i < 64 → (u.core c.toNat).lane vd i =
            laneResult op f t ((s.core c.toNat).lane va i) ((s.core c.toNat).lane vb i) ((s.core c.toNat).lane vc i)) ∧
          (u.core c.toNat).g = (s.core c.toNat).g ∧
          ((u.core c.toNat).sat = true ↔ (s.core c.toNat).sat = true ∨
            (∃ i, i < 64 ∧
            ((op = 0x0D#6 ∧ ¬ inInt32 (((s.core c.toNat).lane va i).toInt + ((s.core c.toNat).lane vb i).toInt)) ∨
              (op = 0x0E#6 ∧ ¬ inInt32 (((s.core c.toNat).lane va i).toInt - ((s.core c.toNat).lane vb i).toInt)))))) ∧
        (op = 0x18#6 → (∀ i, i < 64 → (u.core c.toNat).lane vd i = ((s.core c.toNat).gr gx).setWidth 32) ∧
          (u.core c.toNat).g = (s.core c.toNat).g ∧ (u.core c.toNat).sat = (s.core c.toNat).sat) ∧
        (op = 0x19#6 → (u.core c.toNat).g = gWrite (s.core c.toNat) gx (((s.core c.toNat).lane va sh.toNat).setWidth 64) ∧
          (u.core c.toNat).v = (s.core c.toNat).v ∧ (u.core c.toNat).sat = (s.core c.toNat).sat) ∧
        (op = 0x1A#6 → (∀ i, i < 64 → (u.core c.toNat).lane vd i = (s.core c.toNat).lane va ((i + 64 - sh.toNat) % 64)) ∧
          (u.core c.toNat).g = (s.core c.toNat).g ∧ (u.core c.toNat).sat = (s.core c.toNat).sat) ∧
        ∀ r i, i < 64 → r ≠ vd → (u.core c.toNat).lane r i = (s.core c.toNat).lane r i) ∧
    (∀ vd vg vu vp act, handles s c (.gate vd vg vu vp act) → vecFree (s.core c.toNat) c.toNat (.gate vd vg vu vp act) →
      (act.toNat < 0x40 ∨ ∃ p, (s.core c.toNat).microOf act.toNat = some p ∧ p.two = false) →
      ∃ u, exec (.gate c) s = .next u ∧ u = { s with cores := u.cores, regs := u.regs } ∧
        u.core c.toNat = { vecIssued (s.core c.toNat) 0 false with v := (u.core c.toNat).v, grants := (u.core c.toNat).grants } ∧
        (∀ m, m ≠ c.toNat → u.core m = s.core m) ∧
        (∀ off, off ≠ coreOff c.toNat 0xA08 → u.reg off = s.reg off) ∧
        (∀ i, i < 64 → (u.core c.toNat).lane vd i = gateLane (s.core c.toNat) act.toNat ((s.core c.toNat).lane vg i)
          ((s.core c.toNat).lane vu i) ((s.core c.toNat).lane vp i) ((s.core c.toNat).lane (vp + 1) i)
          ((s.core c.toNat).lane (vp + 2) i) ((s.core c.toNat).lane (vp + 3) i)) ∧
        ∀ r i, i < 64 → r ≠ vd → (u.core c.toNat).lane r i = (s.core c.toNat).lane r i) ∧
    (∀ vd va vb func lm1, handles s c (.vsf vd va vb func lm1) → vecFree (s.core c.toNat) c.toNat (.vsf vd va vb func lm1) →
      (func.toNat < 0x40 ∨ ((s.core c.toNat).microOf func.toNat).isSome = true) →
      ∃ u, exec (.vsf c) s = .next u ∧ u = { s with cores := u.cores, regs := u.regs } ∧
        u.core c.toNat = { vecIssued (s.core c.toNat) 0 false with v := (u.core c.toNat).v, grants := (u.core c.toNat).grants } ∧
        (∀ m, m ≠ c.toNat → u.core m = s.core m) ∧
        (∀ off, off ≠ coreOff c.toNat 0xA08 → u.reg off = s.reg off) ∧
        ∀ r i, i < 64 → (u.core c.toNat).lane r i =
          if r = vd ∧ i ≤ lm1.toNat then vsfLane (s.core c.toNat) func.toNat ((s.core c.toNat).lane va i) ((s.core c.toNat).lane vb i)
          else (s.core c.toNat).lane r i)

/-- Where the front end handles VLD or VST with the unit free (R120, R142), its wait tack set, an element address that is
a multiple of 64, ranges inside vector-port banks or the named buffer and no protected byte, it issues at once. VLD:
with clean bytes, the first L lanes of its register hold the widened elements and every other lane is kept. VST, whose
merges read no granule with an error: the element and scale bytes stand at their addresses, noted as written (R19,
R290), and every other byte of every memory reads as before. RELEASE_POINT of such an instruction sets its TS. Nothing
but the core changes. An unaligned element address raises ST_BOUNDS (only the exception changes anything beyond the
dispatch). (Vector Lanes and Special Functions: Loads and stores, Core Instruction Set: Encoding) -/
def Obligations.VectorMemoryInstructions : Prop :=
  ∀ (s : State) (c : BitVec 4),
    (∀ vr ga gsc fmt sp lm1 tw cw ts, handles s c (.vld vr ga gsc fmt sp lm1 tw cw ts) → vecFree (s.core c.toNat) c.toNat (.vld vr ga gsc fmt sp lm1 tw cw ts) →
      let i := CoreInstr.vld vr ga gsc fmt sp lm1 tw cw ts
      let k := s.core c.toNat
      let r := vmemRanges sp fmt lm1 (k.gr ga) (k.gr gsc)
      r.2.1 % 64 = 0 → k.spaceOk c.toNat sp r.2.1 r.2.2.1 = true → cleanRange (s.ram (spaceMem c.toNat sp)) r.2.1 r.2.2.1 →
      (fmtScaled fmt = true → k.spaceOk c.toNat sp r.2.2.2.1 r.2.2.2.2 = true ∧
        cleanRange (s.ram (spaceMem c.toNat sp)) r.2.2.2.1 r.2.2.2.2) →
      k.readHeld (spaceMem c.toNat sp) r.2.1 r.2.2.1 = false → k.readHeld (spaceMem c.toNat sp) r.2.2.2.1 r.2.2.2.2 = false →
      ∃ t, exec (.vld c) s = .next t ∧
        onlyCore s t c.toNat { vecIssued k tw cw with
          v := (t.core c.toNat).v,
          vec := { k.vec with wait := false, flights := k.vec.flights ++ [issuedAs k i (k.gr ga) (k.gr gsc) 0 0] } } ∧
        (∀ j, j < 64 → (t.core c.toNat).lane vr j =
          if j ≤ lm1.toNat then
            (loadLanes fmt (lm1.toNat + 1) ((s.ram (spaceMem c.toNat sp)).bytes r.2.1 r.2.2.1)
              ((s.ram (spaceMem c.toNat sp)).bytes r.2.2.2.1 r.2.2.2.2)).getD j 0
          else k.lane vr j) ∧
        ∀ q j, j < 64 → q ≠ vr → (t.core c.toNat).lane q j = k.lane q j) ∧
    (∀ vr ga gsc fmt sp lm1 tw cw ts, handles s c (.vst vr ga gsc fmt sp lm1 tw cw ts) → vecFree (s.core c.toNat) c.toNat (.vst vr ga gsc fmt sp lm1 tw cw ts) →
      let i := CoreInstr.vst vr ga gsc fmt sp lm1 tw cw ts
      let k := s.core c.toNat
      let r := vmemRanges sp fmt lm1 (k.gr ga) (k.gr gsc)
      let b := storeBytes fmt ((List.range (lm1.toNat + 1)).map (k.lane vr))
      r.2.1 % 64 = 0 → k.spaceOk c.toNat sp r.2.1 r.2.2.1 = true →
      (fmtScaled fmt = true → k.spaceOk c.toNat sp r.2.2.2.1 r.2.2.2.2 = true) →
      k.writeHeld (spaceMem c.toNat sp) r.2.1 r.2.2.1 = false → k.writeHeld (spaceMem c.toNat sp) r.2.2.2.1 r.2.2.2.2 = false →
      mergeClean (s.ram (spaceMem c.toNat sp)) r.2.1 r.2.2.1 → mergeClean (s.ram (spaceMem c.toNat sp)) r.2.2.2.1 r.2.2.2.2 →
      ∃ t, exec (.vst c) s = .next t ∧
        onlyCore s t c.toNat { vecIssued k tw cw with
          vec := { k.vec with wait := false, flights := k.vec.flights ++ [issuedAs k i (k.gr ga) (k.gr gsc) 0 0] },
          cmem := (t.core c.toNat).cmem, bufA := (t.core c.toNat).bufA, bufB := (t.core c.toNat).bufB,
          bufD := (t.core c.toNat).bufD,
          wrote := (k.note (storeRanges sp fmt lm1 (k.gr ga) (k.gr gsc))).wrote,
          wrg := (k.disturb (storeRanges sp fmt lm1 (k.gr ga) (k.gr gsc))).wrg } ∧
        b.1.length = r.2.2.1 ∧ b.2.length = r.2.2.2.2 ∧
        ∀ m x, byteOf t m x =
          if m = spaceMem c.toNat sp ∧ fmtScaled fmt = true ∧ r.2.2.2.1 ≤ x ∧ x < r.2.2.2.1 + r.2.2.2.2 then b.2.getD (x - r.2.2.2.1) 0
          else if m = spaceMem c.toNat sp ∧ r.2.1 ≤ x ∧ x < r.2.1 + r.2.2.1 then b.1.getD (x - r.2.1) 0
          else byteOf s m x) ∧
    (∀ (f : Flight) n vr ga gsc fmt sp lm1 tw cw ts, s.unitsRun c.toNat = true → findFlight (s.core c.toNat).vec n = some f →
      f.d.ins = .vst vr ga gsc fmt sp lm1 tw cw ts ∨ f.d.ins = .vld vr ga gsc fmt sp lm1 tw cw ts →
      ∃ t, exec (.releasePoint c .vector n) s = .next t ∧
        onlyCore s t c.toNat { s.core c.toNat with
          tacks := (t.core c.toNat).tacks,
          vec := { (s.core c.toNat).vec with flights := (s.core c.toNat).vec.flights.filter (fun g => g.d.sn ≠ n) } } ∧
        ∀ j, (t.core c.toNat).tack j = (decide (j = ts) || (s.core c.toNat).tack j)) ∧
    (∀ vr ga gsc fmt sp lm1 tw cw ts, handles s c (.vld vr ga gsc fmt sp lm1 tw cw ts) → vecFree (s.core c.toNat) c.toNat (.vld vr ga gsc fmt sp lm1 tw cw ts) →
      ((s.core c.toNat).gr ga).toNat % 64 ≠ 0 →
      (let r := vmemRanges sp fmt lm1 ((s.core c.toNat).gr ga) ((s.core c.toNat).gr gsc)
       (s.core c.toNat).readHeld (spaceMem c.toNat sp) r.2.1 r.2.2.1 = false ∧
         (s.core c.toNat).readHeld (spaceMem c.toNat sp) r.2.2.2.1 r.2.2.2.2 = false) →
      exec (.vld c) s = .next ((s.setCore c.toNat (entered (s.core c.toNat) .vector (.vld vr ga gsc fmt sp lm1 tw cw ts)
        ((s.core c.toNat).gr ga) ((s.core c.toNat).gr gsc) 0 0)).exception c.toNat stBounds 0x61
        ((s.core c.toNat).pc.toNat % 8192)))

/-- Where the front end handles RED or TOPK with the unit free, its wait tack set, n from 1 to 1,048,576 and its regions
in vector-port banks, it issues and holds the port (RED leaves gd pending). NORM with a permitted descriptor and clean
operands replaces core memory by the normalised rows: every byte outside the written regions reads as before.
STREAM_REDUCTION_DONE of a RED writes the reduction into gd, no longer pending; of a TOPK it stores the ranked pairs
(noted as written, R19, R290); both set TS. VECTOR_ISSUE issues the head of the pending buffer in the same way: a
waiting RED takes the port. Every other part of the state is unchanged (NORM adds to the SFU cycle counter). (Vector
Lanes and Special Functions: Streamed reductions, Vector Lanes and Special Functions: Fused normalisation, Core
Instruction Set: Encoding) -/
def Obligations.StreamedVectorInstructions : Prop :=
  ∀ (s : State) (c : BitVec 4),
    (∀ op gd ga gn bf tw cw ts, handles s c (.red op gd ga gn bf tw cw ts) → vecFree (s.core c.toNat) c.toNat (.red op gd ga gn bf tw cw ts) →
      let k := s.core c.toNat
      1 ≤ (k.gr gn).toNat → (k.gr gn).toNat ≤ 1048576 →
      k.inPort 1 (k.gr ga).toNat ((k.gr gn).toNat * (if bf then 2 else 4)) = true →
      exec (.red c) s = .next (s.setCore c.toNat { vecIssued k tw cw with
        pendingG := if gd = 0 then k.pendingG else k.pendingG ++ [gd],
        vec := { k.vec with wait := false, flights := k.vec.flights ++
          [issuedAs k (.red op gd ga gn bf tw cw ts) (k.gr ga) (k.gr gn) 0 0] } })) ∧
    (∀ km1 gin gn gpos gout sup bf tw cw ts, handles s c (.topk km1 gin gn gpos gout sup bf tw cw ts) →
      vecFree (s.core c.toNat) c.toNat (.topk km1 gin gn gpos gout sup bf tw cw ts) →
      let k := s.core c.toNat
      1 ≤ (k.gr gn).toNat → (k.gr gn).toNat ≤ 1048576 →
      k.inPort 1 (k.gr gin).toNat ((k.gr gn).toNat * (if sup then 8 else if bf then 2 else 4)) = true →
      k.inPort 1 (k.gr gout).toNat (8 * (km1.toNat + 1)) = true →
      exec (.topk c) s = .next (s.setCore c.toNat { vecIssued k tw cw with
        vec := { k.vec with wait := false, flights := k.vec.flights ++
          [issuedAs k (.topk km1 gin gn gpos gout sup bf tw cw ts) (k.gr gin) (k.gr gn) (k.gr gpos) (k.gr gout)] } })) ∧
    (∀ g tw cw ts, handles s c (.norm g tw cw ts) → vecFree (s.core c.toNat) c.toNat (.norm g tw cw ts) →
      let k := s.core c.toNat
      let a := (k.gr g).toNat
      let desc := k.cmem.bytes a 64
      let nd := normDesc desc
      a % 64 = 0 → k.inPort 1 a 64 = true → cleanRange k.cmem a 64 → nd.ok = true →
      (∀ r ∈ nd.reads ++ nd.writes, k.inPort 1 r.1 r.2 = true) → (∀ r ∈ nd.reads, cleanRange k.cmem r.1 r.2) →
      (∀ r ∈ nd.writes, mergeClean k.cmem r.1 r.2) →
      ∃ t, exec (.norm c) s = .next t ∧ t = { s with cores := t.cores, regs := t.regs } ∧
        t.core c.toNat = { vecIssued k tw cw with
          cmem := normRun k.cmem nd, wrote := (k.note nd.writes).wrote, wrg := (k.disturb nd.writes).wrg,
          vec := { k.vec with wait := false, flights := k.vec.flights ++
            [{ issuedAs k (.norm g tw cw ts) (k.gr g) 0 0 0 with desc := desc }] } } ∧
        (∀ m, m ≠ c.toNat → t.core m = s.core m) ∧ (∀ off, off ≠ coreOff c.toNat 0xA08 → t.reg off = s.reg off) ∧
        ∀ x, (∀ r ∈ nd.writes, ¬ inRange r.1 r.2 x) → byteOf t (.cmem c) x = byteOf s (.cmem c) x) ∧
    (∀ (f : Flight) rest op gd ga gn bf tw cw ts, s.unitsRun c.toNat = true → (s.core c.toNat).vec.flights = f :: rest →
      f.d.ins = .red op gd ga gn bf tw cw ts →
      cleanRange (s.core c.toNat).cmem f.d.x0.toNat (f.d.x1.toNat * (if bf then 2 else 4)) →
      ∃ t, exec (.streamReductionDone c) s = .next t ∧
        onlyCore s t c.toNat { s.core c.toNat with
          vec := { (s.core c.toNat).vec with flights := rest },
          g := gWrite (s.core c.toNat) gd (redResult op (f32List (s.core c.toNat).cmem f.d.x0.toNat f.d.x1.toNat bf)),
          pendingG := arriveG gd (s.core c.toNat).pendingG, tacks := (t.core c.toNat).tacks } ∧
        ∀ j, (t.core c.toNat).tack j = (decide (j = ts) || (s.core c.toNat).tack j)) ∧
    (∀ (f : Flight) rest km1 gin gn gpos gout sup bf tw cw ts, s.unitsRun c.toNat = true →
      (s.core c.toNat).vec.flights = f :: rest → f.d.ins = .topk km1 gin gn gpos gout sup bf tw cw ts →
      cleanRange (s.core c.toNat).cmem f.d.x0.toNat (f.d.x1.toNat * (if sup then 8 else if bf then 2 else 4)) →
      (s.core c.toNat).inPort 1 f.d.x3.toNat (8 * (km1.toNat + 1)) = true →
      mergeClean (s.core c.toNat).cmem f.d.x3.toNat (8 * (km1.toNat + 1)) →
      let out := pairBytes (topK (km1.toNat + 1)
        (topkPairs (s.core c.toNat).cmem f.d.x0.toNat f.d.x1.toNat sup bf (f.d.x2.toNat % 2 ^ 32)))
      ∃ t, exec (.streamReductionDone c) s = .next t ∧
        onlyCore s t c.toNat { s.core c.toNat with
          vec := { (s.core c.toNat).vec with flights := rest }, cmem := (t.core c.toNat).cmem, tacks := (t.core c.toNat).tacks,
          wrote := ((s.core c.toNat).note [(f.d.x3.toNat, 8 * (km1.toNat + 1))]).wrote,
          wrg := ((s.core c.toNat).disturb [(f.d.x3.toNat, 8 * (km1.toNat + 1))]).wrg } ∧
        (∀ j, (t.core c.toNat).tack j = (decide (j = ts) || (s.core c.toNat).tack j)) ∧
        ∀ x, byteOf t (.cmem c) x = if f.d.x3.toNat ≤ x ∧ x < f.d.x3.toNat + out.length then out.getD (x - f.d.x3.toNat) 0
          else byteOf s (.cmem c) x) ∧
    (∀ (d : Disp) op gd ga gn bf tw cw ts, s.unitsRun c.toNat = true → (s.core c.toNat).vec.pend = [d] →
      d.ins = .red op gd ga gn bf tw cw ts → (s.core c.toNat).tack tw = true →
      (s.core c.toNat).vec.flights.any (fun f => holdsPort f.d.ins) = false →
      (s.core c.toNat).firstTo c.toNat d.sn (consumes d.ins) = true →
      1 ≤ d.x1.toNat → d.x1.toNat ≤ 1048576 → (s.core c.toNat).inPort 1 d.x0.toNat (d.x1.toNat * (if bf then 2 else 4)) = true →
      exec (.vectorIssue c) s = .next (s.setCore c.toNat
        { (s.core c.toNat).consume cw tw with
          vec := { (s.core c.toNat).vec with
            pend := [], wait := false,
            flights := (s.core c.toNat).vec.flights ++ [{ d := d, desc := [], phase := 0, blk := 0, reading := false, fed := [], seen := none, hits := [], ue := false }] } }))

/-- MMA_ISSUE of a head that is ready (and first to its tacks, R142), legal and in bounds, with clean operands: each cell
of its M x N holds the beats 0 to J-1 added in order to zero (OPEN_ZERO) or to what it held, every other cell is kept
(a change of accumulator type under OPEN_ZERO zeroes the tile's other cells), the tile is open with its type and size,
TA and TB are consumed, TD cleared by a drain and TS set without one. A drain-only instruction adds nothing.
TILE_CLOSE closes each cell; MMA_FINISHED takes the instruction off the array; DRAIN_DONE, whose merges read no
granule with an error, writes buffer D (noted as written, R19, R290), sets TS and moves the saturation flags to SAT.
Nothing but the core changes. (Matrix Arrays, Number Formats and Arithmetic, Core Instruction Set: Encoding) -/
def Obligations.MatrixInstructionAccumulates : Prop :=
  ∀ (s : State) (c : BitVec 4), s.unitsRun c.toNat = true →
    (∀ (d : Disp) (m : MmaF), (s.core c.toNat).mat.pend = [d] → mmaOf d.ins = some m →
      let k := s.core c.toNat
      let sh := shapeOf d.x3
      let fl : Flight := { newFlight d [] with reading := decide (m.opn ≠ 3) }
      let tile := tileIdx m.q m.slot
      let retyped := m.opn = 1 ∧ (k.tile tile).st = .closed ∧ (k.tile tile).f32 ≠ pairF32 sh.pair
      k.mmaReady m = true → k.firstTo c.toNat d.sn (consumes d.ins) = true → k.mmaLegal m sh = true → mmaBounds m d = true →
      (∀ r ∈ fl.readsOf true, cleanRange k.bufA r.1 r.2) → (∀ r ∈ fl.readsOf false, cleanRange k.bufB r.1 r.2) →
      ∃ t, exec (.mmaIssue c) s = .next t ∧
        onlyCore s t c.toNat { k with
          tacks := (t.core c.toNat).tacks, acc := (t.core c.toNat).acc, tiles := (t.core c.toNat).tiles,
          beats := if m.opn = 3 then k.beats else k.beats + BitVec.ofNat 64 sh.j,
          mat := { k.mat with pend := [], flights := k.mat.flights ++ [fl] } } ∧
        (∀ j : BitVec 6, (t.core c.toNat).tack j = (decide (j = 0) ||
          (if m.drain then !decide (j = m.td) && !(m.ca && decide (j = m.ta)) && !(m.cb && decide (j = m.tb)) && k.tack j
            else decide (j = m.ts) || (!(m.ca && decide (j = m.ta)) && !(m.cb && decide (j = m.tb)) && k.tack j)))) ∧
        (m.opn ≠ 3 → (t.core c.toNat).tile tile = { st := .open_, f32 := pairF32 sh.pair, m := sh.m, n := sh.n }) ∧
        (m.opn = 3 → (t.core c.toNat).tile tile = k.tile tile) ∧
        (∀ u, u ≠ tile → (t.core c.toNat).tile u = k.tile u) ∧
        ∀ u row col, row < 32 → col < 32 → (t.core c.toNat).cell u row col =
          if u = tile ∧ m.opn ≠ 3 then
            (if row < sh.m ∧ col < sh.n then
              (List.range sh.j).foldl (fun x j => x.addBeat (beatAt k.bufA k.bufB (regionOf d.x0) (regionOf d.x1) sh row col j))
                (if m.opn = 1 then { k.cell u row col with a := 0, stack := [] } else k.cell u row col)
            else if retyped ∧ row < packSide k.packing ∧ col < packSide k.packing then
              { k.cell u row col with a := 0, stack := [] }
            else k.cell u row col)
          else k.cell u row col) ∧
    (∀ (f : Flight) (m : MmaF) n, findFlight (s.core c.toNat).mat n = some f → mmaOf f.d.ins = some m →
      let k := s.core c.toNat
      let sh := shapeOf f.d.x3
      let tile := tileIdx m.q m.slot
      (m.close = true → f.phase = 0 → m.opn ≠ 3 → k.beatsFirst m n = true → sh.m ≤ 32 → sh.n ≤ 32 →
        ∃ t, exec (.tileClose c n) s = .next t ∧
          onlyCore s t c.toNat { k with
            acc := (t.core c.toNat).acc, tiles := (t.core c.toNat).tiles, mat := (t.core c.toNat).mat } ∧
          (t.core c.toNat).tile tile = { k.tile tile with st := .closed } ∧
          (∀ u, u ≠ tile → (t.core c.toNat).tile u = k.tile u) ∧
          (∀ g ∈ (t.core c.toNat).mat.flights, g.d.sn = n → m.drain = true ∧ g.phase = 1) ∧
          ∀ u row col, row < 32 → col < 32 → (t.core c.toNat).cell u row col =
            if u = tile ∧ (k.tile tile).f32 = true ∧ row < sh.m ∧ col < sh.n then
              { k.cell u row col with a := closeStack (k.cell u row col).a (k.cell u row col).stack, stack := [] }
            else k.cell u row col) ∧
      (m.close = false → m.opn ≠ 3 → k.beatsFirst m n = true →
        exec (.mmaFinished c n) s = .next (s.setCore c.toNat { k with
          mat := { k.mat with flights := k.mat.flights.filter (fun g => g.d.sn ≠ n) } })) ∧
      (m.drain = true → f.phase = 1 ∨ m.opn = 3 →
        (∀ g ∈ k.mat.flights, g.onSub m.q = true → g.hasDrain = true → n ≤ g.d.sn) →
        (∀ r ∈ drainRanges (regionOf f.d.x2) sh, mergeClean k.bufD r.1 r.2) →
        ∃ t, exec (.drainDone c n) s = .next t ∧
          onlyCore s t c.toNat { k with
            acc := (t.core c.toNat).acc, bufD := (t.core c.toNat).bufD, sat := (t.core c.toNat).sat,
            tacks := (t.core c.toNat).tacks, wrote := (k.note f.drainMap).wrote, wrg := (k.disturb f.drainMap).wrg,
            mat := { k.mat with flights := k.mat.flights.filter (fun g => g.d.sn ≠ n) } } ∧
          (∀ j, (t.core c.toNat).tack j = (decide (j = m.ts) || k.tack j)) ∧
          (∀ x, (∀ r ∈ drainRanges (regionOf f.d.x2) sh, ¬ inRange r.1 r.2 x) → sh.dfmt ≤ 8 →
            byteOf t (.bufD c) x = byteOf s (.bufD c) x) ∧
          (dfmtScaled sh.dfmt = false → drainRowBytes sh.dfmt sh.n ≤ (regionOf f.d.x2).pitch → sh.dfmt ≤ 5 →
            ∀ row j, row < sh.m → j < drainRowBytes sh.dfmt sh.n →
              byteOf t (.bufD c) ((regionOf f.d.x2).base + row * (regionOf f.d.x2).pitch + j) =
                (packCodes (drainBits sh.dfmt) ((List.range sh.n).map (fun col => drainCode sh.dfmt (k.cell tile row col).a))).getD j 0) ∧
          ((t.core c.toNat).sat = true ↔ k.sat = true ∨
            ∃ row col, row < sh.m ∧ col < sh.n ∧ (k.cell tile row col).sat = true)))

/-- Where the units of a core run and a DMA transfer or a Wringer block waits for protected bytes, PROTECTED_WAIT_END of
that unit ends the wait: the operand ranges of matrix and Mangle instructions that meet the awaited bytes have been
read, every other range of a matrix instruction stays protected, a Mangle instruction keeps core memory as it read it,
and everything else of the core is unchanged. For the vector unit the head of its pending buffer is then tried again,
as VECTOR_ISSUE tries it. While such a Mangle instruction itself waits for an earlier one to write what it reads, the
wait stays and nothing changes, which is the choice of the model (log entry 31). (Matrix Arrays: Accumulator tiles and
their hazards) -/
def Obligations.ProtectedWaitsEnd : Prop :=
  ∀ (s : State) (c : BitVec 4), s.unitsRun c.toNat = true →
    let k := s.core c.toNat
    let unread : CoreUnit → Bool := fun u => k.mgl.flights.any (fun f => f.mglReadsAny k.cmem (k.heldWrites c.toNat u) &&
      k.mgl.flights.any (fun g => decide (g.d.sn < f.d.sn) && (f.mglReads k.cmem).any (fun r => anyMeet g.mglWrites r.1 r.2)))
    let readers : CoreUnit → List Flight := fun u => k.mgl.flights.map (fun f => f.mglFeed k.cmem (k.heldWrites c.toNat u))
    let fed : CoreUnit → List Flight := fun u => k.mat.flights.map (fun f => f.feed (k.heldWrites c.toNat u))
    (∀ u, u = .dma ∨ u = .wringer → (k.unit u).wait = true → unread u = false →
      ∃ t, exec (.protectedWaitEnd c u) s = .next t ∧
        onlyCore s t c.toNat { s.core c.toNat with
          mat := (t.core c.toNat).mat, mgl := { k.mgl with flights := readers u }, dma := (t.core c.toNat).dma,
          wrg := (t.core c.toNat).wrg } ∧
        ((t.core c.toNat).unit u) = { (s.core c.toNat).unit u with wait := false } ∧
        ((t.core c.toNat).unit (if u = .dma then .wringer else .dma)) = (s.core c.toNat).unit (if u = .dma then .wringer else .dma) ∧
        (t.core c.toNat).mat = { k.mat with flights := fed u } ∧
        (∀ f ∈ (t.core c.toNat).mat.flights, f.readsAny (k.heldWrites c.toNat u) = false) ∧
        ∀ f ∈ k.mat.flights, ∃ g ∈ (t.core c.toNat).mat.flights, g.d = f.d ∧ ∀ isA, ∀ r ∈ f.readsOf isA,
          (∀ w ∈ k.heldWrites c.toNat u, fedMem w.1 = (if isA then 0 else 1) → rangesMeet r.1 r.2 w.2.1 w.2.2 = false) →
          r ∈ g.readsOf isA) ∧
    (∀ u, unread u = true → exec (.protectedWaitEnd c u) s = .next s) ∧
    (k.protWaits c.toNat .vector = true → unread .vector = false →
      exec (.protectedWaitEnd c .vector) s = exec (.vectorIssue c) (s.setCore c.toNat { s.core c.toNat with
        vec := { (s.core c.toNat).vec with wait := false },
        mgl := { k.mgl with flights := readers .vector }, mat := { k.mat with flights := fed .vector } }))

/-- DMA_ISSUE of a head whose tack is set and first to it (R142), with a clean permitted descriptor whose rows the core
may use: the transfer stands with its descriptor, TW is consumed as CW says and one tag is held. A descriptor that is
misaligned or outside the vector-port and other banks that DMA reads, and a row that the core may not use, raise
ST_BOUNDS, a descriptor that R184 refuses ST_BITSTREAM, a row without its key ST_KEY. That the bytes move at the
release point, row after row, and that one tag is held from issue to release are the choices of the model (log entries
23 and 24). RELEASE_POINT of a FILL of one row inside core memory writes the repeated pattern, and of a COPY of one
clean row from core memory to core memory the source bytes; every other byte of core memory reads as before, TS is
set, the transfer and its tag are gone, and the row is noted as written (R19, R290). RELEASE_POINT of a COPY of any
number of clean rows from memories of the chip into memories of the core, none of which meets another, moves every
byte to its place and changes no other byte. RING_PIECE_TAKE moves the bytes of the core's next piece from the ring's
partition of shared memory (where they lie in it: log entry 95) into the transfer's row and frees ring space; its
RELEASE_POINT sets TS. Nothing else changes. (On-Chip Memory: DMA, Core Instruction Set: Encoding, Weight Residency
and Streaming) -/
def Obligations.DmaTransfers : Prop :=
  ∀ (s : State) (c : BitVec 4), s.unitsRun c.toNat = true →
    (∀ (d : Disp) g tw cw ts, (s.core c.toNat).dma.pend = [d] → d.ins = .dma g tw cw ts → (s.core c.toNat).tack tw = true →
      (s.core c.toNat).firstTo c.toNat d.sn (consumes d.ins) = true →
      (s.core c.toNat).dma.flights.length < 16 → d.x0.toNat % 64 = 0 → (s.core c.toNat).inPort 3 d.x0.toNat 64 = true →
      cleanRange (s.core c.toNat).cmem d.x0.toNat 64 →
      let b := (s.core c.toNat).cmem.bytes d.x0.toNat 64
      let cm := s.cmdOf c.toNat
      dDescOk b = true → ((dDesc b).kind = 1 → s.hasRing (s.core c.toNat).slot (dDesc b).ring = true) →
      (∀ r ∈ (dDesc b).srcRows c.toNat, s.srcOk c.toNat cm r = true) →
      (∀ r ∈ (dDesc b).dstRows c.toNat, s.dstOk c.toNat cm (decide ((dDesc b).kind = 1)) r = true) →
      (∀ r ∈ (dDesc b).srcRows c.toNat ++ (dDesc b).dstRows c.toNat, s.rowKeyed c.toNat cm r = true) →
      ∃ t, exec (.dmaIssue c) s = .next t ∧ t = { s with cores := t.cores, ras := t.ras } ∧
        t.core c.toNat = { (s.core c.toNat).consume cw tw with
          dma := { (s.core c.toNat).dma with
            pend := [],
            flights := (s.core c.toNat).dma.flights ++ [newFlight d b] } } ∧
        (∀ m, m ≠ c.toNat → t.core m = s.core m) ∧ t.ras = { s.ras with tags := s.ras.tags ++ [(s.freshTag, c)] }) ∧
    (∀ (d : Disp) g tw cw ts, (s.core c.toNat).dma.pend = [d] → d.ins = .dma g tw cw ts → (s.core c.toNat).tack tw = true →
      (s.core c.toNat).firstTo c.toNat d.sn (consumes d.ins) = true → (s.core c.toNat).dma.flights.length < 16 →
      let b := (s.core c.toNat).cmem.bytes d.x0.toNat 64
      let cm := s.cmdOf c.toNat
      let placed := d.x0.toNat % 64 = 0 ∧ (s.core c.toNat).inPort 3 d.x0.toNat 64 = true
      let listed := dDescOk b = true ∧ ((dDesc b).kind = 1 → s.hasRing (s.core c.toNat).slot (dDesc b).ring = true)
      let allowed := (∀ r ∈ (dDesc b).srcRows c.toNat, s.srcOk c.toNat cm r = true) ∧
        ∀ r ∈ (dDesc b).dstRows c.toNat, s.dstOk c.toNat cm (decide ((dDesc b).kind = 1)) r = true
      (¬ placed → exec (.dmaIssue c) s = .next (s.exception c.toNat stBounds 0x30 d.pc.toNat)) ∧
      (placed → cleanRange (s.core c.toNat).cmem d.x0.toNat 64 → ¬ listed →
        exec (.dmaIssue c) s = .next (s.exception c.toNat stBitstream 0x30 d.pc.toNat)) ∧
      (placed → cleanRange (s.core c.toNat).cmem d.x0.toNat 64 → listed → ¬ allowed →
        exec (.dmaIssue c) s = .next (s.exception c.toNat stBounds 0x30 d.pc.toNat)) ∧
      (placed → cleanRange (s.core c.toNat).cmem d.x0.toNat 64 → listed → allowed →
        (∃ r ∈ (dDesc b).srcRows c.toNat ++ (dDesc b).dstRows c.toNat, s.rowKeyed c.toNat cm r = false) →
        exec (.dmaIssue c) s = .next (s.exception c.toNat stKey 0x30 d.pc.toNat))) ∧
    (∀ (f : Flight) n g tw cw ts, findFlight (s.core c.toNat).dma n = some f → f.d.sn = n → f.d.ins = .dma g tw cw ts →
      (s.core c.toNat).dmaActive c.toNat f = true → (s.core c.toNat).dmaHeld c.toNat f = false → (dDesc f.desc).kind = 0 → f.ue = false →
      let src := (dDesc f.desc).srcRows c.toNat
      let dst := (dDesc f.desc).dstRows c.toNat
      (∀ r ∈ src, 0 < r.2 ∧ ∃ m o, placeOf c.toNat r.1 r.2 = some (.ram m o) ∧ cleanRange (s.ram m) o r.2) →
      (∀ r ∈ dst, r.1 < 0x1000000 ∧ ∃ m o, placeOf c.toNat r.1 r.2 = some (.ram m o) ∧ mergeClean (s.ram m) o r.2) →
      dst.Pairwise (fun a b => rangesMeet a.1 a.2 b.1 b.2 = false) →
      (∀ a ∈ src, ∀ b ∈ dst, rangesMeet a.1 a.2 b.1 b.2 = false) →
      ∃ t, exec (.releasePoint c .dma n) s = .next t ∧ t = { s with cores := t.cores, ras := t.ras } ∧
        (∀ m, m ≠ c.toNat → t.core m = s.core m) ∧
        (t.core c.toNat).dma.flights = (s.core c.toNat).dma.flights.filter (fun x => x.d.sn ≠ n) ∧
        (∀ j, (t.core c.toNat).tack j = (decide (j = ts) || (s.core c.toNat).tack j)) ∧
        (∀ e ∈ src.zip dst, ∀ j, j < e.1.2 → mapByte t c.toNat (e.2.1 + j) = mapByte s c.toNat (e.1.1 + j)) ∧
        ∀ x, (∀ r ∈ dst, ¬ inRange r.1 r.2 x) → mapByte t c.toNat x = mapByte s c.toNat x) ∧
    (∀ (f : Flight) n g tw cw ts a b len p, findFlight (s.core c.toNat).dma n = some f → f.d.sn = n → f.d.ins = .dma g tw cw ts →
      (s.core c.toNat).dmaActive c.toNat f = true → (s.core c.toNat).dmaHeld c.toNat f = false → 0 < len → b + len ≤ 0x400000 →
      ((dDesc f.desc).kind = 2 ∧ (dDesc f.desc).flags = 0 ∧
          (dDesc f.desc).ps = [{ src := p, dst := b, len := len, rows := 1, spitch := 0, dpitch := 0, cstep := 0 }] ∨
        (dDesc f.desc).kind = 0 ∧ (dDesc f.desc).srcRows c.toNat = [(a, len)] ∧ (dDesc f.desc).dstRows c.toNat = [(b, len)] ∧
          a + len ≤ 0x400000 ∧ cleanRange (s.core c.toNat).cmem a len ∧ f.ue = false) →
      mergeClean (s.core c.toNat).cmem b len →
      ∃ t, exec (.releasePoint c .dma n) s = .next t ∧ t = { s with cores := t.cores, ras := t.ras } ∧
        t.core c.toNat = { s.core c.toNat with
          cmem := (t.core c.toNat).cmem, tacks := (t.core c.toNat).tacks,
          wrote := ((s.core c.toNat).note [(b, len)]).wrote, wrg := ((s.core c.toNat).disturb [(b, len)]).wrg,
          dma := { (s.core c.toNat).dma with
            flights := (s.core c.toNat).dma.flights.filter (fun x => x.d.sn ≠ n), wait := (t.core c.toNat).dma.wait } } ∧
        ((t.core c.toNat).dma.wait = true → (s.core c.toNat).dma.wait = true ∧ ∃ x ∈ (s.core c.toNat).dma.flights, x.d.sn ≠ n) ∧
        (∀ m, m ≠ c.toNat → t.core m = s.core m) ∧
        (∀ j, (t.core c.toNat).tack j = (decide (j = ts) || (s.core c.toNat).tack j)) ∧
        t.ras = { s.ras with tags := dropFirst (fun x => x.2.toNat = c.toNat) s.ras.tags } ∧
        ∀ x, byteOf t (.cmem c) x =
          if b ≤ x ∧ x < b + len then
            (if (dDesc f.desc).kind = 2 then BitVec.ofNat 8 (p / 256 ^ ((x - b) % 4)) else byteOf s (.cmem c) (a + (x - b)))
          else byteOf s (.cmem c) x) ∧
    (∀ (f : Flight) n g tw cw ts (b : BitVec 3) (q : Piece) more dst part, findFlight (s.core c.toNat).dma n = some f → f.d.sn = n →
      f.d.ins = .dma g tw cw ts → (dDesc f.desc).kind = 1 → f.phase = 0 → (s.core c.toNat).dma.flights = [f] →
      (s.core c.toNat).dmaHeld c.toNat f = false → (s.core c.toNat).slot = some b →
      s.ringQ b.toNat (dDesc f.desc).ring = q :: more → q.taken = false → q.pass = (s.cmdOf c.toNat).pass → q.core = c →
      (∀ x ∈ more, x.taken = false) →
      q.len = (dDesc f.desc).bytes → (dDesc f.desc).dstRows c.toNat = [(dst, q.len)] → 0 < q.len → dst + q.len ≤ 0x400000 →
      mergeClean (s.core c.toNat).cmem dst q.len → s.ringPart b.toNat (dDesc f.desc).ring = some part → q.at_ < part.2 →
      (∀ r ∈ ringSpans part q.at_ q.len, cleanRange s.shm r.1 r.2) →
      ∃ t, exec (.ringPieceTake c n) s = .next t ∧ t = { s with cores := t.cores, rings := t.rings } ∧
        t.ringQ b.toNat (dDesc f.desc).ring = more ∧
        (∀ key, key ≠ ringKey b.toNat (dDesc f.desc).ring → nget [] t.rings key = nget [] s.rings key) ∧
        t.core c.toNat = { s.core c.toNat with
          cmem := (t.core c.toNat).cmem,
          wrote := ((s.core c.toNat).note [(dst, q.len)]).wrote, wrg := ((s.core c.toNat).disturb [(dst, q.len)]).wrg,
          dma := { (s.core c.toNat).dma with flights := [{ f with phase := 1 }], wait := false } } ∧
        (∀ m, m ≠ c.toNat → t.core m = s.core m) ∧
        (∀ x, byteOf t (.cmem c) x = if dst ≤ x ∧ x < dst + q.len
          then byteOf s .shm (part.1 + (if q.at_ + (x - dst) < part.2 then q.at_ + (x - dst) else q.at_ + (x - dst) - part.2))
          else byteOf s (.cmem c) x) ∧
        ∃ v, exec (.releasePoint c .dma n) t = .next v ∧ v = { t with cores := v.cores, ras := v.ras } ∧
          (v.core c.toNat).dma.flights = [] ∧ ∀ j, (v.core c.toNat).tack j = (decide (j = ts) || (t.core c.toNat).tack j))

/-- MGL_ISSUE of a ready head whose descriptor is permitted, in bounds and clean: the instruction stands with its
descriptor, TQ and TK are consumed as CQ and CK say. A backward operation of a command outside an adaptation context
raises ST_CLASS. MGL_DONE of the oldest instruction with clean reads, whose outputs lie in the core's own memory,
writes what its operation computes from core memory, as the instruction read it where a write into what it reads then
went on: a byte outside the written ranges reads as before, the outputs are noted as written (R19, R290), the block
counter and the skip counter advance, TS is set and the instruction is gone. Nothing else changes. (Mangle Attention
Pipeline, Core Instruction Set: Encoding) -/
def Obligations.MangleInstructions : Prop :=
  ∀ (s : State) (c : BitVec 4), s.unitsRun c.toNat = true →
    (∀ (d : Disp) (f : MglF), (s.core c.toNat).mgl.pend = [d] → mglOf d.ins = some f → (s.core c.toNat).mglReady f = true → (s.core c.toNat).mglClear f d = true →
      (s.core c.toNat).firstTo c.toNat d.sn (consumes d.ins) = true →
      let k := s.core c.toNat
      let a := d.x0.toNat
      let md := mglDesc (k.cmem.bytes a 128)
      (2 ≤ f.op.toNat → s.adaptation k = true) → a % 64 = 0 →
      k.inPort 2 a (if 2 ≤ f.op.toNat then 128 else 64) = true → cleanRange k.cmem a (if 2 ≤ f.op.toNat then 128 else 64) →
      md.legal f.op = true →
      (∀ r ∈ md.listBytes (md.pages f.op k.cmem), k.inPort 2 r.1 r.2 = true ∧ cleanRange k.cmem r.1 r.2) →
      (md.pages f.op k.cmem).2 = true → md.boundsOk k f.op (md.pages f.op k.cmem).1 = true →
      exec (.mglIssue c) s = .next (s.setCore c.toNat { (k.consume f.cq f.tq).consume f.ck f.tk with
        mgl := { k.mgl with
          pend := [],
          flights := k.mgl.flights ++ [newFlight d (k.cmem.bytes a 128)] } })) ∧
    (∀ (d : Disp) (f : MglF), (s.core c.toNat).mgl.pend = [d] → mglOf d.ins = some f → (s.core c.toNat).mglReady f = true → (s.core c.toNat).mglClear f d = true →
      (s.core c.toNat).firstTo c.toNat d.sn (consumes d.ins) = true →
      2 ≤ f.op.toNat → s.adaptation (s.core c.toNat) = false →
      exec (.mglIssue c) s = .next (s.exception c.toNat stClass 0x50 d.pc.toNat)) ∧
    (∀ (fl : Flight) rest (f : MglF), (s.core c.toNat).mgl.flights = fl :: rest → mglOf fl.d.ins = some f →
      let k := s.core c.toNat
      let md := mglDesc fl.desc
      let ram := match fl.seen with | some x => x | none => k.cmem
      let ps := (md.pages f.op ram).1
      (∀ r ∈ md.fixedReads f.op ++ md.listBytes (md.pages f.op ram) ++ md.kvReads f.op ram ps,
        cleanRange ram r.1 r.2) →
      (∀ w ∈ md.run f.op ram, mergeClean k.cmem w.1 w.2.length) → (∀ r ∈ md.writes f.op, r.1 < 0x1000000) →
      ∃ t, exec (.mglDone c) s = .next t ∧ t = { s with cores := t.cores, regs := t.regs } ∧
        t.core c.toNat = { k with
          cmem := writeAll k.cmem (md.run f.op ram),
          mgl := { k.mgl with flights := rest },
          blocks := k.blocks + BitVec.ofNat 64 (md.blocks f.op).length,
          wrote := (k.note (md.writes f.op)).wrote, wrg := (k.disturb (md.writes f.op)).wrg,
          tacks := (t.core c.toNat).tacks } ∧
        (∀ j, (t.core c.toNat).tack j = (decide (j = f.ts) || k.tack j)) ∧
        (∀ m, m ≠ c.toNat → t.core m = s.core m) ∧ (∀ off, off ≠ coreOff c.toNat 0x90C → t.reg off = s.reg off) ∧
        ∀ x, (∀ w ∈ md.run f.op ram, ¬ inRange w.1 w.2.length x) → byteOf t (.cmem c) x = byteOf s (.cmem c) x)

/-- WRINGER_ISSUE of a head whose tack is set and first to it, and whose regions obey R288 and R343, makes it stand with
TW consumed, and its block takes unit 0 where no other work stands; a region outside raises ST_BOUNDS.
WRINGER_BLOCK_DONE of a block that holds a unit, where no merge reads a granule with an error: while no other unit or
core has written into the regions of the blocks so far since the issue, a WCMP with clean bytes writes the block's
frame and header into the CODEC area, and a WEXP whose header and frame are clean, consistent and unpoisoned writes
the expanded bytes into core memory or buffer A. Every other byte of every memory reads as before; the next block
follows, and after the last one TS is set. An inconsistent block of a core that has raised nothing stops the core with
the code of ST_UNCORRECTABLE. Where another write has disturbed the block alone, the block is done all the same with
free bytes, and nothing outside what it would write changes, which is the choice of the model (log entry 80; poisoned
input, which no clause here has, is log entry 27). The written ranges are noted for the command and for the other
cores' Wringer instructions. Without a unit nothing but the units changes. (Wringer Compression, Core Instruction Set:
Encoding) -/
def Obligations.WringerBlocks : Prop :=
  ∀ (s : State) (c : BitVec 4), s.unitsRun c.toNat = true →
    (∀ (d : Disp) (f : WrgF), (s.core c.toNat).wrg.pend = [d] → wrgOf d.ins = some f → (s.core c.toNat).tack f.tw = true →
      (s.core c.toNat).firstTo c.toNat d.sn (consumes d.ins) = true → (s.core c.toNat).wrg.flights.length < 4 →
      (s.wrgBounds c.toNat f d = true → ∃ t, exec (.wringerIssue c) s = .next t ∧
        t = { s.setCore c.toNat { (s.core c.toNat).consume f.cw f.tw with
          wrg := { (s.core c.toNat).wrg with pend := [], flights := (s.core c.toNat).wrg.flights ++ [newFlight d []] } } with
          wrg := t.wrg } ∧
        (s.wrg.units = [] → s.passes = [] → (∀ m, m < 16 → m ≠ c.toNat → (s.core m).wrg.flights = []) →
          t.wrg = { lastCore := c, units := [(0, .port c)] })) ∧
      (s.wrgBounds c.toNat f d = false →
        exec (.wringerIssue c) s = .next (s.exception c.toNat stBounds (opcodeOf d.ins) d.pc.toNat))) ∧
    (∀ (fl : Flight) rest (f : WrgF), (s.core c.toNat).wrg.flights = fl :: rest → wrgOf fl.d.ins = some f →
      (s.wrgFill.wrgUnit (.port c) = none → ∃ t, exec (.wringerBlockDone c) s = .next t ∧ t = { s with wrg := t.wrg }) ∧
      ((s.wrgFill.wrgUnit (.port c)).isSome = true →
        let k := s.core c.toNat
        let d := fl.d
        let j := fl.blk
        let len := rawLen d.glen j
        let area := frameArea f d
        let outs := (wrgOuts c.toNat f d j).map (fun r => (mapAt r.1 r.2.1, r.2.2))
        let after : Core → Core := fun q =>
          if j + 1 < blockCount d.glen then
            { q with wrg := { k.wrg with
                flights := k.wrg.flights.map (fun x => if x.d.sn = d.sn then { x with blk := j + 1 } else x), wait := false } }
          else
            { (q.setTack f.ts) with wrg := { k.wrg with
                flights := k.wrg.flights.filter (fun x => x.d.sn ≠ d.sn), wait := false } }
        let hit : Nat → Prop := fun i => fl.disturbed c.toNat f i = true
        let counted : State → Prop := fun t =>
          t = { s with regs := t.regs, cores := t.cores, shm := t.shm, wrg := t.wrg } ∧
          ∀ off, off ≠ 0x90000 → off ≠ 0x90004 → off ≠ 0x9000C → off ≠ 0x90010 → t.reg off = s.reg off
        ((∀ i < j, ¬ hit i) → hit j → k.wexpHeld c.toNat f d j = false →
          (∀ r ∈ wrgOuts c.toNat f d j, mergeClean (s.ram r.1) r.2.1 r.2.2) →
          ∃ t, exec (.wringerBlockDone c) s = .next t ∧
            t = { s with cores := t.cores, shm := t.shm, draws := t.draws, wrg := t.wrg } ∧
            (∀ m, m ≠ c.toNat → t.core m =
              if m < 16 then (s.core m).disturb ((outs ++ outs).filter (fun r => decide (0x1000000 ≤ r.1))) else s.core m) ∧
            t.core c.toNat = after { k with
              cmem := (t.core c.toNat).cmem, bufA := (t.core c.toNat).bufA, wrote := (k.note (outs ++ outs)).wrote } ∧
            ∀ m x, (∀ r ∈ wrgOuts c.toNat f d j, m = r.1 → ¬ inRange r.2.1 r.2.2 x) → byteOf t m x = byteOf s m x) ∧
        ((∀ i ≤ j, ¬ hit i) → f.comp = true → cleanRange k.cmem (d.x0.toNat + 1024 * j) len →
          (d.noref = false → cleanRange k.cmem (d.x1.toNat + 1024 * j) len) →
          let b := codeBlock actCode (k.cmem.bytes (d.x0.toNat + 1024 * j) len) (refBytes d k.cmem j len)
          mergeClean s.shm (area + 4 * j) 4 → mergeClean s.shm (area + frameOff d.glen j) b.1.length →
          ∃ t, exec (.wringerBlockDone c) s = .next t ∧ counted t ∧ t.core c.toNat = after { k with wrote := (k.note outs).wrote } ∧
            (∀ m, m ≠ c.toNat → t.core m = if m < 16 then (s.core m).disturb outs else s.core m) ∧
            ∀ x, byteOf t .shm x =
              if area + 4 * j ≤ x ∧ x < area + 4 * j + 4 then
                BitVec.ofNat 8 (headerWord b.2 false len b.1.length / 256 ^ (x - (area + 4 * j)))
              else if area + frameOff d.glen j ≤ x ∧ x < area + frameOff d.glen j + b.1.length then
                b.1.getD (x - (area + frameOff d.glen j)) 0
              else byteOf s .shm x) ∧
        ((∀ i ≤ j, ¬ hit i) → f.comp = false → k.wexpHeld c.toNat f d j = false → d.x2.toNat + 1024 * j < 0x400000 →
          let h : Word := BitVec.ofNat 32 (leNat (s.shm.bytes (area + 4 * j) 4))
          let flen := min 1024 (getBits h 0 11)
          let dst : MemSel := if f.bufA then .bufA c else .cmem c
          let at_ := d.x2.toNat + 1024 * j
          cleanRange s.shm (area + 4 * j) 4 → cleanRange s.shm (area + frameOff d.glen j) flen → bitOf h 30 = false →
          (d.noref = false → cleanRange k.cmem (d.x1.toNat + 1024 * j) len) →
          (∀ bs, expandBlock h (s.shm.bytes (area + frameOff d.glen j) flen) (refBytes d k.cmem j len) len = some bs →
            mergeClean (s.ram dst) at_ bs.length →
            ∃ t, exec (.wringerBlockDone c) s = .next t ∧ counted t ∧
              t.core c.toNat = after { k with
                cmem := (t.core c.toNat).cmem, bufA := (t.core c.toNat).bufA, wrote := (k.note outs).wrote } ∧
              (∀ m, m ≠ c.toNat → t.core m = s.core m) ∧
              (∀ x, byteOf t dst x = if at_ ≤ x ∧ x < at_ + bs.length then bs.getD (x - at_) 0 else byteOf s dst x) ∧
              ∀ m x, m ≠ dst → byteOf t m x = byteOf s m x) ∧
          (expandBlock h (s.shm.bytes (area + frameOff d.glen j) flen) (refBytes d k.cmem j len) len = none →
            k.run = true → k.peer = false → k.code = none →
            ∃ t, exec (.wringerBlockDone c) s = .next t ∧ (t.core c.toNat).front = .stopped ∧ (t.core c.toNat).code = some 3))))

/-- For every block of 4 to 1,024 bytes in whole elements and every reference of the same length, the header and frame
that WCMP writes expand to the block itself against the same reference, whether the block was coded or stored raw; a
coded frame holds at most 7/8 of the block, a raw frame the block. (Wringer Compression) -/
def Obligations.WringerIsLossless : Prop :=
  ∀ (x r : List Byte), x.length % 4 = 0 → 4 ≤ x.length → x.length ≤ 1024 → r.length = x.length →
    expandBlock (BitVec.ofNat 32 (headerWord (codeBlock actCode x r).2 false x.length (codeBlock actCode x r).1.length))
        (codeBlock actCode x r).1 r x.length = some x ∧
      ((codeBlock actCode x r).2 = false → 8 * (codeBlock actCode x r).1.length ≤ 7 * x.length) ∧
      ((codeBlock actCode x r).2 = true → (codeBlock actCode x r).1 = x)

/-- FLR over an open link and LINK_DL_DOWN, where no alarm of a sleep still waits: no command, spool, sequence, page,
pass, partition or channel is left, shared memory and every core's registers and memories are 0 and run nothing, every
context is disabled and only context 0 has ADMIN, registers of domains FLR and CORE read their reset values and, where
no core had a write of DRAM under way, all others what they read before; fences stay. PERST after power-good also
unkeys every context, empties the ports and takes the link down, with DRAM contents kept where no write of it was
under way. An alarm that came while the device slept is answered at the reset: every key slot but slot 0 empties and
the device is in quarantine. Loss of the always-on supply empties every key slot but slot 0, resets DRAM and the AON
domain; AON_SUPPLY_UP restarts the calendar at 0, not valid, and samples I3C_ADDR. PERST_RELEASE and PCIE_LINK_UP open
the link. (Scope and Conventions, Host Interface, Power, Clocks and Thermal Control, Security and Context Isolation) -/
def Obligations.ResetsClearTheirDomains : Prop :=
  ∀ (s : State),
    let flred := fun (t : State) => t = { s with regs := t.regs, latch := t.latch, draws := t.draws, cores := t.cores, chans := t.chans, shm := t.shm, shmPatrol := t.shmPatrol, parts := t.parts, cmds := t.cmds, ctxs := t.ctxs, spools := t.spools, seqs := t.seqs, pages := t.pages, used := t.used, models := t.models, hostGran := t.hostGran, store := t.store, passes := t.passes, passNo := t.passNo, rings := t.rings, bs := t.bs, dram := t.dram, sec := t.sec, pwr := t.pwr, ports := t.ports, colls := t.colls, evt := t.evt, ras := t.ras, tst := t.tst, pcie := t.pcie, wrg := t.wrg, outbox := t.outbox } ∧
        t.cmds = [] ∧ t.spools = [] ∧ t.seqs = [] ∧ t.pages = [] ∧ t.used = [] ∧ t.passes = [] ∧ t.rings = [] ∧ t.parts = [] ∧
        t.chans = [] ∧ t.colls = [] ∧ t.latch = [] ∧ t.shm = .zero ∧ t.tst = .reset ∧
        (∀ n, n < 64 → (t.ctx n).en = false ∧ (t.ctx n).cls = false ∧ (t.ctx n).admin = decide (n = 0)) ∧
        (∀ n, (t.core n).run = false ∧ (t.core n).front = .stopped ∧ (t.core n).g = [] ∧ (t.core n).v = [] ∧ (t.core n).acc = [] ∧
          (t.core n).cmem = .zero ∧ (t.core n).bufA = .zero ∧ (t.core n).tacks = 1 ∧ (t.core n).slot = none) ∧
        (∀ n, n < 16 → (t.core n).fence = (s.core n).fence) ∧
        (noneBegun s → ∀ off r, regInfo off = some r → t.reg off = if r.dom = .flr ∨ r.dom = .core then r.reset else s.reg off)
    let quiet := s.sec.latched = false ∨ s.sec.kind ≠ 2 ∨ s.sec.quarantine = true
    (quiet → s.linkOpen = true → ∃ t, exec .flr s = .next t ∧ flred t ∧ t.pcie.linkUp = s.pcie.linkUp) ∧
    (¬ quiet → s.linkOpen = true → ∃ t, exec .flr s = .next t ∧ t = { s with regs := t.regs, latch := t.latch, draws := t.draws, cores := t.cores, chans := t.chans, shm := t.shm, shmPatrol := t.shmPatrol, parts := t.parts, cmds := t.cmds, ctxs := t.ctxs, spools := t.spools, seqs := t.seqs, pages := t.pages, used := t.used, models := t.models, hostGran := t.hostGran, store := t.store, passes := t.passes, passNo := t.passNo, rings := t.rings, bs := t.bs, dram := t.dram, sec := t.sec, pwr := t.pwr, ports := t.ports, colls := t.colls, evt := t.evt, ras := t.ras, tst := t.tst, pcie := t.pcie, wrg := t.wrg, outbox := t.outbox } ∧ t.cmds = [] ∧ t.spools = [] ∧ t.shm = .zero ∧
      t.sec.quarantine = true ∧ t.sec.zeroing = true ∧ ∀ i, 1 ≤ i → i < 128 → (t.keySlot i).kind = .empty) ∧
    (quiet → s.pcie.linkUp = true → ∃ t, exec .linkDlDown s = .next t ∧ flred t ∧ t.pcie.linkUp = false) ∧
    (quiet → s.pcie.perst = false → s.aon.seq ≠ .off → s.aon.seq ≠ .rampUp →
      ∃ t, exec .perstAssert s = .next t ∧ t = { s with regs := t.regs, latch := t.latch, draws := t.draws, cores := t.cores, chans := t.chans, shm := t.shm, shmPatrol := t.shmPatrol, parts := t.parts, cmds := t.cmds, ctxs := t.ctxs, spools := t.spools, seqs := t.seqs, pages := t.pages, used := t.used, models := t.models, hostGran := t.hostGran, store := t.store, passes := t.passes, passNo := t.passNo, rings := t.rings, bs := t.bs, dram := t.dram, sec := t.sec, pwr := t.pwr, ports := t.ports, colls := t.colls, evt := t.evt, ras := t.ras, tst := t.tst, pcie := t.pcie, wrg := t.wrg, outbox := t.outbox } ∧
        t.cmds = [] ∧ t.spools = [] ∧ t.seqs = [] ∧ t.ports = [] ∧ t.pcie.perst = true ∧ t.pcie.linkUp = false ∧
        (noneBegun s → t.dram.mem = s.dram.mem) ∧ ∀ c, c < 64 → (t.keySlot (ctxKeySlot c)).kind = .empty) ∧
    (∀ ok, ∃ t, exec (.perstRelease ok) s = .next t ∧ t = { s with pcie := t.pcie } ∧
      t.pcie = if ok then { s.pcie with perst := false } else s.pcie) ∧
    (∃ t, exec .aonSupplyLoss s = .next t ∧ t = { s with regs := t.regs, latch := t.latch, draws := t.draws, cores := t.cores, chans := t.chans, shm := t.shm, shmPatrol := t.shmPatrol, parts := t.parts, cmds := t.cmds, ctxs := t.ctxs, spools := t.spools, seqs := t.seqs, pages := t.pages, used := t.used, models := t.models, hostGran := t.hostGran, store := t.store, passes := t.passes, passNo := t.passNo, rings := t.rings, bs := t.bs, dram := t.dram, sec := t.sec, aon := t.aon, pwr := t.pwr, ports := t.ports, colls := t.colls, evt := t.evt, ras := t.ras, tap := t.tap, tst := t.tst, pcie := t.pcie, wrg := t.wrg, outbox := t.outbox } ∧
      t.aon = { Aon.reset with supply := false } ∧ t.dram = .reset ∧ t.cmds = [] ∧ t.ports = [] ∧ t.store.ready = false ∧
      t.evt.ring = s.evt.log ∧ (∀ i, 1 ≤ i → i < 128 → (t.keySlot i).kind = .empty) ∧
      t.sec.alarm = false ∧ t.sec.latched = false ∧ t.sec.quarantine = false) ∧
    (s.aon.supply = false → exec .aonSupplyUp s = .next { s with aon := { Aon.reset with i3cStrap := s.tap.i3cHigh } }) ∧
    (∀ rate width, s.pcie.perst = false → s.tap.testMode = false → s.aon.groups = 5 → (rate = 3 ∨ rate = 4 ∨ rate = 5) →
      (width = 1 ∨ width = 4 ∨ width = 8) →
      exec (.pcieLinkUp rate width) s = .next { s with pcie := { s.pcie with linkUp := true, rate := rate, width := width } })

/-- For the host over an open link: a write of one of the selectors stores its writable bits and nothing else; a fault
record of an enabled core loses VALID by a 1 in bit 31 and keeps every other bit, except that VALID set by the device
in the same cycle (the last operand) is set afterwards (R12); STR_CORE_LIMIT-like wait limits refuse 0; the ring bases
of the selected spool are stored while its EN is 0 and dropped otherwise; a register of the management controller
keeps its value. GO of MGT_CTRL makes a known request outstanding, begins the exit from Idle where the device is in it
or turns back an entry to it, and answers an unknown operation with ST_BOUNDS. Every other register and every other
part of the state is unchanged. (Scope and Conventions, Host Interface) -/
def Obligations.RegisterWrites : Prop :=
  ∀ (s : State) (val set : Word), s.linkOpen = true →
    (∀ e ∈ [(0x10010, 0x3F), (0x10020, 0x1FF), (0x80008, 0x3F), (0x80020, 0x3FF), (0x70010, 0x1F), (0x70040, 0xF), (0x60048, 0x7FFFF),
        (0x60038, 7), (0xB0004, 0xF), (0xB0180, 0xF), (0xB0200, 7), (0xA0008, 0x7F), (0xA0010, 0x3F), (0x40000, 0xF), (0x10F04, 7),
        (0xC0010, 0xFFFFFFFF)],
      ∃ t, exec (.regWrite .host (BitVec.ofNat 24 e.1) ⟨val, set⟩) s = .next t ∧ t = { s with regs := t.regs } ∧
        t.reg e.1 = ((s.reg e.1 &&& ~~~(BitVec.ofNat 32 e.2)) ||| (val &&& BitVec.ofNat 32 e.2)) ∧
        ∀ off, off ≠ e.1 → t.reg off = s.reg off) ∧
    (∀ n r, n < s.coreCount → n < 16 → r ∈ [0x824, 0x910, 0xA0C, 0xB08, 0xC0C] →
      ∃ t, exec (.regWrite .host (BitVec.ofNat 24 (coreOff n r)) ⟨val, set⟩) s = .next t ∧ t = { s with regs := t.regs } ∧
        t.reg (coreOff n r) =
          ((if bitOf val 31 then s.reg (coreOff n r) &&& 0x7FFFFFFF else s.reg (coreOff n r)) ||| (set &&& 0x80000000)) ∧
        ∀ off, off ≠ coreOff n r → t.reg off = s.reg off) ∧
    (∀ n, n < s.coreCount → n < 16 →
      ∃ t, exec (.regWrite .host (BitVec.ofNat 24 (coreOff n 0xB18)) ⟨val, set⟩) s = .next t ∧ t = { s with regs := t.regs } ∧
        t.reg (coreOff n 0xB18) = (if getBits val 0 24 = 0 then s.reg (coreOff n 0xB18)
          else (s.reg (coreOff n 0xB18) &&& 0xFF000000) ||| (val &&& 0x00FFFFFF)) ∧
        ∀ off, off ≠ coreOff n 0xB18 → t.reg off = s.reg off) ∧
    (let e := s.selSpool
     let p := s.spool e.1 e.2
     (p.en = false →
       exec (.regWrite .host 0x10024 ⟨val, 0⟩) s = .next (s.setSpool e.1 e.2 { p with cmdLo := val }) ∧
       exec (.regWrite .host 0x10028 ⟨val, 0⟩) s = .next (s.setSpool e.1 e.2 { p with cmdHi := val }) ∧
       exec (.regWrite .host 0x1002C ⟨val, 0⟩) s = .next (s.setSpool e.1 e.2 { p with cplLo := val }) ∧
       exec (.regWrite .host 0x10030 ⟨val, 0⟩) s = .next (s.setSpool e.1 e.2 { p with cplHi := val })) ∧
     (p.en = true → ∀ off ∈ [0x10024, 0x10028, 0x1002C, 0x10030], exec (.regWrite .host off ⟨val, 0⟩) s = .next s)) ∧
    (∀ off : BitVec 24, off ∈ [0x30008, 0x3000C, 0x30010, 0x30014, 0x30028, 0xB0000, 0x50010] →
      exec (.regWrite .host off ⟨val, 0⟩) s = .next s) ∧
    (bitOf val 31 = true → bitOf val 29 = false → mgtBusy s = false → 1 ≤ mgtOp s → mgtOp s ≤ 8 → s.pwr.dev = .active ∨ s.pwr.dev = .background →
      exec (.regWrite .host 0x20000 ⟨val, 0⟩) s = .next (s.setReg 0x20000 (s.reg 0x20000 ||| 0xC0000000))) ∧
    (bitOf val 31 = true → bitOf val 29 = false → mgtBusy s = false → 1 ≤ mgtOp s → mgtOp s ≤ 8 → s.pwr.dev = .idle ∨ s.pwr.dev = .enteringIdle →
      ∃ t, exec (.regWrite .host 0x20000 ⟨val, 0⟩) s = .next t ∧
        t = { s with regs := (s.setReg 0x20000 (s.reg 0x20000 ||| 0xC0000000)).regs, pwr := t.pwr, pcie := t.pcie, outbox := t.outbox } ∧
        t.pwr = if s.pwr.dev = .idle then { s.pwr with exiting := true } else { s.pwr with dev := .active }) ∧
    (bitOf val 31 = true → bitOf val 29 = false → mgtBusy s = false → (mgtOp s = 0 ∨ 8 < mgtOp s) →
      ∃ t, exec (.regWrite .host 0x20000 ⟨val, 0⟩) s = .next t ∧ t = { s with regs := t.regs, pwr := t.pwr, pcie := t.pcie, outbox := t.outbox } ∧
        t.reg 0x20000 = 0x20000000 ∧ getBits (t.reg 0x20004) 16 16 = stBounds)

/-- Over an open link: REG_READ_CLEAR of a register whose fields a read clears returns its value and leaves the increment
of the same cycle alone; LATCHING_READ of a core's beat or block count returns the low half and latches the high half;
EVT_DATA0_READ returns the first word of the selected record and latches the other seven, with GONE telling whether it
is held. BAR0_BAD_ACCESS records HIF_CMD_ERR: a write is dropped, a read returns zeros. MSIX_UNMASK of a vector with a
pending message sends it. Nothing else changes. (Scope and Conventions, Host Interface, Faults, Fencing and the Event
Recorder) -/
def Obligations.RegisterReadsThatAct : Prop :=
  ∀ (s : State), s.linkOpen = true →
    (∀ (off : BitVec 24) inc, off.toNat % 4 = 0 → s.rcMask off.toNat ≠ 0 → off.toNat ≠ 0x50028 → timeCounter off.toNat = false →
      (off.toNat < 0x100000 ∨ (off.toNat - 0x100000) / 65536 < s.coreCount) →
      ∃ t, exec (.regReadClear off inc) s = .next t ∧ t = { s with regs := t.regs, outbox := t.outbox } ∧
        t.outbox = .read (toLE 4 (s.readReg off.toNat).toNat) false :: s.outbox ∧
        t.reg (s.rcKey off.toNat) = ((s.reg (s.rcKey off.toNat) &&& ~~~(s.rcMask off.toNat)) ||| (inc &&& s.rcMask off.toNat)) ∧
        ∀ o, o ≠ s.rcKey off.toNat → t.reg o = s.reg o) ∧
    (∀ n, n < s.coreCount → n < 16 →
      exec (.latchingRead (BitVec.ofNat 24 (coreOff n 0x818))) s = .next
        { s with latch := nset 0 s.latch (coreOff n 0x81C) (BitVec.ofNat 32 ((s.core n).beats.toNat / 2 ^ 32)),
                 outbox := .read (toLE 4 ((s.core n).beats.toNat % 2 ^ 32)) false :: s.outbox } ∧
      exec (.latchingRead (BitVec.ofNat 24 (coreOff n 0x904))) s = .next
        { s with latch := nset 0 s.latch (coreOff n 0x908) (BitVec.ofNat 32 ((s.core n).blocks.toNat / 2 ^ 32)),
                 outbox := .read (toLE 4 ((s.core n).blocks.toNat % 2 ^ 32)) false :: s.outbox }) ∧
    (∃ t, exec .evtData0Read s = .next t ∧ t = { s with latch := t.latch, evt := t.evt, outbox := t.outbox } ∧
      t.evt = { s.evt with gone := s.selRecord.isNone } ∧
      t.outbox = .read (toLE 4 (leAt s.selBytes 0 4)) false :: s.outbox ∧
      ∀ i, i < 7 → t.latched (0xC0024 + 4 * i) = BitVec.ofNat 32 (leAt s.selBytes (4 + 4 * i) 4)) ∧
    (∀ (off : BitVec 24) size, size ≠ 4 ∨ off.toNat % 4 ≠ 0 →
      ∃ t u, exec (.bar0BadAccess true off size) s = .next t ∧ exec (.bar0BadAccess false off size) s = .next u ∧
        t = { s with regs := t.regs, evt := t.evt, ras := t.ras, pcie := t.pcie, outbox := t.outbox } ∧ logged t 0x0B02 srcHif 0 (regCopy (t.reg 0x10040) 0x10040) ∧
        (bitOf (s.reg 0x10040) 31 = false → t.reg 0x10040 = 0xB0000000) ∧
        u = { t with outbox := .read (List.replicate size 0) false :: t.outbox }) ∧
    (∀ vec : BitVec 7, nget false s.pcie.pba vec.toNat = true →
      ∃ t, exec (.msixUnmask vec) s = .next t ∧ t = { s with regs := t.regs, pcie := t.pcie, outbox := t.outbox } ∧
        t.reg (msixCtl vec.toNat) = 0 ∧ (∀ off, off ≠ msixCtl vec.toNat → t.reg off = s.reg off) ∧
        nget false t.pcie.pba vec.toNat = false ∧ t.outbox = .msix vec.toNat :: s.outbox)

/-- Over an open link, outside quarantine and with the controller READY: a BAR2_WRITE of bytes inside one clean keyed line
of a window that permits it stores them, and the same range read back through BAR2_READ returns them; and each starts
the idle time of the channel again; an access that no window permits is recorded as BAR2_REFUSED, stores nothing and
reads zeros. In quarantine a permitted read returns zeros and a permitted write is dropped, with no record (log entry
71). Before the controller is READY a permitted read completes with bytes that the manual leaves open (log entry 71).
(Host Interface, Security and Context Isolation, DRAM Controller) -/
def Obligations.Bar2ReachesPermittedDram : Prop :=
  ∀ (s : State) (off : BitVec 36) (ide : Bool), s.linkOpen = true →
    (∀ (c tag : Nat) (data : List Byte), s.sec.quarantine = false → s.dram.ready = true → data ≠ [] →
      off.toNat % 64 + data.length ≤ 64 → s.bar2Ctx true off.toNat data.length ide = some c →
      s.bar2Ctx false off.toNat data.length ide = some c → s.lineTag c (64 * (off.toNat / 64)) = some tag →
      s.dram.linePoison (off.toNat / 64) = false →
      ∃ t u, exec (.bar2Write off data ide) s = .next t ∧ t = { s with dram := t.dram } ∧
        exec (.bar2Read off data.length ide) t = .next u ∧
        u = { t with outbox := .read data false :: t.outbox
                     dram := { t.dram with lastReq := u.dram.lastReq, selfRef := u.dram.selfRef } } ∧
        nget 0 t.dram.lastReq (lineAddr (off.toNat / 64)).ch = s.us ∧ nget 0 u.dram.lastReq (lineAddr (off.toNat / 64)).ch = t.us ∧
        (s.dram.uncleared (64 * (off.toNat / 64)) = false → ∀ x, x / 64 ≠ off.toNat / 64 → t.dram.mem.byte x = s.dram.mem.byte x)) ∧
    (∀ (data : List Byte), s.bar2Ctx true off.toNat data.length ide = none →
      ∃ t, exec (.bar2Write off data ide) s = .next t ∧ t = { s with regs := t.regs, evt := t.evt, ras := t.ras, pcie := t.pcie, outbox := t.outbox } ∧
        logged t 0x0208 srcHif 0 (toLE 8 off.toNat ++ [1])) ∧
    (∀ len, s.bar2Ctx false off.toNat len ide = none →
      ∃ t, exec (.bar2Read off len ide) s = .next t ∧ t = { s with regs := t.regs, evt := t.evt, ras := t.ras, pcie := t.pcie, outbox := t.outbox } ∧
        logged t 0x0208 srcHif 0 (toLE 8 off.toNat ++ [0]) ∧ (∃ more, t.outbox = .read (List.replicate len 0) false :: more)) ∧
    (∀ (c : Nat) (data : List Byte), s.sec.quarantine = true → s.bar2Ctx true off.toNat data.length ide = some c → exec (.bar2Write off data ide) s = .next s) ∧
    (∀ (c len : Nat), s.sec.quarantine = true → s.bar2Ctx false off.toNat len ide = some c →
      exec (.bar2Read off len ide) s = .next { s with outbox := .read (List.replicate len 0) false :: s.outbox }) ∧
    (∀ (c len : Nat), s.sec.quarantine = false → s.dram.ready = false → s.bar2Ctx false off.toNat len ide = some c →
      ∃ d : List Byte, d.length = len ∧ ∃ t, exec (.bar2Read off len ide) s = .next t ∧
        t = { s with draws := t.draws, outbox := .read d false :: s.outbox })

/-- Over an open link. DOORBELL of an enabled spool of an enabled context with an index below its size sets the tail and
gives the new entries their doorbell places; of a disabled one it records HIF_CMD_ERR and moves nothing. Either turns
an entry to Idle back and begins the exit from Idle (R445). COMMAND_FETCH reads the 64 bytes at the entry address,
holds them with their PHASE where no command of that index is held, and moves the head, changing PHASE with the lap;
an opcode of no table ends with ST_BOUNDS; a host read error halts the spool. DB_ABORT ends a command that has not
started with ST_ABORTED. Every other spool, command and part of the state is unchanged. (Host Interface: Contexts and
spools) -/
def Obligations.SpoolsFetchAndAbort : Prop :=
  ∀ (s : State) (ctx : BitVec 6) (sp : BitVec 3), s.linkOpen = true →
    (∀ val : Word, (s.ctx ctx.toNat).en = true → (s.spool ctx.toNat sp.toNat).en = true →
      val.toNat % 4096 < (s.spool ctx.toNat sp.toNat).size →
      ∃ t, exec (.doorbell ctx sp val) s = .next t ∧
        t = { s with orders := t.orders, spools := t.spools, pwr := t.pwr, pcie := t.pcie, outbox := t.outbox } ∧
        (s.pwr.dev = .active ∨ s.pwr.dev = .background → t.pwr = s.pwr ∧ t.pcie = s.pcie ∧ t.outbox = s.outbox) ∧
        (s.pwr.dev = .enteringIdle → t.pwr = { s.pwr with dev := .active } ∧ t.pcie = s.pcie ∧ t.outbox = s.outbox) ∧
        (s.pwr.dev = .idle → t.pwr = { s.pwr with exiting := true } ∧ t.pcie = { s.pcie with clkreq := true }) ∧
        t.spool ctx.toNat sp.toNat = { s.spool ctx.toNat sp.toNat with
          tail := BitVec.ofNat 12 (val.toNat % 4096), doors := (t.spool ctx.toNat sp.toNat).doors } ∧
        doorCount (t.spool ctx.toNat sp.toNat).doors = (s.spool ctx.toNat sp.toNat).upTo (val.toNat % 4096) ∧
        ∀ c p, p < 8 → (c ≠ ctx.toNat ∨ p ≠ sp.toNat) → t.spool c p = s.spool c p) ∧
    (∀ val, (s.ctx ctx.toNat).en = false ∨ (s.spool ctx.toNat sp.toNat).en = false →
      ∃ t, exec (.doorbell ctx sp val) s = .next t ∧ t = { s with regs := t.regs, pwr := t.pwr, evt := t.evt, ras := t.ras, pcie := t.pcie, outbox := t.outbox } ∧
        logged t 0x0B02 srcHif 0 (regCopy (t.reg 0x10040) 0x10040)) ∧
    (∀ (bytes : List Byte) d, s.fetches ctx.toNat sp.toNat = true → nextDoor (s.spool ctx.toNat sp.toNat).doors = some d →
      let p := s.spool ctx.toNat sp.toNat
      let ref : CmdRef := { ctx := ctx, spool := sp, idx := p.head }
      s.cmd? ref = none → ∃ t, exec (.commandFetch ctx sp (.ok bytes)) s = .next t ∧ t = { s with regs := t.regs, cmds := t.cmds, spools := t.spools, seqs := t.seqs, pages := t.pages, used := t.used, evt := t.evt, ras := t.ras, pcie := t.pcie, outbox := t.outbox } ∧
        t.spool ctx.toNat sp.toNat = { p with
          head := if p.head.toNat + 1 = p.size then 0 else p.head + 1,
          phase := if p.head.toNat + 1 = p.size then !p.phase else p.phase,
          doors := d.2 } ∧
        (∀ c q, q < 8 → (c ≠ ctx.toNat ∨ q ≠ sp.toNat) → t.spool c q = s.spool c q) ∧
        cmdsElse s t ref ∧ .hostRead (p.entryAddr p.head.toNat) 64 ∈ t.outbox ∧
        ∃ k, t.cmd? ref = some k ∧ k.bytes = padTo 64 bytes ∧ k.phase = p.phase ∧
          (k.op ∈ knownOps → k.stage = .fetched) ∧
          (k.op ∉ knownOps → s.sec.quarantine = false → s.ras.deviceFault = false → k.stage = .ended ∧ k.status.toNat = stBounds)) ∧
    (s.fetches ctx.toNat sp.toNat = true →
      ∃ t, exec (.commandFetch ctx sp .error) s = .next t ∧ t = { s with regs := t.regs, cmds := t.cmds, spools := t.spools, seqs := t.seqs, pages := t.pages, used := t.used, evt := t.evt, ras := t.ras, pcie := t.pcie, outbox := t.outbox } ∧
        t.spool ctx.toNat sp.toNat = { s.spool ctx.toNat sp.toNat with halted := true, fetchErr := true } ∧ t.cmds = s.cmds ∧
        logged t 0x0B02 srcHif 0 (regCopy (t.reg 0x10040) 0x10040)) ∧
    (∀ (val : Word) k, let ref : CmdRef := { ctx := ctx, spool := BitVec.ofNat 3 (getBits val 16 3), idx := BitVec.ofNat 12 (getBits val 0 12) }
      (s.ctx ctx.toNat).en = true → s.cmd? ref = some k → s.affected k.ref.ctx k.ref.spool = false →
      k.stage = .fetched ∨ k.stage = .waiting ∨ k.stage = .placing →
      ∃ t, exec (.dbAbort ctx val) s = .next t ∧ t = { s with regs := t.regs, cores := t.cores, chans := t.chans, cmds := t.cmds, seqs := t.seqs, pages := t.pages, used := t.used, models := t.models, hostGran := t.hostGran, store := t.store, passes := t.passes, passNo := t.passNo, rings := t.rings, ports := t.ports, evt := t.evt, ras := t.ras, pcie := t.pcie, outbox := t.outbox } ∧ endedAs t ref stAborted ∧ cmdsElse s t ref)

/-- Over an open link. SPOOL_ENABLE of a disabled spool with 4 KiB aligned bases and LOG2SIZE from 4 to 12 sets EN, the
size, head and tail 0 and PHASE 1. CONTEXT_ENABLE sets EN and, with nothing in flight, CLASS; a context without a key
gets a generated one and is open. FETCH_ERR is cleared by a 1, and stays set where a fetch error of the same cycle
sets it (R12). SPOOL_DISABLE and CONTEXT_DISABLE clear EN and end every command of the spool or context that has not
started with ST_ABORTED; other contexts' commands stay. Other spools and contexts are unchanged. (Host Interface:
Contexts and spools, Security and Context Isolation: Context keys, windows and the host) -/
def Obligations.ContextsAndSpoolsSwitchOnAndOff : Prop :=
  ∀ (s : State) (val set : Word), s.linkOpen = true →
    (let e := s.selSpool
     let p := s.spool e.1 e.2
     bitOf val 31 = true → p.en = false → p.cmdLo.toNat % 4096 = 0 → p.cplLo.toNat % 4096 = 0 →
     4 ≤ getBits val 0 4 → getBits val 0 4 ≤ 12 →
     exec (.spoolEnable ⟨val, set⟩) s = .next (s.setSpool e.1 e.2 { p with
       en := true, halted := false, fetchErr := p.fetchErr && !bitOf val 29, log2 := BitVec.ofNat 4 (getBits val 0 4),
       head := 0, tail := 0, phase := true, doors := [] })) ∧
    (let e := s.selSpool
     let p := s.spool e.1 e.2
     bitOf val 31 = false → p.en = true →
     ∃ t, exec (.spoolDisable ⟨val, set⟩) s = .next t ∧ t = { s with regs := t.regs, cmds := t.cmds, spools := t.spools, seqs := t.seqs, pages := t.pages, used := t.used, models := t.models, hostGran := t.hostGran, store := t.store, passes := t.passes, passNo := t.passNo, rings := t.rings, evt := t.evt, ras := t.ras, pcie := t.pcie, outbox := t.outbox } ∧
       t.spool e.1 e.2 = { p with en := false, halted := false, doors := [], fetchErr := (p.fetchErr && !bitOf val 29) || (bitOf set 29 && s.fetches e.1 e.2) } ∧
       (∀ c q, q < 8 → e.2 < 8 → (c ≠ e.1 ∨ q ≠ e.2) → t.spool c q = s.spool c q) ∧
       (∀ k ∈ s.cmds, k.ref.ctx.toNat = e.1 → k.ref.spool.toNat = e.2 → k.stage ≠ .started → k.stage ≠ .ended →
         endedAs t k.ref stAborted) ∧
       ∀ k ∈ s.cmds, (k.ref.ctx.toNat ≠ e.1 ∨ k.ref.spool.toNat ≠ e.2) → k ∈ t.cmds) ∧
    (let c := s.selCtx
     bitOf val 31 = true → (s.ctx c).en = false → s.inflight c = 0 → (s.keySlot (8 + c)).kind = .empty →
     ∃ t, exec (.contextEnable val) s = .next t ∧ t = { s with regs := t.regs, ctxs := t.ctxs, sec := t.sec, tst := t.tst } ∧
       (s.tst.running = false → t.regs = s.regs ∧ t.tst = s.tst) ∧
       (s.tst.running = true → s.tst.iface = 2 ∨ s.tst.iface = 3 → t.tst.running = false ∧ bitOf (t.reg tstCtrl) 29 = true) ∧
       t.ctx c = { s.ctx c with
         en := true, cls := bitOf val 30, sealed_ := false, hostrw := true, idereq := false, ulink := false } ∧
       (∀ m, m ≠ c → t.ctx m = s.ctx m) ∧ (t.keySlot (8 + c)).kind = .context ∧
       (t.keySlot (8 + c)).gen = (s.keySlot (8 + c)).gen + 1 ∧ ∀ i, i ≠ 8 + c → t.keySlot i = s.keySlot i) ∧
    (let c := s.selCtx
     bitOf val 31 = true → (s.keySlot (8 + c)).kind ≠ .empty → s.tst.running = false ∨ (s.ctx c).en = true →
     exec (.contextEnable val) s = .next (s.setCtx c { s.ctx c with
       en := true,
       cls := if (s.ctx c).en = false ∧ s.inflight c = 0 then bitOf val 30 else (s.ctx c).cls })) ∧
    (let c := s.selCtx
     bitOf val 31 = false →
     ∃ t, exec (.contextDisable val) s = .next t ∧ t = { s with regs := t.regs, cmds := t.cmds, ctxs := t.ctxs, seqs := t.seqs, pages := t.pages, used := t.used, models := t.models, hostGran := t.hostGran, store := t.store, passes := t.passes, passNo := t.passNo, rings := t.rings, evt := t.evt, ras := t.ras, pcie := t.pcie, outbox := t.outbox } ∧
       (t.ctx c).en = false ∧ (t.ctx c).admin = (s.ctx c).admin ∧ (t.ctx c).sealed_ = (s.ctx c).sealed_ ∧
       (∀ m, m ≠ c → t.ctx m = s.ctx m) ∧
       (∀ k ∈ s.cmds, k.ref.ctx.toNat = c → k.stage ≠ .started → k.stage ≠ .ended → endedAs t k.ref stAborted) ∧
       ∀ k ∈ s.cmds, k.ref.ctx.toNat ≠ c → k ∈ t.cmds)

/-- COMMAND_END of an ended command, with no DEVICE fault and no emergency, writes its record to the completion ring entry
of its index and the command is held no longer: TAG, STATUS, IDX, SPOOL, PHASE and RESULT stand at the offsets of the
completion record, and an unmasked vector 4 + context is sent after it. A started RUN whose cores have ended their
parts, in a state that holds no index twice, ends first, with the worst of its cores' codes, or ST_SATURATED or ST_OK
when there is none; its record carries that status. NOP ends with ST_OK when its spool's earlier commands have ended.
(Host Interface: Completion records, Core Instruction Set: Exceptions and the end of a command, Scope and Conventions) -/
def Obligations.CommandsEndWithTheirRecords : Prop :=
  ∀ (s : State) (r : CmdRef) (k : Cmd), s.cmd? r = some k →
    let ring := (s.spool r.ctx.toNat r.spool.toNat).cplLo.toNat + 2 ^ 32 * (s.spool r.ctx.toNat r.spool.toNat).cplHi.toNat +
      32 * r.idx.toNat
    (s.ras.deviceFault = false → s.aon.seq ≠ .emergency → k.stage = .ended → k.status ≠ 1 → s.sec.destroyWait = none →
      bitOf (s.reg (msixCtl (4 + r.ctx.toNat))) 0 = false →
      exec (.commandEnd r) s = .next { s with
        cmds := s.cmds.eraseP (fun j => j.ref = r), outbox := .msix (4 + r.ctx.toNat) :: .hostWrite ring k.record :: s.outbox } ∧
      k.record.length = 32 ∧ leAt k.record 0 2 = k.tag ∧ leAt k.record 2 2 = k.status.toNat ∧ leAt k.record 4 2 = r.idx.toNat ∧
      leAt k.record 6 1 = r.spool.toNat ∧ leAt k.record 7 1 = boolNat k.phase ∧ leAt k.record 8 8 = k.result.toNat ∧
      leAt k.record 25 1 = k.op) ∧
    (s.ras.deviceFault = false → s.aon.seq ≠ .emergency → k.stage = .started → k.isRun = true → s.coresOf r = [] →
      s.affected r.ctx r.spool = false → (s.cmds.map Cmd.ref).Nodup →
      ∃ t rec, exec (.commandEnd r) s = .next t ∧ t = { s with regs := t.regs, draws := t.draws, cores := t.cores, chans := t.chans, shm := t.shm, cmds := t.cmds, ctxs := t.ctxs, seqs := t.seqs, pages := t.pages, used := t.used, models := t.models, hostGran := t.hostGran, store := t.store, passes := t.passes, passNo := t.passNo, rings := t.rings, dram := t.dram, sec := t.sec, ports := t.ports, evt := t.evt, ras := t.ras, pcie := t.pcie, outbox := t.outbox } ∧ t.cmd? r = none ∧ cmdsElse s t r ∧
        .hostWrite ring rec ∈ t.outbox ∧ rec.length = 32 ∧ leAt rec 2 2 = worst (s.runConds k) % 65536 ∧
        (k.codes = [] → k.forced = [] → k.cut = false → leAt rec 2 2 = 0 ∨ leAt rec 2 2 = stSaturated)) ∧
    (hostReady s r 0 k → s.allEnded k = true → k.u 1 1 < 2 → allZero (k.bytes.drop 4) = true →
      ∃ t, exec (.cmdNop r) s = .next t ∧ t = { s with regs := t.regs, cmds := t.cmds, seqs := t.seqs, pages := t.pages, used := t.used, evt := t.evt, ras := t.ras, pcie := t.pcie, outbox := t.outbox } ∧ endedAs t r stOk ∧ cmdsElse s t r)

/-- RUN, ready and in order, with a permitted format and no failure of stage 2, waits with its slot; a stage 2 failure
ends it with its code. RUN_START of a waiting RUN that nothing holds and whose KV start succeeds: every core of its
entry's gangs is cleared unless it served the context last and, without argument data, runs from its start word with
tk0 set, g1 at the argument block, g2 its number and g3 the context with its class, and the RUN has started; with
argument data the device asks the host for it first. (Host Interface: Commands, Core Instruction Set: Registers, On-
Chip Memory: Clearing on a change of context, KV Cache Paging: Commands and the commit point) -/
def Obligations.RunIsCheckedAndStarted : Prop :=
  ∀ (s : State) (r : CmdRef) (k : Cmd),
    (hostReady s r 1 k → runFormatOk k = true → (if k.rOrder then s.allEnded k else s.allBegun k) = true →
      (s.runStage2 k = none → ∃ t, exec (.run r) s = .next t ∧ t = { s with cmds := t.cmds } ∧ cmdsElse s t r ∧
        t.cmd? r = some { k with stage := .waiting, slot := BitVec.ofNat 3 k.rSlot }) ∧
      (∀ code, s.runStage2 k = some code → code < 65536 → ∃ t, exec (.run r) s = .next t ∧ t = { s with regs := t.regs, cmds := t.cmds, seqs := t.seqs, pages := t.pages, used := t.used, evt := t.evt, ras := t.ras, pcie := t.pcie, outbox := t.outbox } ∧ endedAs t r code ∧ cmdsElse s t r)) ∧
    (s.cmd? r = some k → k.isRun = true → k.stage = .waiting → serving s → s.slotOk k = true → s.modelOk k = true →
      let b := (s.bsSlot k.rSlot).image
      let cores := entryCores b k.rEntry
      let s1 := s.take k
      let s0 := if (entryOf b k.rEntry).sched ≠ 0xFF then s1.noteChecked k.rSlot k.rModel (entryOf b k.rEntry).sched else s1
      s.keyOk k.rModel r.ctx.toNat (bsKeyId b) = true → s.anyCore cores Core.isRetired = false → s.mayTake k = true →
      s1.runHeld k = false → ((entryOf b k.rEntry).sched ≠ 0xFF → s1.passOk k.rSlot k.rModel (entryOf b k.rEntry).sched = true) →
      (s0.kvStart r k.rSeqs).1 = true → (s0.keyTag (8 + r.ctx.toNat)).isSome = true →
      ∃ t, exec (.runStart r) s = .next t ∧ t = { s with regs := t.regs, cores := t.cores, chans := t.chans, shm := t.shm, parts := t.parts, cmds := t.cmds, seqs := t.seqs, pages := t.pages, used := t.used, models := t.models, hostGran := t.hostGran, store := t.store, passes := t.passes, passNo := t.passNo, rings := t.rings, bs := t.bs, dram := t.dram, ports := t.ports, evt := t.evt, ras := t.ras, pcie := t.pcie, outbox := t.outbox } ∧ cmdsElse s t r ∧
        (∃ k1, t.cmd? r = some k1 ∧ k1.cores = cores ∧ k1.stage = (if k.rArgLen = 0 then .started else .placing)) ∧
        (k.rArgLen ≠ 0 → ∃ more, t.outbox = .hostRead k.rArgAddr k.rArgLen :: more) ∧
        (∀ n, n < 16 → cores.getLsbD n = true →
          (t.core n).owner = some r.ctx ∧
          ((s.core n).owner ≠ some r.ctx → (t.core n).cmem = .zero ∧ (t.core n).bufA = .zero ∧ (t.core n).bufB = .zero ∧
            (t.core n).bufD = .zero ∧ (t.core n).v = [] ∧ (t.core n).acc = [] ∧ (t.core n).tiles = []) ∧
          ((s.core n).owner = some r.ctx → (t.core n).cmem = (s.core n).cmem ∧ (t.core n).acc = (s.core n).acc) ∧
          (k.rArgLen = 0 →
            (t.core n).run = true ∧ (t.core n).cmd = some r ∧ (t.core n).front = .running ∧ (t.core n).code = none ∧
            (t.core n).pc.toNat = startWord b k.rEntry n % 16384 ∧ (t.core n).tacks = 1 ∧ (t.core n).sat = false ∧
            (t.core n).gr 1 = BitVec.ofNat 64 (0x1000000 + ((argArea b).getD 0 + 4096 * k.rEntry)) ∧
            (t.core n).gr 2 = BitVec.ofNat 64 n ∧
            (t.core n).gr 3 = BitVec.ofNat 64 (r.ctx.toNat + (if (s.ctx r.ctx.toNat).cls then 256 else 0)) ∧
            ∀ g : BitVec 5, 3 < g.toNat → (t.core n).gr g = 0)) ∧
        ∀ n, n < 16 → cores.getLsbD n = false → t.core n = s.core n) ∧
    (∀ d, s.cmd? r = some k → k.isRun = true → k.stage = .placing → k.host = some (.ok d) → serving s → s.anyCore k.cores Core.isRetired = false →
      s.anyCore k.cores Core.isTesting = false →
      ∃ t, exec (.runStart r) s = .next t ∧ t = { s with cores := t.cores, shm := t.shm, cmds := t.cmds } ∧ cmdsElse s t r ∧
        t.cmd? r = some { k with stage := .started, begin_ := s.us } ∧
        (∀ n, n < 16 → k.cores.getLsbD n = true → (t.core n).run = true ∧ (t.core n).cmd = some r ∧ (t.core n).front = .running) ∧
        ∀ n, n < 16 → k.cores.getLsbD n = false → t.core n = s.core n)

/-- A ready sequence operation of an enabled allocator, next in its spool, with a permitted format and no busy sequence:
CREATE makes a FREE slot LIVE with length 0 and the shape of its fields, provided its pool is the context's and its
table lies in a table window; FORK gives a FREE slot the first rows of a LIVE source with every DIRTY set and a
reference more on each page; TRUNCATE keeps the rows below its length and DROP frees the slot, both releasing
references, and neither waits for a RUN: a started RUN that holds the slot is marked to end with ST_ABORTED, one not
started ends so at once. The command ends with ST_OK; CREATE of a slot that is not FREE ends with ST_BOUNDS. Every
other slot and command is unchanged, but for the RUN so cut and what it held. (KV Cache Paging: Sequence operations,
KV Cache Paging: Sharing, pins and release, Host Interface) -/
def Obligations.SequenceOperations : Prop :=
  ∀ (s : State) (r : CmdRef) (k : Cmd), s.kvEnabled = true → s.allEnded k = true →
    (hostReady s r 0x10 k → createOk k = true → s.mayTake k = true →
      ((s.seq (k.u 4 2)).st = .free → k.u 6 1 % 4 = s.budgetPool r.ctx.toNat →
        s.inTableWindow r.ctx.toNat (k.u 0x10 8) (64 + k.u 0xA 2 * ((64 + 8 * k.u 8 2 + 63) / 64 * 64)) = true →
        ∃ t, exec (.create r) s = .next t ∧ t = { s with regs := t.regs, cmds := t.cmds, seqs := t.seqs, pages := t.pages, used := t.used, dram := t.dram, evt := t.evt, ras := t.ras, pcie := t.pcie, outbox := t.outbox } ∧ endedAs t r stOk ∧ cmdsElse s t r ∧ seqsElse s t r (k.u 4 2) ∧
          t.seq (k.u 4 2) = { Seq.free with
            st := .live, ctx := r.ctx, pool := BitVec.ofNat 2 (k.u 6 1), streams := k.u 8 2, pref := k.u 7 1,
            maxrows := k.u 0xA 2, table := k.u 0x10 8 }) ∧
      ((s.seq (k.u 4 2)).st ≠ .free →
        ∃ t, exec (.create r) s = .next t ∧ t = { s with regs := t.regs, cmds := t.cmds, seqs := t.seqs, pages := t.pages, used := t.used, dram := t.dram, evt := t.evt, ras := t.ras, pcie := t.pcie, outbox := t.outbox } ∧ endedAs t r stBounds ∧ cmdsElse s t r ∧
          ∀ m, (s.seq m).busy ≠ some r → t.seq m = s.seq m)) ∧
    (hostReady s r 0x11 k → forkOk k = true → s.mayTake k = true → (s.seq (k.u 4 2)).st = .free →
      let src := s.seq (k.u 6 2)
      let rows := (src.rows.filter (fun x => x.start < k.u 8 4)).map (fun x =>
        { x with pages := x.pages.map (fun p => { p with dirty := true }) })
      let q : Seq := { src with
        v := k.u 8 4, maxrows := k.u 0xC 2, table := k.u 0x10 8, rows := rows, host := 0, img := 0, busy := none }
      src.st = .live → src.ctx = r.ctx → k.u 8 4 ≤ src.v → rows.length ≤ k.u 0xC 2 →
      s.inTableWindow r.ctx.toNat (k.u 0x10 8) q.tableBytes = true →
      ∃ t, exec (.fork r) s = .next t ∧ t = { s with regs := t.regs, cmds := t.cmds, seqs := t.seqs, pages := t.pages, used := t.used, dram := t.dram, evt := t.evt, ras := t.ras, pcie := t.pcie, outbox := t.outbox } ∧ endedAs t r stOk ∧ cmdsElse s t r ∧ seqsElse s t r (k.u 4 2) ∧
        t.seq (k.u 4 2) = q ∧ ∀ key, (t.page key).refs = (s.page key).refs + timesIn key q.pageIds) ∧
    (hostReady s r 0x12 k → truncateOk k = true → s.slotTransfer (k.u 4 2) = false → (s.seq (k.u 4 2)).st = .live →
      (s.seq (k.u 4 2)).ctx = r.ctx → k.u 8 4 ≤ (s.seq (k.u 4 2)).v →
      ∃ t, exec (.truncate r) s = .next t ∧ t = { s with regs := t.regs, cmds := t.cmds, seqs := t.seqs, pages := t.pages, used := t.used, models := t.models, hostGran := t.hostGran, store := t.store, passes := t.passes, passNo := t.passNo, rings := t.rings, dram := t.dram, evt := t.evt, ras := t.ras, pcie := t.pcie, outbox := t.outbox } ∧ endedAs t r stOk ∧ cutFrame s t r (k.u 4 2) ∧
        t.seq (k.u 4 2) = { s.seq (k.u 4 2) with
          v := k.u 8 4, rows := (s.seq (k.u 4 2)).rows.filter (fun x => x.start < k.u 8 4), busy := (t.seq (k.u 4 2)).busy } ∧
        ∀ key, (t.page key).refs = (s.page key).refs -
          timesIn key { s.seq (k.u 4 2) with rows := (s.seq (k.u 4 2)).rows.filter (fun x => k.u 8 4 ≤ x.start) }.pageIds) ∧
    (hostReady s r 0x13 k → slotOnlyOk k = true → s.slotTransfer (k.u 4 2) = false → (s.seq (k.u 4 2)).ctx = r.ctx →
      ((s.seq (k.u 4 2)).st = .live ∨ (s.seq (k.u 4 2)).st = .evicted) →
      ∃ t, exec (.drop r) s = .next t ∧ t = { s with regs := t.regs, cmds := t.cmds, seqs := t.seqs, pages := t.pages, used := t.used, models := t.models, hostGran := t.hostGran, store := t.store, passes := t.passes, passNo := t.passNo, rings := t.rings, evt := t.evt, ras := t.ras, pcie := t.pcie, outbox := t.outbox } ∧ endedAs t r stOk ∧ cutFrame s t r (k.u 4 2) ∧
        t.seq (k.u 4 2) = Seq.free ∧
        ∀ key, (t.page key).refs = (s.page key).refs -
          (if (s.seq (k.u 4 2)).st = .live then timesIn key (s.seq (k.u 4 2)).pageIds else 0))

/-- A ready WRITEBACK or EVICT of the context's LIVE sequence whose image fits its host area, under a context key and
without poison, sends the image (the encrypted table last), ends with ST_OK and the image's bytes as its RESULT; after
WRITEBACK the copied pages are clean and the sequence stays LIVE with its length, after EVICT it is EVICTED, keeps its
length and holds no page. RESTORE of an EVICTED sequence, under a context key, asks the host for the whole image and
starts; once its rows are allocated the sequence is LIVE with them, DIRTY where a row was split. A host read error
ends it with ST_UNCORRECTABLE and the slot stays EVICTED. Every other slot and command is unchanged. (KV Cache Paging:
Write-back to the host tier, KV Cache Paging: Sequence operations) -/
def Obligations.SequencesMoveToTheHost : Prop :=
  ∀ (s : State) (r : CmdRef) (k : Cmd), s.kvEnabled = true → s.allEnded k = true →
    (∀ bytes s1, hostReady s r 0x14 k → writebackOk k = true → s.mayTake k = true → s.isLive k (k.u 4 2) = true →
      s.imageFits (k.u 4 2) (k.u 0x10 8) = true → (s.keyTag (8 + r.ctx.toNat)).isSome = true →
      s.writeBack (k.u 4 2) (k.u 8 8) (decide (k.u 6 1 = 1)) = some (bytes, s1) →
      ∃ t, exec (.writeback r) s = .next t ∧ t = { s with regs := t.regs, cmds := t.cmds, seqs := t.seqs, pages := t.pages, used := t.used, dram := t.dram, evt := t.evt, ras := t.ras, pcie := t.pcie, outbox := t.outbox } ∧ endedAs t r stOk ∧ cmdsElse s t r ∧ seqsElse s t r (k.u 4 2) ∧
        (∀ j, t.cmd? r = some j → j.result = BitVec.ofNat 64 bytes) ∧
        (t.seq (k.u 4 2)).st = .live ∧ (t.seq (k.u 4 2)).v = (s.seq (k.u 4 2)).v ∧
        (t.seq (k.u 4 2)).rows = (s.seq (k.u 4 2)).rows.map (fun x =>
          { x with pages := x.pages.map (fun p => if k.u 6 1 = 1 ∨ p.dirty = true then { p with dirty := false } else p) }) ∧
        let off := imageBytes (s.pool (s.seq (k.u 4 2)).pool.toNat) (s.seq (k.u 4 2)).rows
        .hostWrite (k.u 8 8 + off) (imageCrypt xtsEncrypt (s.keySlot (8 + (s.seq (k.u 4 2)).ctx.toNat)).bytes (k.u 4 2) off
          (s1.tableOf (s1.seq (k.u 4 2)))) ∈ t.outbox) ∧
    (∀ bytes s1, hostReady s r 0x15 k → evictOk k = true → s.mayTake k = true → s.isLive k (k.u 4 2) = true →
      s.imageFits (k.u 4 2) (k.u 0x10 8) = true → (s.keyTag (8 + r.ctx.toNat)).isSome = true →
      s.writeBack (k.u 4 2) (k.u 8 8) false = some (bytes, s1) →
      ∃ t, exec (.evict r) s = .next t ∧ t = { s with regs := t.regs, cmds := t.cmds, seqs := t.seqs, pages := t.pages, used := t.used, dram := t.dram, evt := t.evt, ras := t.ras, pcie := t.pcie, outbox := t.outbox } ∧ endedAs t r stOk ∧ cmdsElse s t r ∧ seqsElse s t r (k.u 4 2) ∧
        (∀ j, t.cmd? r = some j → j.result = BitVec.ofNat 64 bytes) ∧
        (t.seq (k.u 4 2)).st = .evicted ∧ (t.seq (k.u 4 2)).v = (s.seq (k.u 4 2)).v ∧ (t.seq (k.u 4 2)).host = k.u 8 8 ∧
        (∀ x ∈ (t.seq (k.u 4 2)).rows, x.pages = []) ∧
        let off := imageBytes (s.pool (s.seq (k.u 4 2)).pool.toNat) (s.seq (k.u 4 2)).rows
        .hostWrite (k.u 8 8 + off) (imageCrypt xtsEncrypt (s.keySlot (8 + (s.seq (k.u 4 2)).ctx.toNat)).bytes (k.u 4 2) off
          (s1.tableOf (s1.seq (k.u 4 2)))) ∈ t.outbox) ∧
    (hostReady s r 0x16 k → slotOnlyOk k = true → s.mayTake k = true → k.host = none → (s.seq (k.u 4 2)).st = .evicted →
      (s.seq (k.u 4 2)).ctx = r.ctx → (s.keyTag (8 + r.ctx.toNat)).isSome = true →
      ∃ t, exec (.restore r) s = .next t ∧ t = { s with cmds := t.cmds, seqs := t.seqs, outbox := t.outbox } ∧
        t.cmd? r = some { k with stage := .started, begin_ := s.us } ∧ cmdsElse s t r ∧
        t.seq (k.u 4 2) = { s.seq (k.u 4 2) with busy := some r } ∧ (∀ m, m ≠ k.u 4 2 → t.seq m = s.seq m) ∧
        t.outbox = .hostRead (s.seq (k.u 4 2)).host ((s.seq (k.u 4 2)).img + (s.seq (k.u 4 2)).tableBytes) :: s.outbox) ∧
    (∀ d rows split s1, s.cmd? r = some k → k.op = 0x16 → k.stage = .started → serving s → k.host = some (.ok d) →
      let q := s.seq (k.u 4 2)
      let plain := imageCrypt xtsDecrypt (s.keySlot (8 + q.ctx.toNat)).bytes (k.u 4 2) 0 (padTo (q.img + q.tableBytes) d)
      let sh := s.imageShape q plain
      (s.keyTag (8 + q.ctx.toNat)).isSome = true → sh.2.2.restoreRows q sh.2.1 sh.1 0 = some (rows, split, s1) →
      rows.length ≤ q.maxrows → q.busy = some r →
      ∃ t, exec (.restore r) s = .next t ∧ t = { s with regs := t.regs, draws := t.draws, cmds := t.cmds, seqs := t.seqs, pages := t.pages, used := t.used, dram := t.dram, evt := t.evt, ras := t.ras, pcie := t.pcie, outbox := t.outbox } ∧ endedAs t r stOk ∧ cmdsElse s t r ∧ seqsElse s t r (k.u 4 2) ∧
        t.seq (k.u 4 2) = { q with st := .live, rows := (t.seq (k.u 4 2)).rows, host := 0, img := 0, busy := none } ∧
        (split = true → ∀ x ∈ (t.seq (k.u 4 2)).rows, ∀ p ∈ x.pages, p.dirty = true) ∧
        (t.seq (k.u 4 2)).rows.map (fun x => (x.start, x.z, x.pages.map (fun p => p.unit))) =
          rows.map (fun x => (x.start, x.z, x.pages.map (fun p => p.unit)))) ∧
    (s.cmd? r = some k → k.op = 0x16 → k.stage = .started → serving s → k.host = some .error → (s.seq (k.u 4 2)).busy = some r →
      (s.keyTag (8 + (s.seq (k.u 4 2)).ctx.toNat)).isSome = true →
      ∃ t, exec (.restore r) s = .next t ∧ t = { s with regs := t.regs, draws := t.draws, cmds := t.cmds, seqs := t.seqs, pages := t.pages, used := t.used, dram := t.dram, evt := t.evt, ras := t.ras, pcie := t.pcie, outbox := t.outbox } ∧ endedAs t r stUncorrectable ∧ cmdsElse s t r ∧
        seqsElse s t r (k.u 4 2) ∧ t.seq (k.u 4 2) = { s.seq (k.u 4 2) with busy := none })

/-- Over an open link: KVP_ENABLE stores ENABLE, a write of 0 only while every slot is FREE. POOL_ENABLE of a disabled
pool whose geometry is permitted and whose regions lie apart in DRAM stores its GEOM; one that does not fit sets
CFG_ERR and stores nothing. POOL_DISABLE with the same geometry and no page allocated clears EN; with pages allocated
it sets CFG_ERR. Nothing else changes. (KV Cache Paging: Registers) -/
def Obligations.AllocatorAndPoolsSwitch : Prop :=
  ∀ (s : State) (n : BitVec 2) (val : Word), s.linkOpen = true →
    (bitOf val 0 = true ∨ (∀ e ∈ s.seqs, e.2.st = .free) → exec (.kvpEnable val) s = .next (s.setReg 0x80000 (val &&& 1))) ∧
    (bitOf val 0 = false → (∃ e ∈ s.seqs, e.2.st ≠ .free) → exec (.kvpEnable val) s = .next s) ∧
    (let g := 0x80100 + 0x20 * n.toNat + 8
     let p := poolOf (s.reg (0x80100 + 0x20 * n.toNat)) (s.reg (0x80100 + 0x20 * n.toNat + 4)) (val &&& 0x8000007F)
       (s.reg (0x80100 + 0x20 * n.toNat + 12))
     let err := s.setReg 0x80004 (s.reg 0x80004 ||| 0x80000000)
     (bitOf val 31 = true → bitOf (s.reg g) 31 = false →
       (p.units % 64 = 0 → 0 < p.units → getBits val 0 2 ≠ 3 → getBits val 2 2 ≠ 3 → s.poolFits n.toNat p = true →
         exec (.poolEnable n val) s = .next (s.setReg g (val &&& 0x8000007F))) ∧
       ((p.units % 64 ≠ 0 ∨ p.units = 0 ∨ getBits val 0 2 = 3 ∨ getBits val 2 2 = 3 ∨ s.poolFits n.toNat p = false) →
         exec (.poolEnable n val) s = .next err)) ∧
     (bitOf val 31 = false → bitOf (s.reg g) 31 = true →
       (getBits (s.reg g) 0 7 = getBits val 0 7 → s.allocated n.toNat = [] →
         exec (.poolDisable n val) s = .next (s.setReg g (val &&& 0x7F))) ∧
       (getBits (s.reg g) 0 7 ≠ getBits val 0 7 ∨ s.allocated n.toNat ≠ [] → exec (.poolDisable n val) s = .next err)))

/-- Ready model commands of a context with ADMIN, next in their spool and of permitted format. MCREATE makes a FREE number
INSTALLING with its base; MEXTENT opens a fresh extent of as many stripes as asked and returns its handle; MWRITE asks
for its data and, once it is here, accepts its codewords (a single one holds its 4,096 bytes) or ends with the code of
the first refused; MSEAL of an open extent leaves every codeword accepted and the extent sealing or SEALED; MTABLE
makes the model STORED with generation 1 and its layers. A context without ADMIN gets ST_CLASS and changes nothing.
(Weight Residency and Streaming: Installing and removing, Perua Weight Store: Programming and erasing, Host Interface:
Commands) -/
def Obligations.ModelsAreInstalled : Prop :=
  ∀ (s : State) (r : CmdRef) (k : Cmd),
    (adminReady s r 0x20 k mcreateOk → (s.model (k.u 4 1)).st = .free →
      (k.u 5 1 ≠ 0xFF → s.baseReady (k.u 5 1) = true) →
      ∃ t, exec (.mcreate r) s = .next t ∧ t = { s with regs := t.regs, cmds := t.cmds, seqs := t.seqs, pages := t.pages, used := t.used, models := t.models, hostGran := t.hostGran, passes := t.passes, rings := t.rings, bs := t.bs, evt := t.evt, ras := t.ras, pcie := t.pcie, outbox := t.outbox } ∧ endedAs t r stOk ∧ cmdsElse s t r ∧
        t.model (k.u 4 1) = { Model.free with
          st := .installing, variant := decide (k.u 5 1 ≠ 0xFF), base := if k.u 5 1 = 0xFF then 0 else BitVec.ofNat 5 (k.u 5 1),
          hbase := k.u 8 8, hsize := k.u 0x10 8 } ∧
        ∀ m, m ≠ k.u 4 1 → t.model m = s.model m) ∧
    (∀ h s1, adminReady s r 0x21 k mextentOk → s.allocConds (k.u 4 1) (k.u 8 4) = [] → s.alloc (k.u 4 1) (k.u 8 4) = some (h, s1) →
      ∃ t, exec (.mextent r) s = .next t ∧ t = { s with regs := t.regs, draws := t.draws, cmds := t.cmds, seqs := t.seqs, pages := t.pages, used := t.used, store := t.store, evt := t.evt, ras := t.ras, pcie := t.pcie, outbox := t.outbox } ∧ endedAs t r stOk ∧ cmdsElse s t r ∧
        (∀ j, t.cmd? r = some j → j.result = BitVec.ofNat 64 h) ∧ (s.extent h).inUse = false ∧
        (t.extent h).st = .open_ ∧ (t.extent h).model = BitVec.ofNat 5 (k.u 4 1) ∧ (t.extent h).stripes.length = k.u 8 4 ∧
        (∀ x, x ≠ h → t.extent x = s.extent x) ∧ t.store.cws = s.store.cws) ∧
    (adminReady s r 0x22 k mwriteOk → (s.extent (k.u 4 2)).st = .open_ → k.host = none →
      ∃ t, exec (.mwrite r) s = .next t ∧ t = { s with cmds := t.cmds, outbox := t.outbox } ∧ cmdsElse s t r ∧
        t.cmd? r = some { k with stage := .started, begin_ := s.us } ∧
        t.outbox = .hostRead (k.u 0x10 8) (4096 * k.u 0xC 4) :: s.outbox) ∧
    (∀ d, s.cmd? r = some k → k.op = 0x22 → k.stage = .started → serving s → (s.extent (k.u 4 2)).st = .open_ → k.host = some (.ok d) →
      let h := k.u 4 2
      let x := s.programRun h (k.u 8 4) (s.lowestOpen h) (padTo (4096 * k.u 0xC 4) d) (k.u 0xC 4 - k.done) k.done
      (∀ code, x.2.2 = some code → code < 65536 →
        ∃ t, exec (.mwrite r) s = .next t ∧ t = { s with regs := t.regs, cmds := t.cmds, seqs := t.seqs, pages := t.pages, used := t.used, store := t.store, evt := t.evt, ras := t.ras, pcie := t.pcie, outbox := t.outbox } ∧ endedAs t r code ∧ cmdsElse s t r) ∧
      (x.2.2 = none → ∃ t, exec (.mwrite r) s = .next t ∧ t = { s with regs := t.regs, cmds := t.cmds, seqs := t.seqs, pages := t.pages, used := t.used, store := t.store, evt := t.evt, ras := t.ras, pcie := t.pcie, outbox := t.outbox } ∧ cmdsElse s t r ∧ t.cmd? r = some { k with done := x.2.1 }) ∧
      (k.u 0xC 4 = 1 → k.done = 0 → k.u 8 4 < (s.extent h).codewords → s.accepted h (k.u 8 4) = false →
        s.programWaits h (s.lowestOpen h) (k.u 8 4) = false →
        ∃ t, exec (.mwrite r) s = .next t ∧ t = { s with regs := t.regs, cmds := t.cmds, seqs := t.seqs, pages := t.pages, used := t.used, store := t.store, evt := t.evt, ras := t.ras, pcie := t.pcie, outbox := t.outbox } ∧ endedAs t r stOk ∧ cmdsElse s t r ∧ (t.codeword h (k.u 8 4)).data = bytesAt (padTo 4096 d) 0 4096 ∧
          (t.codeword h (k.u 8 4)).pad = false ∧ (t.codeword h (k.u 8 4)).programmed = false ∧
          t.store.nextSeq = s.store.nextSeq + 1 ∧ t.store.exts = s.store.exts)) ∧
    (adminReady s r 0x23 k handleOk → (s.extent (k.u 4 2)).st = .open_ →
      ∃ t, exec (.mseal r) s = .next t ∧ t = { s with regs := t.regs, draws := t.draws, cmds := t.cmds, seqs := t.seqs, pages := t.pages, used := t.used, store := t.store, evt := t.evt, ras := t.ras, pcie := t.pcie, outbox := t.outbox } ∧ cmdsElse s t r ∧
        (∀ o, o < (s.extent (k.u 4 2)).codewords → t.accepted (k.u 4 2) o = true) ∧
        ((t.extent (k.u 4 2)).st = .sealing ∧ (∃ j, t.cmd? r = some j ∧ j.stage = .started) ∨
          (t.extent (k.u 4 2)).st = .sealed_ ∧ endedAs t r stOk)) ∧
    (∀ d ds, s.cmd? r = some k → k.op = 0x24 → k.stage = .started → serving s → (s.model (k.u 4 1)).st = .installing → k.host = some (.ok d) →
      let ls := layersOf (padTo (64 * k.u 6 2) d) (k.u 6 2)
      s.layersOk (k.u 4 1) 0 ls = true → (hasStreams ls = true → s.flashMoves = true) → s.allStreams (k.u 4 1) ls = .ok ds →
      ∃ t, exec (.mtable r) s = .next t ∧ t = { s with regs := t.regs, cmds := t.cmds, seqs := t.seqs, pages := t.pages, used := t.used, models := t.models, evt := t.evt, ras := t.ras, pcie := t.pcie, outbox := t.outbox } ∧ endedAs t r stOk ∧ cmdsElse s t r ∧
        t.model (k.u 4 1) = { s.model (k.u 4 1) with st := .stored, layers := ls.map (withGen 1), gen := 1, diffs := ds } ∧
        ∀ m, m ≠ k.u 4 1 → t.model m = s.model m) ∧
    (hostReady s r 0x20 k → (s.ctx r.ctx.toNat).admin = false → mcreateOk k = true →
      ∃ t, exec (.mcreate r) s = .next t ∧ t = { s with regs := t.regs, cmds := t.cmds, seqs := t.seqs, pages := t.pages, used := t.used, models := t.models, hostGran := t.hostGran, passes := t.passes, rings := t.rings, bs := t.bs, evt := t.evt, ras := t.ras, pcie := t.pcie, outbox := t.outbox } ∧ endedAs t r stClass ∧ cmdsElse s t r ∧ t.models = s.models)

/-- MLOAD of a STORED model with no PATCH in hand and without DRAM granules makes it READY; with granules it takes a
mirror run and loads, and MIRROR_LOAD_DONE makes it READY and ends the command with ST_OK, or STORED with
ST_UNCORRECTABLE when a codeword stays uncorrectable, with nothing outside its mirror run changed, the run left
undefined (R19). MUNLOAD makes a model without passes STORED without a mirror, an MLOAD that still loads it ending
with a failure of a free code, which is the choice of the model (log entry 64), and waits for its passes otherwise.
MFREE frees a STORED model with no variant, its extents and its key binding; MXFREE frees an extent that no descriptor
names. Every other model and command is unchanged. (Weight Residency and Streaming: Where the bytes live, Perua Weight
Store: Rows, stripes and extents) -/
def Obligations.ModelsAreLoadedAndFreed : Prop :=
  ∀ (s : State) (r : CmdRef) (k : Cmd),
    (adminReady s r 0x25 k modelOnlyOk → (s.model (k.u 4 1)).st = .stored → s.patching (k.u 4 1) = false →
      ((s.model (k.u 4 1)).variant = true → s.isLoaded (s.model (k.u 4 1)).base.toNat = true) →
      (dramTotal (s.model (k.u 4 1)).layers = 0 →
        ∃ t, exec (.mload r) s = .next t ∧ t = { s with regs := t.regs, cmds := t.cmds, seqs := t.seqs, pages := t.pages, used := t.used, models := t.models, evt := t.evt, ras := t.ras, pcie := t.pcie, outbox := t.outbox } ∧ endedAs t r stOk ∧ cmdsElse s t r ∧
          t.model (k.u 4 1) = { s.model (k.u 4 1) with
            st := .ready, mir := (s.model (k.u 4 1)).layers.map (fun _ => 0), loader := none } ∧
          ∀ m, m ≠ k.u 4 1 → t.model m = s.model m) ∧
      (∀ off, dramTotal (s.model (k.u 4 1)).layers ≠ 0 → s.mirAlloc (dramTotal (s.model (k.u 4 1)).layers) = some off →
        ∃ t, exec (.mload r) s = .next t ∧ t = { s with models := t.models, cmds := t.cmds } ∧ cmdsElse s t r ∧
          t.cmd? r = some { k with stage := .started, begin_ := s.us } ∧
          t.model (k.u 4 1) = { s.model (k.u 4 1) with
            st := .loading, mir := placeLayers off (s.model (k.u 4 1)).layers, loader := some r } ∧
          ∀ m, m ≠ k.u 4 1 → t.model m = s.model m)) ∧
    (∀ (m : BitVec 5) u, (s.model m.toNat).st = .loading → (s.model m.toNat).loader = some r → s.cmd? r = some k → s.flashMoves = true →
      s.mirFill (loadsOf (s.model m.toNat).layers (s.model m.toNat).mir) = some u →
      ∃ t, exec (.mirrorLoadDone m true) s = .next t ∧ t = { s with regs := t.regs, draws := t.draws, cmds := t.cmds, seqs := t.seqs, pages := t.pages, used := t.used, models := t.models, dram := t.dram, evt := t.evt, ras := t.ras, pcie := t.pcie, outbox := t.outbox } ∧ endedAs t r stOk ∧ cmdsElse s t r ∧
        t.model m.toNat = { s.model m.toNat with st := .ready, loader := none } ∧ ∀ x, x ≠ m.toNat → t.model x = s.model x) ∧
    (∀ (m : BitVec 5), (s.model m.toNat).st = .loading → (s.model m.toNat).loader = some r → s.cmd? r = some k → s.flashMoves = true →
      s.mirFill (loadsOf (s.model m.toNat).layers (s.model m.toNat).mir) = none →
      ∃ t, exec (.mirrorLoadDone m false) s = .next t ∧ t = { s with regs := t.regs, draws := t.draws, cmds := t.cmds, seqs := t.seqs, pages := t.pages, used := t.used, models := t.models, dram := t.dram, evt := t.evt, ras := t.ras, pcie := t.pcie, outbox := t.outbox } ∧ endedAs t r stUncorrectable ∧ cmdsElse s t r ∧
        t.model m.toNat = { s.model m.toNat with st := .stored, mir := [], loader := none } ∧
        (∀ x, x ≠ m.toNat → t.model x = s.model x) ∧
        (s.dram.clearing = false → (∀ o ∈ (s.model m.toNat).mir, o % 64 = 0) →
          ∀ x, (∀ q ∈ mirRanges (s.model m.toNat).layers (s.model m.toNat).mir, ¬ inRange q.1 q.2 x) →
            t.dram.mem.byte x = s.dram.mem.byte x)) ∧
    (adminReady s r 0x26 k modelOnlyOk → s.isLoaded (k.u 4 1) = true → (∀ v ∈ s.variantsOf (k.u 4 1), s.isLoaded v = false) →
      (s.passesOf (k.u 4 1) = [] → s.patching (k.u 4 1) = false →
        ∃ t, exec (.munload r) s = .next t ∧ t = { s with regs := t.regs, draws := t.draws, cmds := t.cmds, seqs := t.seqs, pages := t.pages, used := t.used, models := t.models, dram := t.dram, evt := t.evt, ras := t.ras, pcie := t.pcie, outbox := t.outbox } ∧ endedAs t r stOk ∧
          t.model (k.u 4 1) = { s.model (k.u 4 1) with st := .stored, mir := [], loader := none } ∧
          (∀ m, m ≠ k.u 4 1 → t.model m = s.model m) ∧
          (∀ q, q ≠ r → (s.model (k.u 4 1)).loader ≠ some q → t.cmd? q = s.cmd? q) ∧
          ∀ q j, q ≠ r → (s.model (k.u 4 1)).loader = some q → s.cmd? q = some j →
            ∃ c ∈ failCodes, endedAs t q c) ∧
      (s.passesOf (k.u 4 1) ≠ [] →
        ∃ t, exec (.munload r) s = .next t ∧ t = { s with cmds := t.cmds } ∧ cmdsElse s t r ∧
          t.cmd? r = some { k with stage := .started, begin_ := s.us })) ∧
    (adminReady s r 0x27 k modelOnlyOk → (s.model (k.u 4 1)).st = .stored → s.variantsOf (k.u 4 1) = [] →
      s.patching (k.u 4 1) = false →
      ∃ t, exec (.mfree r) s = .next t ∧ t = { s with regs := t.regs, cmds := t.cmds, ctxs := t.ctxs, seqs := t.seqs, pages := t.pages, used := t.used, models := t.models, store := t.store, sec := t.sec, evt := t.evt, ras := t.ras, pcie := t.pcie, outbox := t.outbox } ∧ endedAs t r stOk ∧ cmdsElse s t r ∧ t.model (k.u 4 1) = Model.free ∧
        (∀ m, m ≠ k.u 4 1 → t.model m = s.model m) ∧
        (t.keySlot (72 + k.u 4 1)).kind = .empty ∧
        ∀ h, ((s.extent h).inUse = true ∧ (s.extent h).model.toNat = k.u 4 1 → (t.extent h).st = .free) ∧
          ((s.extent h).inUse = true → (s.extent h).model.toNat ≠ k.u 4 1 → t.extent h = s.extent h)) ∧
    (adminReady s r 0x28 k handleOk → (s.extent (k.u 4 2)).inUse = true →
      (s.model (s.extent (k.u 4 2)).model.toNat).names.contains (k.u 4 2) = false →
      ∃ t, exec (.mxfree r) s = .next t ∧ t = { s with regs := t.regs, cmds := t.cmds, seqs := t.seqs, pages := t.pages, used := t.used, store := t.store, evt := t.evt, ras := t.ras, pcie := t.pcie, outbox := t.outbox } ∧ endedAs t r stOk ∧ cmdsElse s t r ∧
        t.extent (k.u 4 2) = Extent.none ∧ ∀ h, h ≠ k.u 4 2 → t.extent h = s.extent h)

/-- A ready PATCH of a STORED or READY model without variants shows its model in STR_PATCH, asks the host for its
descriptors and starts; with them here, permitted and loaded, it stands before its flip with the model unchanged.
PATCH_FLIP with descriptors still permitted replaces the named layers, raises the generation by one, keeps the old
version only while a pass reads it, and ends the command with ST_OK; with descriptors no longer permitted the patch
ends with ST_BOUNDS and the model keeps its generation, which is the choice of the model (log entry 66). (Weight
Residency and Streaming: Patching under load) -/
def Obligations.PatchesFlip : Prop :=
  ∀ (s : State) (r : CmdRef) (k : Cmd),
    (adminReady s r 0x29 k patchOk → (s.model (k.u 4 1)).patch = none → s.patchAhead k = false → s.patchable k = true →
      k.host = none →
      ∃ t, exec (.patch r) s = .next t ∧
        t = { s.setReg 0x70070 (BitVec.ofNat 32 (k.u 4 1)) with cmds := t.cmds, outbox := t.outbox } ∧ cmdsElse s t r ∧
        t.cmd? r = some { k with stage := .started, begin_ := s.us } ∧
        t.outbox = .hostRead (k.u 8 8) (64 * k.u 6 2) :: s.outbox) ∧
    (∀ d ds mir u, s.cmd? r = some k → k.op = 0x29 → k.stage = .started → serving s → (s.model (k.u 4 1)).patch = none → s.patchable k = true → k.host = some (.ok d) →
      let ls := layersOf (padTo (64 * k.u 6 2) d) (k.u 6 2)
      s.layersOk (k.u 4 1) (k.u 5 1) ls = true →
      (hasStreams ls = true ∨ (s.model (k.u 4 1)).st = .ready ∧ 0 < dramTotal ls → s.flashMoves = true) →
      s.allStreams (k.u 4 1) ls = .ok ds → s.patchLoad (k.u 4 1) ls = .ok (mir, u) →
      ∃ t, exec (.patch r) s = .next t ∧ t = { s with regs := t.regs, draws := t.draws, cmds := t.cmds, seqs := t.seqs, pages := t.pages, used := t.used, models := t.models, dram := t.dram, evt := t.evt, ras := t.ras, pcie := t.pcie, outbox := t.outbox } ∧ (∀ q, t.cmd? q = s.cmd? q) ∧
        t.model (k.u 4 1) = { s.model (k.u 4 1) with
          patch := some { ref := r, first := k.u 5 1, layers := ls, mir := mir, diffs := ds } } ∧
        ∀ m, m ≠ k.u 4 1 → t.model m = s.model m) ∧
    (∀ (m : BitVec 5) p, (s.model m.toNat).patch = some p → s.cmd? p.ref = some k →
      (s.layersOk m.toNat p.first p.layers = true →
        ∃ t, exec (.patchFlip m) s = .next t ∧ t = { s with regs := t.regs, cmds := t.cmds, seqs := t.seqs, pages := t.pages, used := t.used, models := t.models, hostGran := t.hostGran, store := t.store, passes := t.passes, rings := t.rings, evt := t.evt, ras := t.ras, pcie := t.pcie, outbox := t.outbox } ∧ endedAs t p.ref stOk ∧ cmdsElse s t p.ref ∧
          (t.model m.toNat).gen = (s.model m.toNat).gen + 1 ∧ (t.model m.toNat).patch = none ∧
          (t.model m.toNat).layers = (s.model m.toNat).layers.take p.first ++
            p.layers.map (withGen ((s.model m.toNat).gen + 1)) ++
            (s.model m.toNat).layers.drop (p.first + p.layers.length) ∧
          (∀ x, x ≠ m.toNat → t.model x = s.model x) ∧
          (({ gen := (s.model m.toNat).gen, layers := (s.model m.toNat).layers, mir := (s.model m.toNat).mir } : OldVersion) ∈
              (t.model m.toNat).old ↔
            ∃ q ∈ s.passes, q.cmd.isSome = true ∧ q.model = m ∧ q.gen = (s.model m.toNat).gen)) ∧
      (s.layersOk m.toNat p.first p.layers = false →
        ∃ t, exec (.patchFlip m) s = .next t ∧ t = { s with regs := t.regs, cmds := t.cmds, seqs := t.seqs, pages := t.pages, used := t.used, models := t.models, hostGran := t.hostGran, store := t.store, passes := t.passes, rings := t.rings, evt := t.evt, ras := t.ras, pcie := t.pcie, outbox := t.outbox } ∧ endedAs t p.ref stBounds ∧ cmdsElse s t p.ref ∧
          t.model m.toNat = { s.model m.toNat with patch := none } ∧ ∀ x, x ≠ m.toNat → t.model x = s.model x))

/-- A ready BSLOAD into an EMPTY slot of a permitted length for a stored model asks the host for the bitstream; once here
and free of every fault of Table 9, with the model's layers, the slot is RESIDENT with it and its copy under way; a
fault leaves the slot EMPTY and ends with ST_BITSTREAM and HIF_BS_ERR. BS_PERSIST_DONE completes the copy. BSACT of an
ACTIVE slot ends with ST_OK, of a RESIDENT one waits for its switch; BSFREE without a RUN that holds the slot empties
it. The management controller writes HIF_BS_AREA while no slot is in use; the host never does. (Configuration
Bitstream: Load and validation, Host Interface: Commands) -/
def Obligations.BitstreamsAreLoadedAndFreed : Prop :=
  ∀ (s : State) (r : CmdRef) (k : Cmd),
    (adminReady s r 0x30 k bsloadOk → s.bsBlocked k = false →
      ∃ t, exec (.bsload r) s = .next t ∧ t = { s with cmds := t.cmds, bs := t.bs, outbox := t.outbox } ∧ cmdsElse s t r ∧
        t.cmd? r = some { k with stage := .started, begin_ := s.us } ∧
        t.bsSlot (k.u 4 1) = { Bs.empty with st := .loading, model := BitVec.ofNat 5 (k.u 5 1) } ∧
        (∀ i, i ≠ k.u 4 1 → t.bsSlot i = s.bsSlot i) ∧ t.outbox = .hostRead (k.u 8 8) (k.u 0x10 4) :: s.outbox) ∧
    (∀ d, s.cmd? r = some k → k.op = 0x30 → k.stage = .started → serving s → k.host = some (.ok d) →
      let image := padTo (k.u 0x10 4) d
      (s.bsFails image (k.u 0x10 4) = none → bsLayers image = (s.model (k.u 5 1)).layers.length →
        ∃ t, exec (.bsload r) s = .next t ∧ t = { s with regs := t.regs, cmds := t.cmds, seqs := t.seqs, pages := t.pages, used := t.used, bs := t.bs, dram := t.dram, evt := t.evt, ras := t.ras, pcie := t.pcie, outbox := t.outbox } ∧ endedAs t r stOk ∧ cmdsElse s t r ∧
          t.bsSlot (k.u 4 1) = { Bs.empty with
            st := .resident, persist := true, model := BitVec.ofNat 5 (k.u 5 1), image := image } ∧
          ∀ i, i ≠ k.u 4 1 → t.bsSlot i = s.bsSlot i) ∧
      (∀ f, s.bsFails image (k.u 0x10 4) = some f →
        ∃ t, exec (.bsload r) s = .next t ∧ t = { s with regs := t.regs, cmds := t.cmds, seqs := t.seqs, pages := t.pages, used := t.used, bs := t.bs, dram := t.dram, evt := t.evt, ras := t.ras, pcie := t.pcie, outbox := t.outbox } ∧ endedAs t r stBitstream ∧ cmdsElse s t r ∧
          t.bsSlot (k.u 4 1) = Bs.empty ∧ (∀ i, i ≠ k.u 4 1 → t.bsSlot i = s.bsSlot i) ∧ bitOf (t.reg 0x10F14) 31 = true)) ∧
    (∀ slot : BitVec 3, (s.bsSlot slot.toNat).persist = true →
      ((s.bsSlot slot.toNat).st = .resident ∨ (s.bsSlot slot.toNat).st = .active) →
      exec (.bsPersistDone slot) s = .next (s.setBs slot.toNat { s.bsSlot slot.toNat with persist := false, copy := true })) ∧
    (adminReady s r 0x31 k slotFieldOk → s.slotOk k = true →
      ((s.bsSlot (k.u 4 1)).st = .active → ∃ t, exec (.bsact r) s = .next t ∧ t = { s with regs := t.regs, cmds := t.cmds, seqs := t.seqs, pages := t.pages, used := t.used, evt := t.evt, ras := t.ras, pcie := t.pcie, outbox := t.outbox } ∧ endedAs t r stOk ∧ cmdsElse s t r) ∧
      ((s.bsSlot (k.u 4 1)).st = .resident → ∃ t, exec (.bsact r) s = .next t ∧ t = { s with cmds := t.cmds } ∧ cmdsElse s t r ∧
        t.cmd? r = some { k with stage := .waiting })) ∧
    (adminReady s r 0x32 k slotFieldOk → s.runsHold k = false →
      ((s.bsSlot (k.u 4 1)).st = .resident ∨ (s.bsSlot (k.u 4 1)).st = .active) →
      ∃ t, exec (.bsfree r) s = .next t ∧ t = { s with regs := t.regs, cores := t.cores, chans := t.chans, shm := t.shm, parts := t.parts, cmds := t.cmds, seqs := t.seqs, pages := t.pages, used := t.used, hostGran := t.hostGran, passes := t.passes, rings := t.rings, bs := t.bs, evt := t.evt, ras := t.ras, pcie := t.pcie, outbox := t.outbox } ∧ endedAs t r stOk ∧ cmdsElse s t r ∧ t.bsSlot (k.u 4 1) = Bs.empty ∧
        (∀ i, i ≠ k.u 4 1 → t.bsSlot i = s.bsSlot i) ∧
        ((s.bsSlot (k.u 4 1)).st = .active → k.u 4 1 < 8 →
          (∀ n, n < 16 → (bsCores (s.bsSlot (k.u 4 1)).image).getLsbD n = true → (t.core n).slot = none ∧ (t.core n).imemLen = 0) ∧
          ∀ key, (t.chan key).slot ≠ some (BitVec.ofNat 3 (k.u 4 1)))) ∧
    (∀ val, s.bs = [] → (∀ a, bsAreaOf (val &&& 0x800FFFFF) = some a → s.bsPlaceOk a = true) →
      exec (.bsAreaWrite .mgmt val) s = .next (s.setReg 0x10F00 (val &&& 0x800FFFFF))) ∧
    (∀ val, exec (.bsAreaWrite .host val) s = .next s)

/-- The first BS_SWITCH of a waiting BSACT of a RESIDENT slot that nothing holds, whose cores are not retired and whose
partitions, channels and routes fit beside those that stay, is the barrier: every overlapping active slot is RESIDENT,
the cores of their gangs hold no image, and the slot stands before its contents. The second, while every core of the
slot is in service, makes the slot ACTIVE: each core that one gang names holds that gang's image, its bank binding,
its packing and the slot; cores of no gang are unchanged; the switch is counted and recorded with the slots replaced,
and the command ends with ST_OK. Where a core of the slot is not in service between the two, the switch is abandoned:
the slot stays RESIDENT, the command ends with ST_FENCED and nothing is programmed (R351). With a retired core the
first ends it with ST_FENCED, without a switch. That the steps of R347 show as two commands is the choice of the model
(log entry 110). (Configuration Bitstream: Activation and the switch) -/
def Obligations.BitstreamSwitch : Prop :=
  ∀ (s : State) (r : CmdRef) (k : Cmd), s.cmd? r = some k → k.op = 0x31 → k.stage = .waiting → serving s → s.needsSwitch k.rSlot = true →
    s.slotOk k = true → k.rSlot < 8 →
    let b := (s.bsSlot k.rSlot).image
    let old := s.activeOver (bsCores b)
    (s.switchFor k = none → s.switchHeld k = false → s.anyCore (bsCores b) Core.isRetired = false →
      fitsBeside b (s.staysActive old) = true → s.pwr.dev ≠ .background →
      ∃ t, exec (.bsSwitch r) s = .next t ∧ t = { s with regs := t.regs, cores := t.cores, chans := t.chans, shm := t.shm, parts := t.parts, cmds := t.cmds, seqs := t.seqs, pages := t.pages, used := t.used, models := t.models, hostGran := t.hostGran, store := t.store, passes := t.passes, passNo := t.passNo, rings := t.rings, bs := t.bs, evt := t.evt, ras := t.ras, pcie := t.pcie, outbox := t.outbox } ∧ t.cmds = s.cmds ∧
        t.bsSlot k.rSlot = { s.bsSlot k.rSlot with
          switched := some (r, k.order, BitVec.ofNat 8 ((old.map (fun i => 2 ^ i)).foldl (· + ·) 0)), cqOk := (t.bsSlot k.rSlot).cqOk } ∧
        (∀ i ∈ old, (t.bsSlot i).st = .resident ∧ (t.bsSlot i).image = (s.bsSlot i).image) ∧
        (∀ i, i ∉ old → i ≠ k.rSlot → t.bsSlot i = s.bsSlot i) ∧
        (∀ n, n < 16 → ∀ i ∈ old, (bsCores (s.bsSlot i).image).getLsbD n = true → (t.core n).slot = none ∧ (t.core n).imemLen = 0) ∧
        (∀ n, n < 16 → (∀ i ∈ old, (bsCores (s.bsSlot i).image).getLsbD n = false) → t.core n = s.core n) ∧
        t.reg 0x10F18 = s.reg 0x10F18) ∧
    (∀ mask, s.switchFor k = some mask → s.anyCore (bsCores b) (fun c => decide (c.fence ≠ .inService)) = false →
      ∃ t, exec (.bsSwitch r) s = .next t ∧ t = { s with regs := t.regs, cores := t.cores, chans := t.chans, shm := t.shm, parts := t.parts, cmds := t.cmds, seqs := t.seqs, pages := t.pages, used := t.used, models := t.models, hostGran := t.hostGran, store := t.store, passes := t.passes, passNo := t.passNo, rings := t.rings, bs := t.bs, evt := t.evt, ras := t.ras, pcie := t.pcie, outbox := t.outbox } ∧ endedAs t r stOk ∧ cmdsElse s t r ∧
        t.bsSlot k.rSlot = { s.bsSlot k.rSlot with st := .active, lastCtx := none, switched := none } ∧
        (∀ i, i ≠ k.rSlot → t.bsSlot i = s.bsSlot i) ∧
        (∀ n g im, n < 16 → g ∈ bsGangs b → g.cores.getLsbD n = true → (∀ h ∈ bsGangs b, h.cores.getLsbD n = true → h = g) →
          bsImage b g.image = some im →
          (t.core n).slot = some (BitVec.ofNat 3 k.rSlot) ∧ (t.core n).imemLen = bsWords b im ∧
          (t.core n).packing = BitVec.ofNat 2 g.packing ∧ (t.core n).bind = g.bind ∧ (t.core n).micro = bsMicros b ∧
          ∀ j, j < bsWords b im → nget 0 (t.core n).imem j = bsWord b im j) ∧
        (∀ n, n < 16 → (∀ g ∈ bsGangs b, g.cores.getLsbD n = false) → t.core n = s.core n) ∧
        t.reg 0x10F18 = (s.bump 0x10F18 0 32 1).reg 0x10F18 ∧ logged t 0x0401 srcHif 0 (toLE 1 k.rSlot ++ [mask])) ∧
    (∀ mask, s.switchFor k = some mask → s.anyCore (bsCores b) (fun c => decide (c.fence ≠ .inService)) = true →
      ∃ t, exec (.bsSwitch r) s = .next t ∧ t = { s with regs := t.regs, cores := t.cores, chans := t.chans, shm := t.shm, parts := t.parts, cmds := t.cmds, seqs := t.seqs, pages := t.pages, used := t.used, models := t.models, hostGran := t.hostGran, store := t.store, passes := t.passes, passNo := t.passNo, rings := t.rings, bs := t.bs, evt := t.evt, ras := t.ras, pcie := t.pcie, outbox := t.outbox } ∧ endedAs t r stFenced ∧ cmdsElse s t r ∧ t.cores = s.cores ∧
        t.bsSlot k.rSlot = { s.bsSlot k.rSlot with switched := none } ∧ ∀ i, i ≠ k.rSlot → t.bsSlot i = s.bsSlot i) ∧
    (s.switchFor k = none → s.switchHeld k = false → s.anyCore (bsCores b) Core.isRetired = true →
      ∃ t, exec (.bsSwitch r) s = .next t ∧ t = { s with regs := t.regs, cores := t.cores, chans := t.chans, shm := t.shm, parts := t.parts, cmds := t.cmds, seqs := t.seqs, pages := t.pages, used := t.used, models := t.models, hostGran := t.hostGran, store := t.store, passes := t.passes, passNo := t.passNo, rings := t.rings, bs := t.bs, evt := t.evt, ras := t.ras, pcie := t.pcie, outbox := t.outbox } ∧ endedAs t r stFenced ∧ cmdsElse s t r ∧ t.bs = s.bs ∧
        t.cores = s.cores)

/-- For an outstanding request of its operation and length: INFO answers the two image versions and the calendar;
POWER_MODE sets the mode, brings cores to its highest point and answers once the rates are in force; SET_TIME sets the
calendar, makes it valid, moves stored times with it and records the old time; FW_STAGE reads the image and stages one
that passes its checks, a failed signature or SVN giving ST_BITSTREAM and a wrong header alone ST_BOUNDS; FW_ACTIVATE
exchanges the running image for the one staged last (the choice of the model, log entry 111), back again where the
self-check fails; TAMPER_RECOVER clears the latch once no sensor asserts, erasing first unless KEEP; BACKGROUND enters
and leaves Background; in Idle, POWER_MODE and BACKGROUND begin the exit and are answered after it (R445); CORE_RETEST
starts the test of a retired core. A length other than Table 11 gives, or an argument out of range, ends with
ST_BOUNDS. (Host Interface: Management mailbox, Power, Clocks and Thermal Control, Faults, Fencing and the Event
Recorder, Security and Context Isolation) -/
def Obligations.MailboxAnswers : Prop :=
  ∀ (s : State),
    (asked s 1 0 → ∃ t, exec .info s = .next t ∧ t = { s with regs := t.regs, pcie := t.pcie, outbox := t.outbox } ∧
      answered t stOk (toLE 4 s.ras.mcRun.version.toNat ++ toLE 4 s.ras.siRun.version.toNat ++ toLE 8 s.aon.calSec.toNat)) ∧
    (∀ (e : Instr × Nat × Nat), e ∈ [(.info, 1, 0), (.powerMode, 2, 1), (.setTime, 3, 12), (.fwStage, 4, 12), (.fwActivate true, 5, 0),
        (.fwActivate false, 5, 0), (.tamperRecover, 6, 1), (.background, 7, 1), (.coreRetest, 8, 1)] →
      mgtBusy s = true → mgtOp s = e.2.1 → mgtLen s ≠ e.2.2 →
      ∃ t, exec e.1 s = .next t ∧ t = { s with regs := t.regs, pcie := t.pcie, outbox := t.outbox } ∧ answered t stBounds []) ∧
    (∀ e : Instr × Nat × Nat, e ∈ [(.powerMode, 2, 2), (.background, 7, 1)] → asked s e.2.1 1 → mgtArg s 0 1 ≤ e.2.2 → s.pwr.dev = .idle →
      ∃ t, exec e.1 s = .next t ∧ t = { s with pwr := t.pwr, pcie := t.pcie, outbox := t.outbox } ∧
        t.pwr = { s.pwr with exiting := true } ∧ t.pcie = { s.pcie with clkreq := true }) ∧
    (asked s 2 1 → mgtArg s 0 1 ≤ 2 → s.pwr.dev ≠ .idle →
      ∃ t, exec .powerMode s = .next t ∧ t = { s with regs := t.regs, draws := t.draws, cores := t.cores, store := t.store, pwr := t.pwr, pcie := t.pcie, outbox := t.outbox } ∧ t.pwr.mode.toNat = mgtArg s 0 1 ∧
        (s.pwr.dev = .background → t.cores = s.cores ∧ t.store = s.store ∧ answered t stOk []) ∧
        (s.pwr.dev ≠ .background →
          (∀ n, n < s.coreCount → (t.core n).point = min (s.core n).point (t.wanted n)) ∧
          (t.ratesOk = true → answered t stOk []) ∧ (t.ratesOk = false → unanswered s t))) ∧
    (asked s 3 12 → mgtArg s 0 8 < 2 ^ 48 → mgtArg s 8 4 < 1000000000 →
      ∃ t, exec .setTime s = .next t ∧ t = { s with regs := t.regs, models := t.models, store := t.store, aon := t.aon, evt := t.evt, ras := t.ras, pcie := t.pcie, outbox := t.outbox } ∧ answered t stOk [] ∧
        t.aon.calSec.toNat = mgtArg s 0 8 ∧ t.aon.calFrac.toNat = mgtArg s 8 4 * 32768 / 1000000000 ∧ t.aon.calValid = true ∧
        logged t 0x0901 srcMgt 0 (toLE 6 s.aon.calSec.toNat ++ toLE 1 (boolNat s.aon.calValid)) ∧
        (∀ h, (s.extent h).inUse = true →
          (t.extent h).lastRead = (s.extent h).lastRead + ((mgtArg s 0 8 : Int) - s.aon.calSec.toNat)) ∧
        t.aon.alarm = (if s.aon.alarmEn then s.aon.alarm + BitVec.ofInt 32 ((mgtArg s 0 8 : Int) - s.aon.calSec.toNat) else s.aon.alarm) ∧
        ∀ m, (s.model m).st ≠ .free → (t.model m).use = (s.model m).use + ((mgtArg s 0 8 : Int) - s.aon.calSec.toNat)) ∧
    (asked s 4 12 → fwLenOk (mgtArg s 8 4) = true →
      (s.ras.fwData = none → exec .fwStage s = .next (s.emit (.hostRead (mgtArg s 0 8) (mgtArg s 8 4)))) ∧
      (∀ d, s.ras.fwData = some (.ok d) →
        let b := padTo (mgtArg s 8 4) d
        ∃ t, exec .fwStage s = .next t ∧ t = { s with regs := t.regs, draws := t.draws, evt := t.evt, ras := t.ras, pcie := t.pcie, outbox := t.outbox } ∧
          (fwHeaderOk b = false → s.fwSigned b = true → (s.fwRunning (fwOf b).target).svn.toNat ≤ (fwOf b).svn.toNat →
            answered t stBounds [] ∧ t.ras.staged = s.ras.staged) ∧
          ((s.fwSigned b = false ∨ (fwOf b).svn.toNat < (s.fwRunning (fwOf b).target).svn.toNat) →
            answered t stBitstream [] ∧ t.ras.staged = s.ras.staged) ∧
          (fwHeaderOk b = true → s.fwSigned b = true → (s.fwRunning (fwOf b).target).svn.toNat ≤ (fwOf b).svn.toNat →
            answered t stOk [] ∧ t.ras.staged = fwOf b :: s.ras.staged.filter (fun g => g.target ≠ (fwOf b).target) ∧ logged t 0x0801 srcMgt 0 (fwData (fwOf b))))) ∧
    (asked s 5 0 →
      (s.ras.staged = [] → ∀ ok, ∃ t, exec (.fwActivate ok) s = .next t ∧ t = { s with regs := t.regs, pcie := t.pcie, outbox := t.outbox } ∧ answered t stBounds []) ∧
      (∀ f rest, s.ras.staged = f :: rest →
        (f.target = false →
          (∃ t, exec (.fwActivate true) s = .next t ∧ t = { s with regs := t.regs, evt := t.evt, ras := t.ras, pcie := t.pcie, outbox := t.outbox } ∧ answered t stOk [] ∧
            t.ras = { s.ras with staged := rest, mcPrev := some s.ras.mcRun, mcRun := f } ∧ logged t 0x0802 srcMgt 0 (fwData f)) ∧
          (∃ t, exec (.fwActivate false) s = .next t ∧ t = { s with regs := t.regs, evt := t.evt, ras := t.ras, pcie := t.pcie, outbox := t.outbox } ∧ answered t stTimeout [] ∧
            t.ras = { s.ras with staged := rest, mcPrev := some f } ∧ logged t 0x0803 srcMgt 0 (fwData s.ras.mcRun))) ∧
        (f.target = true → ∀ ok, ∃ t, exec (.fwActivate ok) s = .next t ∧ t = { s with regs := t.regs, evt := t.evt, ras := t.ras, pcie := t.pcie, outbox := t.outbox } ∧ answered t stOk [] ∧
          t.ras = { s.ras with staged := rest, pendingSi := some f }))) ∧
    (asked s 6 1 → mgtArg s 0 1 ≤ 1 →
      ((s.sec.alarm = true ∨ (mgtArg s 0 1 = 1 ∧ s.sec.kind ≠ 1)) →
        ∃ t, exec .tamperRecover s = .next t ∧ t = { s with regs := t.regs, pcie := t.pcie, outbox := t.outbox } ∧ answered t stTamper []) ∧
      (s.sec.alarm = false → (mgtArg s 0 1 = 1 → s.sec.kind = 1) →
        ∃ t, exec .tamperRecover s = .next t ∧ t = { s with regs := t.regs, draws := t.draws, ctxs := t.ctxs, sec := t.sec, evt := t.evt, ras := t.ras, pcie := t.pcie, outbox := t.outbox } ∧ answered t stOk [] ∧ t.sec.latched = false ∧
          ((mgtArg s 0 1 = 1 ∨ s.sec.erased = true) → t.sec = { s.sec with latched := false }) ∧
          (mgtArg s 0 1 = 0 → s.sec.erased = false →
            t.sec.erased = true ∧ t.sec.blobs = [] ∧ ∀ n, 1 ≤ n → n < 128 → (t.keySlot n).kind = .empty))) ∧
    (asked s 7 1 → mgtArg s 0 1 = 1 → s.pwr.dev = .active →
      ∃ t, exec .background s = .next t ∧ t = { s with regs := t.regs, draws := t.draws, cores := t.cores, chans := t.chans, shm := t.shm, parts := t.parts, cmds := t.cmds, ctxs := t.ctxs, seqs := t.seqs, pages := t.pages, used := t.used, models := t.models, hostGran := t.hostGran, store := t.store, passes := t.passes, passNo := t.passNo, rings := t.rings, bs := t.bs, dram := t.dram, sec := t.sec, pwr := t.pwr, ports := t.ports, colls := t.colls, evt := t.evt, ras := t.ras, pcie := t.pcie, outbox := t.outbox } ∧ t.pwr.dev = .background ∧
        (∀ n, n < s.coreCount → (t.core n).point ≤ 2) ∧
        (∀ n, n < s.coreCount → s.ridgeUsed (s.ridge n) = false → (t.core n).cmem = .zero ∧ (t.core n).v = [] ∧ (t.core n).imem = []) ∧
        (t.ratesOk = true → answered t stOk []) ∧ (t.ratesOk = false → unanswered s t)) ∧
    (asked s 7 1 → mgtArg s 0 1 = 0 → s.pwr.dev = .background → s.sec.latched = false →
      ∃ t, exec .background s = .next t ∧ t = { s with regs := t.regs, draws := t.draws, cores := t.cores, chans := t.chans, shm := t.shm, parts := t.parts, cmds := t.cmds, ctxs := t.ctxs, seqs := t.seqs, pages := t.pages, used := t.used, models := t.models, hostGran := t.hostGran, store := t.store, passes := t.passes, passNo := t.passNo, rings := t.rings, bs := t.bs, dram := t.dram, sec := t.sec, pwr := t.pwr, ports := t.ports, colls := t.colls, evt := t.evt, ras := t.ras, pcie := t.pcie, outbox := t.outbox } ∧ t.pwr.dev = .active ∧
        (t.ratesOk = true → answered t stOk []) ∧ (t.ratesOk = false → unanswered s t)) ∧
    (asked s 8 1 → mgtArg s 0 1 < s.coreCount → (s.core (mgtArg s 0 1)).fence = .retired → (s.core (mgtArg s 0 1)).retest = false →
      ∃ t, exec .coreRetest s = .next t ∧ t = { s with regs := t.regs, latch := t.latch, cores := t.cores, store := t.store, dram := t.dram, tst := t.tst, pcie := t.pcie, outbox := t.outbox } ∧ unanswered s t ∧
        (t.core (mgtArg s 0 1)).retest = true ∧ (t.core (mgtArg s 0 1)).fence = .retired ∧ (t.core (mgtArg s 0 1)).run = false ∧
        ∀ m, m ≠ mgtArg s 0 1 → t.core m = s.core m) ∧
    (asked s 8 1 → (s.coreCount ≤ mgtArg s 0 1 ∨ (s.core (mgtArg s 0 1)).fence ≠ .retired) →
      ∃ t, exec .coreRetest s = .next t ∧ t = { s with regs := t.regs, pcie := t.pcie, outbox := t.outbox } ∧ answered t stBounds [])

/-- A record that equals none of the eight newest becomes the newest, numbered one above HEAD, with count 1 and the
present time, and the ring holds at most 2,048; one that equals one of them raises its count. A write of EVT_ACK moves
it forward to a record that exists, and nowhere else. EVT_FLUSH with GO, and the periodic flush while a record is
unflushed, copy the ring to its log. Nothing else changes. (Faults, Fencing and the Event Recorder) -/
def Obligations.EventRecorderKeepsAndFlushes : Prop :=
  (∀ (s : State) (code src status : Nat) (data : List Byte), code < 65536 → src < 256 → status < 65536 → s.evt.ring.length ≤ 2048 →
    let t := s.record code src 0 status data
    t = { s with regs := t.regs, evt := t.evt, pcie := t.pcie, outbox := t.outbox } ∧ t.evt.ring.length ≤ 2048 ∧ logged t code src status data ∧
    ((∀ e ∈ s.evt.ring.take 8, e.same code src status (padTo 12 data) = false) →
      t.evt.head = s.evt.head + 1 ∧ t.evt.ring.tail = s.evt.ring.take 2047 ∧
      (t.evt.ring.head?).map (fun e => (e.seq, e.count, e.at_)) = some (s.evt.head + 1, 1, s.us)) ∧
    ((∃ e ∈ s.evt.ring.take 8, e.same code src status (padTo 12 data) = true) →
      t.evt.head = s.evt.head ∧ t.evt.ring.length = s.evt.ring.length)) ∧
  (∀ (s : State) (val : Word), s.linkOpen = true →
    ((val - s.evt.ack).toNat ≤ (s.evt.head - s.evt.ack).toNat →
      ∃ t, exec (.evtAckWrite val) s = .next t ∧ t = { s with evt := t.evt } ∧ t.evt = { s.evt with ack := val, below := t.evt.below }) ∧
    ((s.evt.head - s.evt.ack).toNat < (val - s.evt.ack).toNat → exec (.evtAckWrite val) s = .next s) ∧
    (bitOf val 31 = true → ∃ t, exec (.evtFlush val) s = .next t ∧ t = { s with evt := t.evt } ∧ flushed t ∧ t.evt.ring = s.evt.ring) ∧
    (bitOf val 31 = false → exec (.evtFlush val) s = .next s)) ∧
  (∀ (s : State),
    (s.evt.head ≠ s.evt.flushed → ∃ t, exec .evtFlushPeriodic s = .next t ∧ t = { s with evt := t.evt } ∧ flushed t ∧
      t.evt.ring = s.evt.ring) ∧
    (s.evt.head = s.evt.flushed → exec .evtFlushPeriodic s = .next s))

/-- UNIT_PROGRAM_START of a unit whose eight codewords wait, at a wordline that is the block's next but for those of dead
stripes (the choice of the model, log entry 22), in a bank that holds no program and no erase, a block that is neither
copied nor to be retired, a die with a slot for it and a supply that carries transfers, puts it under way and changes
nothing else. UNIT_PROGRAM_DONE with success gives the block its next wordline, counts the eight codewords as
programmed and seals a sealing extent whose units are all done; a failure leaves the codewords waiting and marks the
block for an URGENT copy and retirement. (Perua Weight Store, Perua Weight Store: Programming and erasing) -/
def Obligations.FlashUnitsAreProgrammed : Prop :=
  ∀ (s : State) (handle : BitVec 16) (stripe : Nat) (unit : BitVec 8) (key w : Nat),
    s.unitPlace handle.toNat stripe unit.toNat = some (key, w) → key % 256 < 252 →
    (s.store.ready = true → s.aon.seq ≠ .emergency → s.pwr.dev ≠ .idle →
      (∀ o ∈ unitOffsets stripe unit.toNat, s.accepted handle.toNat o = true ∧ (s.codeword handle.toNat o).programmed = false) →
      (s.blk key).wl ≤ w → (∀ i, (s.blk key).wl ≤ i → i < w → ((s.blk key).row, i) ∉ s.liveStripes) →
      (s.blk key).copyTo = none → (s.blk key).retire = none → (∀ p ∈ s.store.programming, p.2.2.2 / 256 ≠ key / 256) →
      (∀ e ∈ s.store.blks, e.1 / 256 = key / 256 → e.1 ≠ key → e.2.st = .erasing → e.2.pulses = 0) → 750 ≤ s.store.vccq →
      s.unitSlot (dieOf key) = true →
      exec (.unitProgramStart handle stripe unit) s = .next { s with
        store := { s.store with programming := s.store.programming ++ [(handle.toNat, stripe, unit.toNat, key)] } }) ∧
    (handle ≠ 0 → s.store.programming.find? (fun p => p.1 = handle.toNat && p.2.1 = stripe && p.2.2.1 = unit.toNat) =
        some (handle.toNat, stripe, unit.toNat, key) →
      (∃ t, exec (.unitProgramDone handle stripe unit true) s = .next t ∧ t = { s with store := t.store } ∧
        (∀ p, p ∈ t.store.programming ↔ p ∈ s.store.programming ∧ p ≠ (handle.toNat, stripe, unit.toNat, key)) ∧
        (∀ o ∈ unitOffsets stripe unit.toNat, t.codeword handle.toNat o = { s.codeword handle.toNat o with programmed := true }) ∧
        (∀ x, (∀ o ∈ unitOffsets stripe unit.toNat, x ≠ cwKey handle.toNat o) →
          nget Codeword.none t.store.cws x = nget Codeword.none s.store.cws x) ∧
        t.blk key = { s.blk key with wl := w + 1, born := if (s.blk key).wl = 0 then s.us else (s.blk key).born } ∧
        (∀ k, k ≠ key → t.blk k = s.blk k) ∧
        t.extent handle.toNat = (if (s.extent handle.toNat).st = .sealing ∧ t.extentDone handle.toNat = true
          then { s.extent handle.toNat with st := .sealed_ } else s.extent handle.toNat) ∧
        ∀ h, h ≠ handle.toNat → t.extent h = s.extent h) ∧
      ((s.blk key).st = .mapped →
        ∃ t, exec (.unitProgramDone handle stripe unit false) s = .next t ∧ storeStep s t [] ∧
          t.store.cws = s.store.cws ∧ t.store.exts = s.store.exts ∧ t.blk key = { s.blk key with retire := some 3 } ∧
          (∀ k, k ≠ key → t.blk k = s.blk k) ∧ (.urgent, key) ∈ t.store.marks))

/-- An erase begins once no read names its block, its bank is idle and its die has a slot; each pulse opens the bank to
reads. Six pulses and a good end free a block with its counters at 0 and its P/E count one higher; a failed end, or
the count's limit, retires it with a record (stated for a die with a spare block). DARNER_COPY_START takes the next
marked block of a die with a slot and sets its destination aside; DARNER_COPY_FLIP maps the copy in the row slot,
counts it and erases the source. RETENTION_DUE marks an old block, and begins the exit from Idle. COUNTER_CHECKPOINT
keeps every counter. COMPACTION_START takes the sparsest row and marks its blocks COMPACT, and STRIPE_MOVE_DONE, with
no higher work waiting, gives a live stripe its new place (stated where another stays in the row). FLS_CONSENT evicts
the named model and its variants. (Perua Weight Store, Perua Weight Store: Read stress) -/
def Obligations.FlashBlocksAreErasedAndCopied : Prop :=
  ∀ (s : State) (die : BitVec 3) (bank : BitVec 5) (block : BitVec 8),
    let key := blkKey die.toNat bank.toNat block.toNat
    let b := s.blk key
    (b.st = .erasing → s.store.ready = true → s.pwr.dev ≠ .idle → b.pulses < 6 → s.bankBusy key = false →
      (b.pulses = 0 → s.eraseMayStart key = true) → (s.aon.seq = .emergency → s.store.lastPulse.contains key = false) →
      let s1 := s.setBlk key { b with pulses := b.pulses + 1 }
      exec (.erasePulseDone die bank block) s = .next { s1 with store := { s1.store with
        gapReads := nset 0 s.store.gapReads (key / 256) 0,
        lastPulse := if s.aon.seq = .emergency then s.store.lastPulse ++ [key] else s.store.lastPulse } }) ∧
    (b.st = .erasing → 6 ≤ b.pulses → s.store.ready = true → s.pwr.dev ≠ .idle →
      (b.pe + 1 < 20000 → b.retire = none →
        ∃ t, exec (.blockEraseDone die bank block true) s = .next t ∧ storeStep s t [] ∧
          t.blk key = { Blk.fresh with pe := b.pe + 1 } ∧ (∀ k, k ≠ key → t.blk k = s.blk k)) ∧
      (0 < s.spare die.toNat → ∀ ok, (ok = false ∨ 20000 ≤ b.pe + 1) →
        ∃ t, exec (.blockEraseDone die bank block ok) s = .next t ∧
          t = { s with regs := t.regs, store := t.store, evt := t.evt, ras := t.ras, pcie := t.pcie, outbox := t.outbox } ∧
          t.blk key = { Blk.fresh with st := .retired, pe := b.pe + 1 } ∧ (∀ k, k ≠ key → t.blk k = s.blk k) ∧
          logged t 0x0303 srcFls 0 [BitVec.ofNat 8 die.toNat, BitVec.ofNat 8 bank.toNat, BitVec.ofNat 8 block.toNat, if ok then 2 else 0])) ∧
    (∀ c k dst, s.nextMark die.toNat = some (c, k) → s.copyDest c k = some dst → s.store.ready = true → s.aon.seq ≠ .emergency → s.pwr.dev ≠ .idle →
      750 ≤ s.store.vccq → c ≠ .compact →
      s.darnerSlot die.toNat (decide (c = .urgent)) (s.unitWaits die.toNat) = true →
      ∃ t, exec (.darnerCopyStart die) s = .next t ∧ t = { s with store := t.store } ∧
        t.blk k = { s.blk k with copyTo := some dst } ∧
        t.blk dst = { s.blk dst with st := .dest, row := (s.blk k).row, slot := (s.blk k).slot } ∧
        ∀ x, x ≠ k → x ≠ dst → t.blk x = s.blk x) ∧
    (∀ dst, b.st = .mapped → b.copyTo = some dst → b.retire = none → s.store.ready = true → dst ≠ key → (s.blk dst).retire = none →
      (∀ p ∈ s.store.programming, p.2.2.2 ≠ key) →
      ∃ t, exec (.darnerCopyFlip die bank block) s = .next t ∧ t = { s with regs := t.regs, store := t.store } ∧
        nget 65536 (t.frow b.row).map b.slot = dst ∧ t.blk dst = { s.blk dst with st := .mapped, wl := b.wl, born := s.us } ∧
        (t.blk key).st = .erasing ∧ (t.blk key).pulses = 0 ∧ (∀ m ∈ t.store.marks, m.2 ≠ key) ∧
        t.reg 0x60054 = satField (s.reg 0x60054) 0 32 1 ∧ (∀ off, off ≠ 0x60054 → t.reg off = s.reg off) ∧
        ∀ x, x ≠ key → x ≠ dst → t.blk x = s.blk x) ∧
    (b.st = .mapped → 0 < b.wl → b.born + s.days * dayUs ≤ s.us →
      ∃ t, exec (.retentionDue die bank block) s = .next t ∧
        t = { s with regs := t.regs, store := t.store, pwr := t.pwr, tst := t.tst, pcie := t.pcie, outbox := t.outbox } ∧
        t.store = { s.store with marks := t.store.marks } ∧ (.retention, key) ∈ t.store.marks ∧
        (s.tst.running = false → t.regs = s.regs ∧ t.tst = s.tst) ∧
        (s.pwr.dev = .active ∨ s.pwr.dev = .background → t.pwr = s.pwr ∧ t.pcie = s.pcie ∧ t.outbox = s.outbox) ∧
        (s.pwr.dev = .idle → t.pwr = { s.pwr with exiting := true })) ∧
    (s.us < b.born + s.days * dayUs → exec (.retentionDue die bank block) s = .next s) ∧
    (s.store.ready = true →
      exec .counterCheckpoint s = .next { s with store := { s.store with ckpt := counters s.store } }) ∧
    (∀ r, s.store.ready = true → s.aon.seq ≠ .emergency → s.pwr.dev ≠ .idle → s.store.compacting = none → s.wantsCompaction = true →
      s.sparsest = some r → 0 < s.rowLive r →
      ∃ t, exec .compactionStart s = .next t ∧
        storeStep s t [] ∧ t.store = { s.store with compacting := some r, marks := t.store.marks } ∧
        (∀ e ∈ (s.frow r).map, (s.blk e.2).st = .mapped → (.compact, e.2) ∈ t.store.marks) ∧
        ∀ m ∈ s.store.marks, m ∈ t.store.marks) ∧
    (∀ (h : BitVec 16) i r w q e, (s.extent h.toNat).stripes[i]? = some (r, w) → s.store.compacting = some r → s.store.ready = true → s.aon.seq ≠ .emergency → s.pwr.dev ≠ .idle → 750 ≤ s.store.vccq →
      s.stripeDone h.toNat i = true → s.store.compRow = some q → q ≠ r → (s.frow q).next = e →
      s.aboveCompact = false →
      (∃ k j x, (k ≠ h.toNat ∨ j ≠ i) ∧ (s.extent k).inUse = true ∧ (s.extent k).stripes[j]? = some (r, x)) →
      ∃ t, exec (.stripeMoveDone h i) s = .next t ∧ t = { s with store := t.store } ∧
        t.extent h.toNat = { s.extent h.toNat with stripes := (s.extent h.toNat).stripes.set i (q, e) } ∧
        (t.frow q).next = e + 1 ∧ (∀ m ∈ (s.frow q).map, (t.blk m.2).wl = e + 1) ∧ ∀ k, k ≠ h.toNat → t.extent k = s.extent k) ∧
    (∀ val, s.linkOpen = true → bitOf val 31 = true → s.store.shrink = true → s.store.need ≠ 0 → s.extentsOf (getBits val 0 5) ≠ [] →
      ∃ t, exec (.flsConsent val) s = .next t ∧ t = { s with regs := t.regs, draws := t.draws, cmds := t.cmds, ctxs := t.ctxs, seqs := t.seqs, pages := t.pages, used := t.used, models := t.models, store := t.store, dram := t.dram, sec := t.sec, evt := t.evt, ras := t.ras, pcie := t.pcie, outbox := t.outbox } ∧
        t.model (getBits val 0 5) = { Model.free with evicted := true } ∧
        (t.keySlot (weightKeySlot (getBits val 0 5))).kind = .empty ∧
        (∀ h, (s.extent h).st ≠ .free → (s.extent h).model.toNat = getBits val 0 5 → t.extent h = .none) ∧
        (∀ v ∈ s.variantsOf (getBits val 0 5), t.model v = { Model.free with evicted := true }) ∧
        (s.variantsOf (getBits val 0 5) = [] → logged t 0x0305 srcStr 0 [BitVec.ofNat 8 (getBits val 0 5), 0]))

/-- FLASH_PAGE_READ in a bank that can read, below HOLD, raises its segment's counter and marks a mapped block at a
threshold; at HOLD it waits for the copy, with READ_HOLD shown, and so does a decode whose read has not begun.
FLASH_CODEWORD_DECODED keeps the time of the read; a hard decode of more than EC_REFRESH bits marks the block QUEUED,
a soft one is counted and marks it URGENT, and a failed one makes the codeword unreadable, with its address and
record, and the block URGENT. REFERENCE_CHECK treats a failing column by Table 6. FLASH_RATE_CHANGE to a rate the mode
permits takes effect, or is held while FLS_WAIT or the supply is too low. STORE_READY loads the store. FLS_ASM takes
permitted values from the management controller alone. VCCQ_FLASH_SAMPLE sets LOWV and holds a band whose wait states
are not set. (Perua Weight Store, Perua Weight Store: Decoding and the reference wordlines, Package, Pins, Electrical
and Test) -/
def Obligations.FlashReadsCountAndDecode : Prop :=
  ∀ (s : State) (die : BitVec 3) (bank : BitVec 5) (block : BitVec 8) (wl : BitVec 7),
    let key := blkKey die.toNat bank.toNat block.toNat
    let b := s.blk key
    let seg := wl.toNat / 16
    let c := min segMax (nget 0 b.segs seg + 1)
    (s.store.ready = true → s.aon.seq ≠ .emergency → s.pwr.dev ≠ .idle → s.bankReads (key / 256) 1 = true →
      (b.st ≠ .mapped ∨ nget 0 b.segs seg < s.threshHold ∨ b.copyTo ≠ none) →
      ∃ t, exec (.flashPageRead die bank block wl) s = .next t ∧ storeStep s t [] ∧
        ((b.st ≠ .mapped ∨ nget 0 b.segs seg < s.threshHold) → ∃ r ∈ t.store.reads, r.key = key ∧ r.wl = wl.toNat) ∧
        t.blk key = { b with segs := (t.blk key).segs } ∧ nget 0 (t.blk key).segs seg = c ∧
        (∀ g, g ≠ seg → nget 0 (t.blk key).segs g = nget 0 b.segs g) ∧ (∀ k, k ≠ key → t.blk k = s.blk k) ∧
        (b.st = .mapped →
          (s.threshQueue ≤ c → c < s.threshUrgent → (.queued, key) ∈ t.store.marks) ∧
          (s.threshUrgent ≤ c → (.urgent, key) ∈ t.store.marks ∧ (.queued, key) ∉ t.store.marks))) ∧
    (s.store.ready = true → s.aon.seq ≠ .emergency → s.pwr.dev ≠ .idle → s.bankReads (key / 256) 1 = true → b.st = .mapped → s.threshHold ≤ nget 0 b.segs seg → b.copyTo = none →
      exec (.flashPageRead die bank block wl) s = .next (s.setReg 0x60004 (s.reg 0x60004 ||| 0x10000000))) ∧
    (∀ (h : BitVec 16) (o : Word) k w begun s0, s.readPlace h.toNat o.toNat = some (k, w, begun, s0) → s.store.ready = true →
      750 ≤ s.store.vccq → (begun = true ∨ s.cwHeld h.toNat o.toNat = false) → (s.extent h.toNat).st = .sealed_ → (s.codeword h.toNat o.toNat).programmed = true → (s.blk k).st = .mapped →
      (∀ n, n ≤ 64 → ∃ t, exec (.flashCodewordDecoded h o (.hard n)) s = .next t ∧ storeStep s t [] ∧
        t.extent h.toNat = { s.extent h.toNat with lastRead := (s.aon.calSec.toNat : Int) } ∧ t.store.cws = s.store.cws ∧
        (s.ecRefresh < n → (.queued, k) ∈ t.store.marks) ∧ (n ≤ s.ecRefresh → t.store.marks = s.store.marks)) ∧
      (∃ t, exec (.flashCodewordDecoded h o .soft) s = .next t ∧ storeStep s t [0x60058] ∧
        (.urgent, k) ∈ t.store.marks ∧ t.reg 0x60058 = satField (s.reg 0x60058) 16 16 1 ∧ t.store.cws = s.store.cws) ∧
      (∃ t, exec (.flashCodewordDecoded h o .fail) s = .next t ∧
        t = { s with
          regs := t.regs, store := t.store, tst := t.tst, evt := t.evt, ras := t.ras, pcie := t.pcie, outbox := t.outbox } ∧
        t.codeword h.toNat o.toNat = { s.codeword h.toNat o.toNat with bad := true } ∧ (.urgent, k) ∈ t.store.marks ∧
        t.reg 0x60058 = satField (s.reg 0x60058) 0 16 1 ∧
        (bitOf (s.reg 0x6005C) 31 = false → t.reg 0x6005C = ueAddr k w o.toNat ||| 0x80000000) ∧
        logged t 0x0301 srcFls stUncorrectable (regCopy (t.reg 0x6005C) 0x6005C) ∧ signalled t 1)) ∧
    (∀ (h : BitVec 16) (o : Word) k w s0 d, s.readPlace h.toNat o.toNat = some (k, w, false, s0) → s.store.ready = true →
      750 ≤ s.store.vccq → (s.extent h.toNat).st = .sealed_ → (s.codeword h.toNat o.toNat).programmed = true →
      s.cwHeld h.toNat o.toNat = true →
      exec (.flashCodewordDecoded h o d) s = .next (s.setReg 0x60004 (s.reg 0x60004 ||| 0x10000000))) ∧
    (s.store.ready = true → s.aon.seq ≠ .emergency → s.pwr.dev ≠ .idle → s.bankReads (key / 256) 4 = true → b.st = .mapped → ∀ col, col ≤ 147455 → col ∉ s.colmap (key / 256) →
      (∀ e ∈ s.cands (key / 256), e.1 ≠ col) →
      (∃ t, exec (.referenceCheck die bank block [⟨col, true, false⟩]) s = .next t ∧ storeStep s t [] ∧
        (t.blk key).retire = some 1 ∧ (.urgent, key) ∈ t.store.marks ∧
        (t.blk key).segs = nset 0 (nset 0 b.segs 0 (min segMax (nget 0 b.segs 0 + 2))) 7 (min segMax (nget 0 b.segs 7 + 2))) ∧
      (∃ t, exec (.referenceCheck die bank block [⟨col, false, false⟩]) s = .next t ∧ storeStep s t [] ∧
        (col, [key]) ∈ t.cands (key / 256) ∧ t.store.colmap = s.store.colmap) ∧
      (∃ t, exec (.referenceCheck die bank block [⟨col, false, true⟩]) s = .next t ∧ storeStep s t [] ∧
        (.queued, key) ∈ t.store.marks ∧ (t.blk key).retire = b.retire)) ∧
    (∀ rate : BitVec 2, rate ≠ 3 → (s.pwr.crit = true → rate = 2) → s.modeRate rate = true →
      exec (.flashRateChange rate) s = .next { s with store := if s.waitsOk rate then { s.store with rate := rate, held := false, bandHeld := false }
        else { s.store with held := true } }) ∧
    (s.store.ready = false → s.aon.seq = .starting →
      ∀ bad, ∃ t, exec (.storeReady ⟨s.store.saved, bad⟩) s = .next t ∧ t = { s with regs := t.regs, draws := t.draws, models := t.models, store := t.store, bs := t.bs, dram := t.dram, sec := t.sec, evt := t.evt, ras := t.ras, tst := t.tst, pcie := t.pcie, outbox := t.outbox } ∧ t.store.ready = true ∧
        t.store.saved = false ∧ t.store.programming = [] ∧ t.store.reads = [] ∧ t.store.exts = s.store.exts ∧ t.store.cws = s.store.cws) ∧
    (∀ val, 2 ≤ getBits val 20 6 → getBits val 20 6 ≤ 32 →
      (bitOf val 31 = true → inDram (asmOf val) = true ∧
        overlaps (asmOf val) (s.poolRegions noSkip ++ s.windowRegions noSkip noSkip) = false) →
      exec (.flsAsmWrite .mgmt val) s = .next (s.setReg 0x60028 (val &&& 0x83FFFFFF)) ∧ exec (.flsAsmWrite .host val) s = .next s) ∧
    (∀ val, getBits val 20 6 < 2 ∨ 32 < getBits val 20 6 → exec (.flsAsmWrite .mgmt val) s = .next s.flsCfgErr) ∧
    (∀ mv, 
      let s1 : State := { s with store := { s.store with lowv := decide (mv < 860), vccq := mv } }
      exec (.vccqFlashSample mv) s = .next { s1 with store := { s1.store with bandHeld := !s1.waitsOk s1.store.rate } })

/-- PIECE_STAGED takes the first pass of its slot with something left on the ring: a piece inside one flash granule, with
room in the ring, joins it at its end for its core, the decrypted bytes of its codeword standing in the RING partition
behind the pieces before it (the place behind the last piece is the choice of log 95, the pieces queued by their
staging order that of log 45), every other byte of shared memory as it was, and the ring of that pass moves on;
without room nothing changes; a granule of the host tier is asked for. ROUTE_RECORD takes a permitted record of a
current pass, and ends the pass of a wrong one with ST_BOUNDS shown in STR_STATUS. STR_MIRROR_WRITE takes a permitted
value while no model is loaded. HOST_READ_COMPLETION hands the data to the command, the granule of the oldest pass
that asked (data for a pass that is gone is dropped, an error is shown in STR_STATUS) or the FW_STAGE in hand. (Weight
Residency and Streaming: The prefetch schedule, Weight Residency and Streaming: Experts after routing, Weight
Residency and Streaming: Registers, Host Interface: Host-memory traffic) -/
def Obligations.PiecesAreStagedInOrder : Prop :=
  ∀ (s : State),
    (∀ (slot : BitVec 3) (ring : BitVec 4) (p : Pass) i (e : SEntry) x k (g : SegRef),
      s.store.ready = true → s.aon.seq ≠ .emergency → s.pwr.dev ≠ .idle → s.stagePass slot.toNat ring.toNat = some p →
      s.seek p ring.toNat = .found i e x k → s.staging p = true →
      (s.ringRoom slot.toNat ring.toNat e.piece = false → exec (.pieceStaged slot ring) s = .next s) ∧
      (∀ cw key part, s.ringRoom slot.toNat ring.toNat e.piece = true → s.segOf p.model.toNat p.gen e.layer e.seg = some g → g.seg.kind ≠ kDiff →
        0 < e.piece → s.pieceOff p i e x k % 4096 + e.piece ≤ 4096 →
        g.seg.place (s.pieceOff p i e x k / 4096) = .flash cw → s.weightKey g.owner = some key →
        (s.codeword g.seg.handle cw).bad = false → 750 ≤ s.store.vccq → s.cwHeld g.seg.handle cw = false →
        s.ringPart slot.toNat ring.toNat = some part → e.piece ≤ part.2 →
        let at_ := ringNext part.2 (s.ringQ slot.toNat ring.toNat)
        (∀ r ∈ ringSpans part at_ e.piece, mergeClean s.shm r.1 r.2) →
        ∃ t, exec (.pieceStaged slot ring) s = .next t ∧
          t = { s with
            regs := t.regs, shm := t.shm, hostGran := t.hostGran, store := t.store, passes := t.passes, rings := t.rings } ∧
          t.ringQ slot.toNat ring.toNat = s.ringQ slot.toNat ring.toNat ++
            [{ pass := p.no, core := pieceCore e k, at_ := at_, len := e.piece, taken := false }] ∧
          ((ringSpans part at_ e.piece).map (fun r => t.shm.bytes r.1 r.2)).flatten =
            bytesAt (xtsDecrypt key (flashTweak g.seg.handle cw) (padTo 4096 (s.codeword g.seg.handle cw).data))
              (s.pieceOff p i e x k % 4096) e.piece ∧
          (∀ y, (∀ r ∈ ringSpans part at_ e.piece, ¬ inRange y r.1 r.2) → t.shm.byte y = s.shm.byte y) ∧
          (∀ y, y ≠ ringKey slot.toNat ring.toNat → nget [] t.rings y = nget [] s.rings y) ∧
          t.passes = s.passes.map (fun q => if q.no = p.no then
            { q with pos := nset RingPos.zero q.pos ring.toNat (RingPos.after i e x k) } else q)) ∧
      (∀ y, s.ringRoom slot.toNat ring.toNat e.piece = true → s.segOf p.model.toNat p.gen e.layer e.seg = some g → g.seg.kind ≠ kDiff →
        0 < e.piece → s.pieceOff p i e x k % 4096 + e.piece ≤ 4096 →
        g.seg.place (s.pieceOff p i e x k / 4096) = .host y → s.hostGranule p.no.toNat g.owner y = none →
        ∃ t, exec (.pieceStaged slot ring) s = .next t ∧ t = { s with hostGran := t.hostGran, outbox := t.outbox } ∧
          t.hostGranule p.no.toNat g.owner y = some [] ∧ t.outbox = .hostRead ((s.model g.owner).hbase + 4096 * y) 4096 :: s.outbox)) ∧
    (∀ (slot : BitVec 3) off (p : Pass) i (e : SEntry),
      s.passes.find? (fun p => p.slot = slot && p.cmd.isSome && p.no.toNat = leNat (s.shm.bytes off 4)) = some p →
      routeEntry p off 0 (s.schedOf p) = some (i, e) → s.staging p = true → cleanRange s.shm off 64 →
      (s.routeOk p e (s.shm.bytes off 64) = true → exec (.routeRecord slot off) s = .next { s with
        passes := s.passes.map (fun q => if q.no = p.no then { q with routes := nset [] q.routes i (s.shm.bytes off 64) } else q) }) ∧
      (s.routeOk p e (s.shm.bytes off 64) = false →
        ∃ t, exec (.routeRecord slot off) s = .next t ∧ t = { s with regs := t.regs, cores := t.cores, chans := t.chans, shm := t.shm, cmds := t.cmds, seqs := t.seqs, pages := t.pages, used := t.used, models := t.models, hostGran := t.hostGran, store := t.store, passes := t.passes, passNo := t.passNo, rings := t.rings, ports := t.ports, evt := t.evt, ras := t.ras, pcie := t.pcie, outbox := t.outbox } ∧ bitOf (t.reg 0x7000C) 28 = true ∧
          ∀ r k, p.cmd = some r → s.cmd? r = some k →
            (k.stage = .started → ∃ j, t.cmd? r = some j ∧ BitVec.ofNat 16 stBounds ∈ j.forced) ∧
            (k.stage ≠ .started → endedAs t r stBounds))) ∧
    (∀ val, s.linkOpen = true → (∀ e ∈ s.models, e.2.st ≠ .loading ∧ e.2.st ≠ .ready) →
      ((∀ a, mirrorOf (val &&& 0x800FFFFF) (s.reg 0x70004) = some a → s.mirrorPlaceOk a = true) →
        exec (.strMirrorWrite false val) s = .next (s.setReg 0x70000 (val &&& 0x800FFFFF))) ∧
      ((∀ a, mirrorOf (s.reg 0x70000) (val &&& 0x000FFFFF) = some a → s.mirrorPlaceOk a = true) →
        exec (.strMirrorWrite true val) s = .next (s.setReg 0x70004 (val &&& 0x000FFFFF)))) ∧
    (∀ val size, s.linkOpen = true → (∃ e ∈ s.models, e.2.st = .loading ∨ e.2.st = .ready) →
      exec (.strMirrorWrite size val) s = .next (s.setReg 0x7000C (s.reg 0x7000C ||| 0x80000000))) ∧
    (∀ r k res, s.cmd? r = some k → (k.stage = .placing ∨ k.stage = .started) → k.host = none →
      ∃ t, exec (.hostReadCompletion (.command r) res) s = .next t ∧ t = { s with cmds := t.cmds } ∧ cmdsElse s t r ∧
        t.cmd? r = some { k with host := some res }) ∧
    (∀ (m : BitVec 5) g d no, s.hostAsked m.toNat g = some no →
      ((∃ q ∈ s.passes, q.no.toNat = no) →
        exec (.hostReadCompletion (.granule m g) (.ok d)) s = .next (s.setHostGranule no m.toNat g (some (padTo 4096 d)))) ∧
      ((∀ q ∈ s.passes, q.no.toNat ≠ no) →
        exec (.hostReadCompletion (.granule m g) (.ok d)) s = .next (s.setHostGranule no m.toNat g none))) ∧
    (∀ (m : BitVec 5) g res no, s.hostAsked m.toNat g = some no → (∀ d, res ≠ HostRead.ok d) →
      ∃ t, exec (.hostReadCompletion (.granule m g) res) s = .next t ∧ t = { s with regs := t.regs, cores := t.cores, chans := t.chans, cmds := t.cmds, seqs := t.seqs, pages := t.pages, used := t.used, models := t.models, hostGran := t.hostGran, store := t.store, passes := t.passes, passNo := t.passNo, rings := t.rings, ports := t.ports, evt := t.evt, ras := t.ras, pcie := t.pcie, outbox := t.outbox } ∧
        ((∀ q ∈ s.passes, q.no.toNat = no → q.cmd = none) → bitOf (t.reg 0x7000C) 26 = true ∧
          t.hostGranule no m.toNat g = none ∧ t.cmds = s.cmds ∧ t.passes = s.passes ∧
          logged t 0x0F01 srcStr stUncorrectable (regCopy (t.reg 0x7000C) 0x7000C))) ∧
    (∀ res, mgtBusy s = true → mgtOp s = 4 →
      exec (.hostReadCompletion .firmware res) s = .next { s with ras := { s.ras with fwData := some res } }) ∧
    (∀ res, (mgtBusy s = false ∨ mgtOp s ≠ 4) → exec (.hostReadCompletion .firmware res) s = .next s)

/-- Once DRAM is initialised and not being cleared: a read with a key joins its channel's queue of at most 64 with the
line as it stands (bytes written and read at acceptance are the choice of log 68), and writes nothing; a write of a
whole line is taken in with its bytes, clears the line's poison and leaves every byte of other lines; a write of a
part is merged and keeps the poison. DRAM_READ_RETURN of an awake channel serves a read that neither row protection
nor a merge it waits for holds, a host's first, one older than 2 us next, a row hit before another, and sends a host's
line as it stood at its acceptance; without such a read it serves a write while draining is on or a read waits for its
merge; the merge of a poisoned line is recorded and its reads are poisoned. Patrol in an idle bank reads the next line
of its channel, corrects one or two bytes in error and counts it, and poisons a line with three, with its record,
unless a whole new line waits for it (the order of the lines is the choice of log 41). A refresh is issued, or
postponed while fewer than eight are owed, and takes a constant off the bank's activation count (log 68). A cleared
unit is zero, without poison, under the device key. (DRAM Controller) -/
def Obligations.DramRequestsAreServed : Prop :=
  ∀ (s : State), s.dram.ready = true → s.dram.clearing = false →
    (∀ (req : Requester) line (key : BitVec 7) tag, line < dramLines → s.reqTag key = some tag →
      (s.dram.reads (lineAddr line).ch).length < 64 →
      ∃ t q, exec (.dramRequest req line key []) s = .next t ∧ t = { s with dram := t.dram } ∧ t.dram.mem = s.dram.mem ∧
        t.dram.reads (lineAddr line).ch = s.dram.reads (lineAddr line).ch ++ [q] ∧
        q.req = req ∧ q.line = line ∧ q.key = key ∧ q.wr = false ∧ q.us = s.us ∧ q.bad = s.dram.linePoison line ∧
        (s.dram.lineKey line = tag → q.data = (List.range 64).map (fun i => s.dram.mem.byte (64 * line + i))) ∧
        (q.full = true ↔ ∃ w ∈ s.dram.writes (lineAddr line).ch, w.line = line ∧ w.full = true) ∧
        (q.merge = true ↔ ∃ w ∈ s.dram.writes (lineAddr line).ch, w.line = line ∧ w.full = false) ∧
        nget 0 t.dram.lastReq (lineAddr line).ch = s.us ∧
        t.dram.wq = s.dram.wq ∧ ∀ c, c ≠ (lineAddr line).ch → t.dram.reads c = s.dram.reads c) ∧
    (∀ (req : Requester) line (key : BitVec 7) tag wr, line < dramLines → s.reqTag key = some tag → coversLine wr = true →
      (s.dram.writes (lineAddr line).ch).length < 64 → (∀ q ∈ s.dram.writes (lineAddr line).ch, q.line ≠ line) →
      ∃ t, exec (.dramRequest req line key wr) s = .next t ∧ t = { s with dram := t.dram } ∧
        t.dram.writes (lineAddr line).ch = s.dram.writes (lineAddr line).ch ++
          [{ req := req, line := line, key := key, wr := true, us := s.us, data := [], bad := false, full := true, merge := false }] ∧
        (∀ i, i < 64 → t.dram.mem.byte (64 * line + i) = (overlayLine (List.replicate 64 0) wr).getD i 0) ∧
        t.dram.linePoison line = false ∧ t.dram.lineKey line = tag ∧
        ∀ a, a / 64 ≠ line → t.dram.mem.byte a = s.dram.mem.byte a) ∧
    (∀ (req : Requester) line (key : BitVec 7) tag wr, line < dramLines → s.reqTag key = some tag → coversLine wr = false → wr ≠ [] →
      s.dram.lineKey line = tag → (s.dram.writes (lineAddr line).ch).length < 64 →
      (∀ q ∈ s.dram.writes (lineAddr line).ch, q.line ≠ line) →
      ∃ t, exec (.dramRequest req line key wr) s = .next t ∧ t = { s with dram := t.dram } ∧
        t.dram.writes (lineAddr line).ch = s.dram.writes (lineAddr line).ch ++
          [{ req := req, line := line, key := key, wr := true, us := s.us, data := [], bad := false, full := false, merge := false }] ∧
        (∀ i, i < 64 → t.dram.mem.byte (64 * line + i) =
          (overlayLine ((List.range 64).map (fun j => s.dram.mem.byte (64 * line + j))) wr).getD i 0) ∧
        t.dram.linePoison line = s.dram.linePoison line ∧ t.dram.lineKey line = tag ∧
        ∀ a, a / 64 ≠ line → t.dram.mem.byte a = s.dram.mem.byte a) ∧
    (∀ (ch : BitVec 4), s.chAwake ch.toNat = true →
      let open_ : DReq → Prop := fun x => x ∈ s.dram.reads ch.toNat ∧ x.merge = false ∧ (x.full = true ∨ s.actHeld (lineAddr x.line) x.req = false)
      (∀ x, open_ x → ∃ q t, open_ q ∧ exec (.dramReadReturn ch []) s = .next t ∧ t = { s with
          regs := t.regs, dram := t.dram, evt := t.evt, ras := t.ras, pcie := t.pcie, outbox := t.outbox } ∧ t.dram.mem = s.dram.mem ∧
        t.dram.reads ch.toNat = (s.dram.reads ch.toNat).erase q ∧ t.dram.wq = s.dram.wq ∧
        (x.req.toNat = 19 → q.req.toNat = 19) ∧
        (2 < s.us - x.us → q.req.toNat = 19 ∨ 2 < s.us - q.us) ∧
        (s.rowHit x = true → q.req.toNat = 19 ∨ 2 < s.us - q.us ∨ s.rowHit q = true) ∧
        (q.req.toNat = 19 → ∃ more, t.outbox = .read q.data q.bad :: more)) ∧
      (∀ w, (∀ x, ¬ open_ x) → w ∈ s.dram.writes ch.toNat →
        (s.dram.drain.getLsbD ch.toNat = true ∨ ∃ x ∈ s.dram.reads ch.toNat, x.merge = true ∧ x.line = w.line) → s.actHeld (lineAddr w.line) w.req = false →
        ∃ q t, q ∈ s.dram.writes ch.toNat ∧ s.actHeld (lineAddr q.line) q.req = false ∧ exec (.dramReadReturn ch []) s = .next t ∧
          t = { s with regs := t.regs, dram := t.dram, evt := t.evt, ras := t.ras, pcie := t.pcie, outbox := t.outbox } ∧
          t.dram.mem = s.dram.mem ∧ t.dram.writes ch.toNat = (s.dram.writes ch.toNat).erase q ∧
          (∀ c, c ≠ ch.toNat → t.dram.reads c = s.dram.reads c) ∧
          t.dram.reads ch.toNat = (s.dram.reads ch.toNat).map (fun (x : DReq) => if x.merge = true ∧ x.line = q.line then
            { x with merge := false, full := true, bad := if q.full then x.bad else s.dram.linePoison q.line } else x) ∧
          (q.full = false → s.dram.linePoison q.line = true → logged t 0x0203 srcDrm 0 (toLE 4 q.line)))) ∧
    (∀ line a b c, s.chAwake (lineAddr line).ch = true → line < dramLines → s.bankIdle (lineAddr line) = true →
      s.actHeld (lineAddr line) 20 = false → line = s.patrolNext (lineAddr line).ch → a ≠ b → a ≠ c → b ≠ c →
      a.toNat < 68 → b.toNat < 68 → c.toNat < 68 →
      (∀ l, l = [a] ∨ l = [a, b] → ∃ t, exec (.dramPatrol line l) s = .next t ∧ t = { s with regs := t.regs, dram := t.dram, evt := t.evt, ras := t.ras, pcie := t.pcie, outbox := t.outbox } ∧ t.dram.mem = s.dram.mem ∧
        t.reg 0x5004C = satField (s.reg 0x5004C) 0 32 1 ∧
        nget 0 t.dram.patrol (lineAddr line).ch = nget 0 s.dram.patrol (lineAddr line).ch + 1) ∧
      (s.replaced line = false → ∃ t, exec (.dramPatrol line [a, b, c]) s = .next t ∧ t = { s with regs := t.regs, dram := t.dram, evt := t.evt, ras := t.ras, pcie := t.pcie, outbox := t.outbox } ∧ t.dram.linePoison line = true ∧
        nget 0 t.dram.patrol (lineAddr line).ch = nget 0 s.dram.patrol (lineAddr line).ch + 1 ∧
        t.dram.mem.cells = s.dram.mem.cells ∧ logged t 0x0202 srcDrm stUncorrectable (regCopy (t.reg 0x50050) 0x50050) ∧ signalled t 1)) ∧
    (∀ (ch bank : BitVec 4), s.chAwake ch.toNat = true →
      let b := bankIx ch.toNat bank.toNat
      (nget 0 s.dram.owed b < 8 → ∃ t, exec (.dramRefresh ch bank false) s = .next t ∧ t = { s with dram := t.dram } ∧
        nget 0 t.dram.owed b = nget 0 s.dram.owed b + 1 ∧ t.dram.mem = s.dram.mem) ∧
      (8 ≤ nget 0 s.dram.owed b → ∃ t, exec (.dramRefresh ch bank false) s = .next t ∧ t = { s with dram := t.dram } ∧
        t.dram.owed = s.dram.owed ∧ nget 0 t.dram.openRow b = 0 ∧ t.dram.mem = s.dram.mem ∧
        nget 0 t.dram.raa b = nget 0 s.dram.raa b - Config.raaDec) ∧
      (∃ t, exec (.dramRefresh ch bank true) s = .next t ∧ t = { s with dram := t.dram } ∧
        nget 0 t.dram.owed b = nget 0 s.dram.owed b - 1 ∧ nget 0 t.dram.openRow b = 0 ∧ t.dram.mem = s.dram.mem)) ∧
    (∀ u, u < dramUnits → (nset false s.dram.cleared u true).length < dramUnits → nget false s.dram.cleared u = false →
      ∃ t, exec (.dramClearUnit u) { s with dram := { s.dram with clearing := true } } = .next t ∧ t = { s with dram :=
        { s.dram with clearing := true, cleared := nset false s.dram.cleared u true, keys := t.dram.keys, mem := t.dram.mem } } ∧
        (∀ a, t.dram.mem.byte a = (if a / 65536 = u then 0 else s.dram.mem.byte a)) ∧
        (∀ l, t.dram.linePoison l = (if l / 1024 = u then false else s.dram.linePoison l)) ∧
        ∀ l, t.dram.lineKey l = (if l / 1024 = u ∧ (s.keyTag 116).getD 0 ≠ 0 then (s.keyTag 116).getD 0 else s.dram.lineKey l))

/-- With no switch under way: a management write with VALID freezes an open shadow set within the ranges of MODE, one
without opens a frozen set, and a mode out of range sets CFG_ERR. DRM_SWITCH of a frozen set whose MRW is done and
whose rate the mode allows starts a switch or, before READY, the initialisation; their ends exchange the sets, and the
first initialisation starts the clearing (with the store up it brings back the kept bitstreams and models too). A
probe runs and ends with its count. MR4, the windows, self-refresh (no exit while a switch is under way) and a
temperature sample act as stated. A channel's MRWs, the end of a switch and the windows are single events (the choice
of log 68); a rate above the mode's limit leaves DRM_SWITCH without effect (log 105). (DRAM Controller: Timing sets
and the change of rate, DRAM Controller: Refresh and row protection, DRAM Controller: Start-up and reset) -/
def Obligations.DramIsInitialisedAndSwitched : Prop :=
  ∀ (s : State),
    (∀ val, bitOf val 31 = true → s.shadowSel = true → s.dram.switching = false → bitOf s.dram.shadow.mode 31 = false →
      (modeOk val = true → exec (.shadowFreeze val) s = .next { s with dram := { s.dram with
        shadow := { s.dram.shadow with mode := val &&& 0xFE000000 }, mrwDone := !s.dram.ready } }) ∧
      (modeOk val = false → exec (.shadowFreeze val) s = .next s.drmCfgErr)) ∧
    (∀ val, bitOf val 31 = false → s.shadowSel = true → s.dram.switching = false →
      (bitOf s.dram.shadow.mode 31 = true → exec (.shadowOpen val) s = .next { s with dram := { s.dram with
        shadow := { s.dram.shadow with mode := s.dram.shadow.mode &&& 0x7FFFFFFF }, mrwDone := false } }) ∧
      (bitOf s.dram.shadow.mode 31 = false → modeOk val = true → exec (.shadowOpen val) s = .next { s with dram := { s.dram with
        shadow := { s.dram.shadow with mode := val &&& 0x7E000000 } } })) ∧
    (s.dram.ready = true → bitOf s.dram.shadow.mode 31 = true → s.dram.moving = false →
      exec .mrwDone s = .next { s with dram := { s.dram with mrwDone := true } }) ∧
    (∀ val, bitOf val 31 = true → getBits s.dram.shadow.mode 28 3 < s.rateLimit → exec (.dramSwitch val) s = .next s) ∧
    (∀ val, bitOf val 31 = true → s.rateLimit ≤ getBits s.dram.shadow.mode 28 3 →
      (bitOf s.dram.shadow.mode 31 = true → s.dram.mrwDone = true → s.dram.moving = false → exec (.dramSwitch val) s = .next { s with
        dram := if s.dram.ready then { s.dram with switching := true } else { s.dram with initing := true } }) ∧
      ((bitOf s.dram.shadow.mode 31 = false ∨ s.dram.mrwDone = false ∨ s.dram.moving = true) →
        exec (.dramSwitch val) s = .next s.drmCfgErr)) ∧
    (s.dram.switching = true → ∃ t, exec .dramSwitchDone s = .next t ∧ t = { s with regs := t.regs, dram := t.dram, evt := t.evt, ras := t.ras, pcie := t.pcie, outbox := t.outbox } ∧ t.dram.switching = false ∧
      t.dram.active = s.dram.shadow ∧ t.dram.shadow = { s.dram.active with mode := s.dram.activeMode } ∧ t.dram.mrwDone = true ∧
      t.dram.flip = !s.dram.flip ∧ t.dram.mem = s.dram.mem ∧
      logged t 0x0207 srcDrm 0 (toLE 4 s.dram.activeMode.toNat ++ [0, 0, 0, 0] ++ toLE 4 t.dram.activeMode.toNat)) ∧
    (s.dram.initing = true → ∃ t, exec .dramInitDone s = .next t ∧ t = { s with regs := t.regs, models := t.models, bs := t.bs, dram := t.dram, evt := t.evt, ras := t.ras, pcie := t.pcie, outbox := t.outbox } ∧ t.dram.ready = true ∧
      t.dram.active = s.dram.shadow ∧
      (s.store.ready = false ∨ s.islandUp = false → t = { s with dram := t.dram } ∧ t.dram.seen = true ∧
        t.dram.initing = false ∧ t.dram.selfRef = 0 ∧ t.dram.fresh = false ∧ t.dram.mem = s.dram.mem ∧
        (s.dram.fresh = true → t.dram.clearing = true ∧ t.dram.cleared = []) ∧
        (s.dram.fresh = false → t.dram.clearing = s.dram.clearing ∧ t.dram.cleared = s.dram.cleared))) ∧
    (∀ val, bitOf val 31 = true → s.dram.probing = false → getBits val 21 5 ≤ 17 →
      exec (.drmProbe val) s = .next { (s.setReg 0x50034 (val &&& 0x7FFFE000)).setReg 0x50038 0 with
        dram := { s.dram with probing := true } }) ∧
    (∀ errors : BitVec 11, s.dram.probing = true → errors.toNat ≤ 1024 →
      exec (.probeDone errors) s = .next { s.setReg 0x50038 (0x80000000 ||| errors.setWidth 32) with
        dram := { s.dram with probing := false } }) ∧
    (∀ mult, s.dram.ready = true → exec (.mr4Poll mult) s = .next { s with dram := { s.dram with mr4 := mult } }) ∧
    exec .hammerWindow s = .next { s with dram := { s.dram with rowCount := [], throttled := [], lastAct := [] } } ∧
    exec .laneWindow s = .next { s with dram := { s.dram with laneWin := [] } } ∧
    (∀ ch : BitVec 4, s.chAwake ch.toNat = true → getBits (s.reg 0x50008) 0 16 ≠ 0 → s.dram.reads ch.toNat = [] →
      s.dram.writes ch.toNat = [] → getBits (s.reg 0x50008) 0 16 ≤ s.us - nget 0 s.dram.lastReq ch.toNat →
      ∃ t, exec (.selfRefreshEntry ch) s = .next t ∧ t = { s with dram := t.dram } ∧
        t.dram.mem = s.dram.mem ∧ ∀ c, c < 16 → t.dram.selfRef.getLsbD c = (c == ch.toNat || s.dram.selfRef.getLsbD c)) ∧
    (∀ ch : BitVec 4, s.dram.switching = true → exec (.selfRefreshExit ch) s = .next s) ∧
    (∀ ch : BitVec 4, s.dram.switching = false → s.dram.selfRef.getLsbD ch.toNat = true → (s.dram.reads ch.toNat ≠ [] ∨ s.dram.writes ch.toNat ≠ []) →
      ∃ t, exec (.selfRefreshExit ch) s = .next t ∧ t = { s with dram := t.dram } ∧
        t.dram.mem = s.dram.mem ∧ ∀ c, c < 16 → t.dram.selfRef.getLsbD c = (c != ch.toNat && s.dram.selfRef.getLsbD c)) ∧
    (∀ temp : BitVec 8,
      (outOfBand (getBits s.dram.active.mode 26 2) temp.toInt = false ∨ s.dram.ready = false →
        exec (.dramTempSample temp) s = .next { s.setReg 0x5005C (temp.setWidth 32) with dram := { s.dram with bandOut := false } }) ∧
      (s.dram.ready = true → outOfBand (getBits s.dram.active.mode 26 2) temp.toInt = true → s.dram.bandOut = true →
        exec (.dramTempSample temp) s = .next (s.setReg 0x5005C (temp.setWidth 32))) ∧
      (s.dram.ready = true → outOfBand (getBits s.dram.active.mode 26 2) temp.toInt = true → s.dram.bandOut = false →
        ∃ t, exec (.dramTempSample temp) s = .next t ∧ t = { s with regs := t.regs, dram := t.dram, evt := t.evt, ras := t.ras, pcie := t.pcie, outbox := t.outbox } ∧ bitOf (t.reg 0x50000) 22 = true ∧
          t.dram = { s.dram with bandOut := true } ∧ (∃ more, t.outbox = .mgmtSignal 0x0206 :: more) ∧
          logged t 0x0206 srcDrm 0 (regCopy (temp.setWidth 32) 0x5005C)))

/-- An enable by the host or the management controller starts training outside quarantine, and stops a pattern test that
the port no longer permits; training that ends with enough lanes and a peer whose route leads here makes the port UP
with the peer's credits and sends the unacknowledged flits again and then what waits; one that fails, a disable and a
silent peer take it DOWN with empty buffers, end every collective that needs it and every system operation that does,
and record ULK_ERR, other ports only sending on; a wrong peer is MISWIRED. A replay timeout and a NAK send the
unacknowledged flits again and count it; the eighth failure in a row retrains. An IDLE flit frees what it acknowledges
and returns its credits. A failed CRC is counted and answered by one NAK. (Ulirvo Link and Multi-Device Systems:
Replay and credits, Ulirvo Link and Multi-Device Systems: Training, Ulirvo Link and Multi-Device Systems: Registers) -/
def Obligations.PortsTrainFailAndReplay : Prop :=
  ∀ (s : State) (p : BitVec 2),
    let x := s.port p.toNat
    let down := fun (t : State) (lanes : BitVec 8) (en : Bool) =>
      t = { s with regs := t.regs, draws := t.draws, cores := t.cores, chans := t.chans, shm := t.shm, ports := t.ports, colls := t.colls, evt := t.evt, ras := t.ras, pcie := t.pcie, outbox := t.outbox } ∧
      (∀ q, q ≠ p.toNat → t.port q = { s.port q with
        txSeq := (t.port q).txSeq, replay := (t.port q).replay, credits := (t.port q).credits, outq := (t.port q).outq }) ∧
      ((∀ c ∈ s.colls, s.collNeeds p.toNat c = false) → (∀ key ∈ s.sysBusy, s.chanNeeds key p.toNat = false) → ∀ q, q ≠ p.toNat → t.port q = s.port q) ∧ (∀ c ∈ t.colls, s.collNeeds p.toNat c = false) ∧
      t.port p.toNat = { x with en := en, st := 3, lanes := lanes, replay := [], outq := [], retrain := false, fails := 0 } ∧
      logged t 0x0501 srcUlk 0 (regCopy (t.reg 0xB0210) 0xB0210) ∧ signalled t 1
    let again := (x.replay.map (fun f => Out.flit p (x.acked f))).reverse ++ s.outbox
    let reach := s.linkOpen = true ∨ (1 ≤ s.aon.groups ∧ ¬ (s.pcie.perst = true ∧ s.aon.groups = 5))
    (∀ val, reach → bitOf val 31 = true →
      (let up := s.setPort p.toNat { x with en := true, st := 1, retrain := bitOf val 30 }
       x.en = false → s.sec.quarantine = false → exec (.portEnable p val) s = .next up.tstBreak ∧
        (s.tst.running = false ∨ up.tstHolds = true → exec (.portEnable p val) s = .next up)) ∧
      (x.en = true → bitOf val 30 = true →
        exec (.portRetrain p val) s = .next (s.setPort p.toNat { x with en := true, st := 1, retrain := true }))) ∧
    (∀ val, reach → bitOf val 31 = false → x.en = true →
      ∃ t, exec (.portDisable p val) s = .next t ∧ down t x.lanes false) ∧
    (x.en = true → x.st = 3 → exec (.portRetry p) s = .next (s.setPort p.toNat { x with en := true, st := 1 })) ∧
    (x.st = 2 → ∃ t, exec (.peerSilence p) s = .next t ∧ down t x.lanes x.en) ∧
    (x.st = 1 →
      (∀ lanes, (∃ t, exec (.portTrainingDone p (.failed lanes)) s = .next t ∧ down t lanes x.en) ∧
        (widthOf lanes = none → ∀ rate16 peer, ∃ t, exec (.portTrainingDone p (.up lanes rate16 peer)) s = .next t ∧ down t lanes x.en)) ∧
      (∀ lanes rate16 (peer : BitVec 4) w, widthOf lanes = some w →
        let y0 : Port := { x with width := w, rate16 := rate16, peer := peer, lanes := lanes, retrain := false, fails := 0 }
        let y : Port := { y0 with nakSent := false, credits := fullCredits }
        (peer.toNat ≠ s.node → p.toNat ∈ s.hops peer.toNat →
          let up : State := { s.setPort p.toNat { y with st := 2 } with outbox := again }
          exec (.portTrainingDone p (.up lanes rate16 peer)) s = .next (up.pump p.toNat) ∧ (x.outq = [] → up.pump p.toNat = up)) ∧
        ((peer.toNat = s.node ∨ p.toNat ∉ s.hops peer.toNat) →
          ∃ t, exec (.portTrainingDone p (.up lanes rate16 peer)) s = .next t ∧ t = { s with regs := t.regs, draws := t.draws, cores := t.cores, chans := t.chans, shm := t.shm, ports := t.ports, colls := t.colls, evt := t.evt, ras := t.ras, pcie := t.pcie, outbox := t.outbox } ∧
            t.port p.toNat = { y with st := 4, outq := [] } ∧ logged t 0x0501 srcUlk 0 (regCopy (t.reg 0xB0210) 0xB0210) ∧ signalled t 1))) ∧
    (x.st = 2 →
      (x.replay = [] → exec (.replayTimeout p) s = .next s) ∧
      (x.replay ≠ [] → ∃ t, exec (.replayTimeout p) s = .next t ∧ t = { s with regs := t.regs, ports := t.ports, outbox := again } ∧
        t.reg (0xB010C + 0x20 * p.toNat) = satField (s.reg (0xB010C + 0x20 * p.toNat)) 0 32 1 ∧
        t.port p.toNat = (if x.fails < 7 then { x with fails := x.fails + 1 }
          else { x with fails := 0, en := true, st := 1, retrain := true })) ∧
      (∃ t, exec (.flitCrcFail p) s = .next t ∧ t = { s with regs := t.regs, ports := t.ports, outbox := t.outbox } ∧
        t.reg (0xB0108 + 0x20 * p.toNat) = satField (s.reg (0xB0108 + 0x20 * p.toNat)) 0 32 1 ∧
        t.port p.toNat = { x with nakSent := true } ∧
        t.outbox = if x.nakSent then s.outbox else .flit p (x.acked { Flit.zero with typ := 4 }) :: s.outbox) ∧
      (∀ f : Flit,
        let rest := x.replay.dropWhile (covered f.ack)
        let z : Port := { x with
          replay := rest
          fails := if rest.length < x.replay.length then 0 else x.fails
          credits := nset 0 x.credits f.crvc.toNat (x.creditsOf f.crvc.toNat + f.credits.toNat) }
        (f.typ = 0 → exec (.flitIdle p f) s = .next ((s.setPort p.toNat z).pump p.toNat) ∧
          (x.outq = [] → exec (.flitIdle p f) s = .next (s.setPort p.toNat z))) ∧
        (f.typ = 4 → x.outq = [] → z.replay ≠ [] → z.fails < 7 → ∃ t, exec (.flitNak p f) s = .next t ∧
          t = { s with regs := t.regs, ports := t.ports, outbox := (z.replay.map (fun g => Out.flit p (x.acked g))).reverse ++ s.outbox } ∧
          t.reg (0xB010C + 0x20 * p.toNat) = satField (s.reg (0xB010C + 0x20 * p.toNat)) 0 32 1 ∧
          t.port p.toNat = { z with fails := z.fails + 1 })))

/-- At an UP port with nothing waiting: a CTRL flit in order for this node moves the expected number on, takes its link
word, returns its credit and is consumed; a DATA, COL, CTRL or GRESET flit 1 to 256 numbers behind the expected one is
dropped after its link word is taken, and one at any other distance is discarded with a NAK, the port still expecting
the same number; one on a VC that its type does not use is discarded. (When acknowledgements and NAKs leave, and the
drop of a duplicate without an answer, are the choices of log 48, the places of a COL flit's fields those of log 46.)
A DATA flit for another node leaves by the port of its route with that port's next number, its credit returned only
then; a COL arrival joins a gather that still waits, a withdrawal takes it back, a release frees the participants here
unless this member took its arrival back (log 107), a cancellation ends the operation and stops its participants here
with ST_TIMEOUT; a GRESET applies its domain's reset with a record. A write of ULK_GRESET with GO does the same here
when this device is a member. Every one of these flits, and a write of ULK_GRESET, answers a next state in every
state. (Ulirvo Link and Multi-Device Systems: The flit, Ulirvo Link and Multi-Device Systems: Replay and credits,
Ulirvo Link and Multi-Device Systems: The Col network across devices, Ulirvo Link and Multi-Device Systems: Nodes and
routes) -/
def Obligations.FlitsAreTakenInOrder : Prop :=
  ∀ (s : State) (p : BitVec 2) (f : Flit),
    let x := s.port p.toNat
    let rest := x.replay.dropWhile (covered f.ack)
    let taken := fun (t : State) => t.port p.toNat = { x with
      rxSeq := x.rxSeq + 1
      nakSent := false
      replay := rest
      fails := if rest.length < x.replay.length then 0 else x.fails
      credits := nset 0 x.credits f.crvc.toNat (x.creditsOf f.crvc.toNat + f.credits.toNat) }
    let discarded := fun (t : State) (y : Port) => t = { s with regs := t.regs, ports := t.ports, outbox := t.outbox } ∧
      t.port p.toNat = { y with nakSent := true } ∧ (∀ q, q ≠ p.toNat → t.port q = s.port q) ∧
      t.reg (0xB0108 + 0x20 * p.toNat) = satField (s.reg (0xB0108 + 0x20 * p.toNat)) 0 32 1 ∧
      (∀ off, off ≠ 0xB0108 + 0x20 * p.toNat → t.reg off = s.reg off) ∧
      t.outbox = (if x.nakSent then s.outbox else .flit p (x.acked { Flit.zero with typ := 4 }) :: s.outbox)
    let outOfOrder := fun (i : Instr) =>
      let y : Port := { x with
        replay := rest
        fails := if rest.length < x.replay.length then 0 else x.fails
        credits := nset 0 x.credits f.crvc.toNat (x.creditsOf f.crvc.toNat + f.credits.toNat) }
      (∀ d, 1 ≤ d → d ≤ 256 → f.seq = x.rxSeq - BitVec.ofNat 12 d → exec i s = .next (s.setPort p.toNat y)) ∧
      (∀ d, 257 ≤ d → d < 4096 → f.seq = x.rxSeq - BitVec.ofNat 12 d → ∃ t, exec i s = .next t ∧ discarded t y)
    let acked := fun (n : BitVec 6) => Out.flit p { Flit.zero with ack := f.seq, crvc := BitVec.ofNat 2 (poolOfFlit f), credits := n }
    (x.st = 2 → x.outq = [] → f.vc = 0 →
      (f.seq = x.rxSeq → f.dst.toNat = s.node →
        (f.typ = 3 → ∃ t, exec (.flitCtrl p f) s = .next t ∧ t = { s with ports := t.ports, outbox := acked 1 :: s.outbox } ∧ taken t) ∧
        (f.typ = 2 → bitOf f.offset 4 = false → bitOf f.offset 5 = false → bitOf f.offset 6 = false →
          let key := 64 + getBits f.offset 0 4
          let c : Chan := { s.chan key with
            sys := (s.chan key).sys ||| BitVec.ofNat 16 (getBits f.offset 16 16)
            from_ := nset none (s.chan key).from_ f.src.toNat (some p) }
          c.gathers = false → ∃ t, exec (.flitCol p f) s = .next t ∧
            t = { s with chans := t.chans, ports := t.ports, outbox := acked 1 :: s.outbox } ∧ taken t ∧
            t.chan key = c ∧ ∀ y, y ≠ key → t.chan y = s.chan y) ∧
        (f.typ = 2 → bitOf f.offset 4 = true → bitOf f.offset 5 = false → bitOf f.offset 6 = false →
          let key := 64 + getBits f.offset 0 4
          (((s.chan key).sysSent = true ∨ s.node = rootOf (s.members (key % 16))) →
            ∃ t, exec (.flitCol p f) s = .next t ∧ t = { s with regs := t.regs, draws := t.draws, cores := t.cores, chans := t.chans, shm := t.shm, ports := t.ports, evt := t.evt, ras := t.ras, pcie := t.pcie, outbox := t.outbox } ∧
              t.chan key = (s.chan key).noOp ∧ (∀ y, y ≠ key → t.chan y = s.chan y) ∧
              ∀ n, n < 16 → (s.chan key).mask.getLsbD n = true → waitsAt (s.core n) key = true → (t.core n).front = .running) ∧
          ((s.chan key).sysSent = false → s.node ≠ rootOf (s.members (key % 16)) →
            ∃ t, exec (.flitCol p f) s = .next t ∧ t = { s with chans := t.chans, ports := t.ports, outbox := t.outbox } ∧
              t.chan key = { s.chan key with sys := 0, from_ := [] } ∧ ∀ y, y ≠ key → t.chan y = s.chan y)) ∧
        (f.typ = 2 → bitOf f.offset 5 = false → bitOf f.offset 6 = true → (s.chan (64 + getBits f.offset 0 4)).sysSent = false →
          let key := 64 + getBits f.offset 0 4
          ∃ t, exec (.flitCol p f) s = .next t ∧
            t = { s with chans := t.chans, ports := t.ports, outbox := acked 1 :: s.outbox } ∧ taken t ∧
            t.chan key = { s.chan key with
              sys := (s.chan key).sys &&& ~~~BitVec.ofNat 16 (getBits f.offset 16 16)
              from_ := nset none (s.chan key).from_ f.src.toNat none } ∧ ∀ y, y ≠ key → t.chan y = s.chan y) ∧
        (f.typ = 2 → bitOf f.offset 5 = true → ∃ t, exec (.flitCol p f) s = .next t ∧ t = { s with regs := t.regs, draws := t.draws, cores := t.cores, chans := t.chans, shm := t.shm, ports := t.ports, evt := t.evt, ras := t.ras, pcie := t.pcie, outbox := t.outbox } ∧
          (let key := 64 + getBits f.offset 0 4
           t.chan key = (s.chan key).noOp ∧
           ∀ n node ch a g ts, n < 16 → (s.core n).front = .col node ch a g ts → waitsAt (s.core n) key = true →
             (s.core n).run = true → (s.core n).peer = false → (s.core n).code = none →
             (t.core n).front = .stopped ∧ (t.core n).code = some (BitVec.ofNat 16 stTimeout) ∧
             (t.core n).g = ((s.core n).setG g 8).g)) ∧
        (f.typ = 5 → ∃ t, exec (.flitGreset p f) s = .next t ∧ t = { s with regs := t.regs, latch := t.latch, draws := t.draws, cores := t.cores, chans := t.chans, shm := t.shm, shmPatrol := t.shmPatrol, parts := t.parts, cmds := t.cmds, ctxs := t.ctxs, spools := t.spools, seqs := t.seqs, pages := t.pages, used := t.used, models := t.models, hostGran := t.hostGran, store := t.store, passes := t.passes, passNo := t.passNo, rings := t.rings, bs := t.bs, dram := t.dram, sec := t.sec, pwr := t.pwr, ports := t.ports, colls := t.colls, evt := t.evt, ras := t.ras, tst := t.tst, pcie := t.pcie, wrg := t.wrg, outbox := t.outbox } ∧
          (bitOf f.offset 0 = true → t.cmds = [] ∧ t.spools = [] ∧ t.shm = .zero) ∧
          (∀ n, n < s.coreCount → (t.core n).run = false ∧ (t.core n).g = [] ∧ (t.core n).cmem = .zero) ∧
          logged t 0x0502 srcUlk 0 (regCopy (t.reg 0xB0214) 0xB0214))) ∧
      (f.typ = 3 → outOfOrder (.flitCtrl p f)) ∧ (f.typ = 2 → outOfOrder (.flitCol p f)) ∧ (f.typ = 5 → outOfOrder (.flitGreset p f))) ∧
    (x.st = 2 → x.outq = [] → f.typ = 1 → (f.vc = 1 ∨ f.vc = 2) → outOfOrder (.flitData p f)) ∧
    (x.st = 2 → f.vc ≠ 0 →
      (f.typ = 3 → ∃ t, exec (.flitCtrl p f) s = .next t ∧ discarded t x) ∧ (f.typ = 2 → ∃ t, exec (.flitCol p f) s = .next t ∧ discarded t x) ∧
      (f.typ = 5 → ∃ t, exec (.flitGreset p f) s = .next t ∧ discarded t x)) ∧
    (x.st = 2 → f.vc ≠ 1 → f.vc ≠ 2 → f.typ = 1 → ∃ t, exec (.flitData p f) s = .next t ∧ discarded t x) ∧
    (∃ t, exec (.flitData p f) s = .next t ∧ t = { s with regs := t.regs, ports := t.ports, colls := t.colls, outbox := t.outbox }) ∧ (∃ t, exec (.flitCol p f) s = .next t ∧ t = { s with regs := t.regs, draws := t.draws, cores := t.cores, chans := t.chans, shm := t.shm, ports := t.ports, evt := t.evt, ras := t.ras, pcie := t.pcie, outbox := t.outbox }) ∧
    (∃ t, exec (.flitCtrl p f) s = .next t ∧ t = { s with regs := t.regs, ports := t.ports, outbox := t.outbox }) ∧ (∃ t, exec (.flitGreset p f) s = .next t ∧ t = { s with regs := t.regs, latch := t.latch, draws := t.draws, cores := t.cores, chans := t.chans, shm := t.shm, shmPatrol := t.shmPatrol, parts := t.parts, cmds := t.cmds, ctxs := t.ctxs, spools := t.spools, seqs := t.seqs, pages := t.pages, used := t.used, models := t.models, hostGran := t.hostGran, store := t.store, passes := t.passes, passNo := t.passNo, rings := t.rings, bs := t.bs, dram := t.dram, sec := t.sec, pwr := t.pwr, ports := t.ports, colls := t.colls, evt := t.evt, ras := t.ras, tst := t.tst, pcie := t.pcie, wrg := t.wrg, outbox := t.outbox }) ∧
    (∀ val, ∃ t, exec (.ulkGreset val) s = .next t ∧ t = { s with regs := t.regs, latch := t.latch, draws := t.draws, cores := t.cores, chans := t.chans, shm := t.shm, shmPatrol := t.shmPatrol, parts := t.parts, cmds := t.cmds, ctxs := t.ctxs, spools := t.spools, seqs := t.seqs, pages := t.pages, used := t.used, models := t.models, hostGran := t.hostGran, store := t.store, passes := t.passes, passNo := t.passNo, rings := t.rings, bs := t.bs, dram := t.dram, sec := t.sec, pwr := t.pwr, ports := t.ports, colls := t.colls, evt := t.evt, ras := t.ras, tst := t.tst, pcie := t.pcie, wrg := t.wrg, outbox := t.outbox }) ∧
    (∀ q : BitVec 2, x.st = 2 → x.outq = [] → f.typ = 1 → f.vc = 1 → f.seq = x.rxSeq → f.dst.toNat ≠ s.node → q ≠ p →
      s.hops f.dst.toNat = [q.toNat] → s.dateline f.dst.toNat q.toNat = false → (s.port q.toNat).st = 2 → (s.port q.toNat).outq = [] →
      0 < (s.port q.toNat).creditsOf 1 → (s.port q.toNat).replay.length < 256 →
      (let g := { f with seq := (s.port q.toNat).txSeq, ack := (s.port q.toNat).rxSeq - 1 }
       ∃ t, exec (.flitData p f) s = .next t ∧ t = { s with ports := t.ports, outbox := acked 1 :: .flit q g :: acked 0 :: s.outbox } ∧ taken t ∧
        t.port q.toNat = { s.port q.toNat with
          txSeq := (s.port q.toNat).txSeq + 1
          replay := (s.port q.toNat).replay ++ [g]
          credits := nset 0 (s.port q.toNat).credits 1 ((s.port q.toNat).creditsOf 1 - 1) })) ∧
    (∀ val, bitOf val 31 = true → 1 ≤ s.aon.groups → ¬ (s.pcie.perst = true ∧ s.aon.groups = 5) → (nodesOf (BitVec.ofNat 16 (getBits val 4 16))).contains s.node = true →
      ∃ t, exec (.ulkGreset val) s = .next t ∧ t = { s with regs := t.regs, latch := t.latch, draws := t.draws, cores := t.cores, chans := t.chans, shm := t.shm, shmPatrol := t.shmPatrol, parts := t.parts, cmds := t.cmds, ctxs := t.ctxs, spools := t.spools, seqs := t.seqs, pages := t.pages, used := t.used, models := t.models, hostGran := t.hostGran, store := t.store, passes := t.passes, passNo := t.passNo, rings := t.rings, bs := t.bs, dram := t.dram, sec := t.sec, pwr := t.pwr, ports := t.ports, colls := t.colls, evt := t.evt, ras := t.ras, tst := t.tst, pcie := t.pcie, wrg := t.wrg, outbox := t.outbox } ∧
        (bitOf val 20 = true → t.cmds = [] ∧ t.spools = [] ∧ t.shm = .zero) ∧
        (∀ n, n < s.coreCount → (t.core n).run = false ∧ (t.core n).g = [] ∧ (t.core n).cmem = .zero) ∧
        logged t 0x0502 srcUlk 0 (regCopy (t.reg 0xB0214) 0xB0214)) ∧
    (∀ val, bitOf val 31 = false → exec (.ulkGreset val) s = .next s)

/-- COLLECTIVE_REQUEST of a permitted record in an active slot's queue sets its STATE to taken and holds the collective,
with its handshake to every other member when the queue has no other in work; a record out of range ends with
ST_BOUNDS. COLLECTIVE_MATCH of the first one, with every other member's agreeing record, starts it; records that
disagree end it with ST_BOUNDS. COLLECTIVE_DONE of a started one whose results are here writes DST, then STATUS ST_OK
and STATE done, and ST_POISONED where this device's input held poison; when the collective in work leaves its queue
the next one held sends its handshake (the transfer number in it is the choice of log 47). COLLECTIVE_TIMEOUT of one
that is not matched ends it with ST_TIMEOUT (its destination then holds free bytes, log 49). (Ulirvo Link and Multi-
Device Systems: Collectives) -/
def Obligations.CollectivesRunThroughTheQueue : Prop :=
  ∀ (s : State) (slot : BitVec 3) (idx : BitVec 4),
    let off := s.collOff slot.toNat idx.toNat
    let ended := fun (t : State) (c : Coll) (code : Nat) => t.shm.bytes (off + 0x3C) 3 = [BitVec.ofNat 8 code, 0, 3] ∧
      ∀ x, x ∈ t.colls ↔ x ∈ s.colls ∧ ¬ (x.slot = c.slot ∧ x.idx = c.idx)
    (∃ t, exec (.collectiveRequest slot idx) s = .next t ∧ t = { s with regs := t.regs, draws := t.draws, cores := t.cores, chans := t.chans, shm := t.shm, cmds := t.cmds, ports := t.ports, colls := t.colls, evt := t.evt, ras := t.ras, pcie := t.pcie, outbox := t.outbox }) ∧
    (∀ (c : Coll) (n q : Nat), s.otherMembers c = [n] → n < 16 → s.hops n = [q] → q < 4 → (s.port q).st = 2 → (s.port q).outq = [] →
      0 < (s.port q).creditsOf 0 → (s.port q).replay.length < 256 →
      let g : Flit := { Flit.zero with
        seq := (s.port q).txSeq, ack := (s.port q).rxSeq - 1, typ := 3, src := BitVec.ofNat 4 s.node, dst := BitVec.ofNat 4 n, len := 64
        offset := BitVec.ofNat 32 c.number, payload := padTo 112 c.record }
      (s.collCtrl c).outbox = .flit (BitVec.ofNat 2 q) g :: s.outbox ∧
        (s.collCtrl c).port q = { s.port q with
          txSeq := (s.port q).txSeq + 1
          replay := (s.port q).replay ++ [g]
          credits := nset 0 (s.port q).credits 0 ((s.port q).creditsOf 0 - 1) }) ∧
    (let c := Coll.ofRecord slot idx.toNat (s.shm.bytes off 64)
     (s.bsSlot slot.toNat).cqOk = true → s.cqOn slot.toNat = true → (s.bsSlot slot.toNat).st = .active → byteAt c.record 0x3E = 1 →
     s.coll? slot idx.toNat = none → s.linkless slot = [] → cleanRange s.shm off 64 →
      (s.collOk c = true → mergeClean s.shm (off + 0x3E) 1 → ∃ t, exec (.collectiveRequest slot idx) s = .next t ∧
        t = { s with shm := t.shm, ports := t.ports, colls := s.colls ++ [c], outbox := t.outbox } ∧
        ((s.collHead slot).isSome = true → t.ports = s.ports ∧ t.outbox = s.outbox) ∧
        (s.collHead slot = none → t.ports = (s.collCtrl c).ports ∧ t.outbox = (s.collCtrl c).outbox) ∧
        t.shm.byte (off + 0x3E) = 2 ∧ ∀ a, a ≠ off + 0x3E → t.shm.byte a = s.shm.byte a) ∧
      (s.collOk c = false → ∃ t, exec (.collectiveRequest slot idx) s = .next t ∧ t = { s with regs := t.regs, draws := t.draws, cores := t.cores, chans := t.chans, shm := t.shm, ports := t.ports, colls := t.colls, evt := t.evt, ras := t.ras, pcie := t.pcie, outbox := t.outbox } ∧ ended t c stBounds)) ∧
    (∀ c rs, s.colls.find? (fun c => c.slot = slot) = some c → c.idx = idx.toNat → c.started = false → s.collMatches c rs = true →
      ((∀ r ∈ rs, collAgree c r.record = true) → ∃ t, exec (.collectiveMatch slot idx rs) s = .next t ∧ t = { s with regs := t.regs, draws := t.draws, cores := t.cores, chans := t.chans, shm := t.shm, ports := t.ports, colls := t.colls, evt := t.evt, ras := t.ras, pcie := t.pcie, outbox := t.outbox } ∧
        (∀ y ∈ s.colls, (y.slot ≠ slot ∨ y.idx ≠ c.idx) → y ∈ t.colls) ∧
        ∃ x ∈ t.colls, x.slot = slot ∧ x.idx = c.idx ∧ x.record = c.record ∧ x.started = true ∧
          x.peers = rs.foldl (fun m r => nset 0 m r.node.toNat r.xfer.toNat) []) ∧
      ((∃ r ∈ rs, collAgree c r.record = false) → ∃ t, exec (.collectiveMatch slot idx rs) s = .next t ∧ t = { s with regs := t.regs, draws := t.draws, cores := t.cores, chans := t.chans, shm := t.shm, ports := t.ports, colls := t.colls, evt := t.evt, ras := t.ras, pcie := t.pcie, outbox := t.outbox } ∧
        ended t c stBounds ∧ logged t 0x0501 srcUlk 0 (regCopy (t.reg 0xB0210) 0xB0210) ∧ signalled t 1)) ∧
    (∀ c, s.coll? slot idx.toNat = some c →
      (∀ rs, c.started = true → c.sent = true → s.collResults c = some rs → (∀ r ∈ rs, ∀ b ∈ r.2, b = false) →
        c.poison = false → mergeClean s.shm (off + 0x3C) 4 →
        mergeClean s.shm (c.u 8 4) (collOutput c (rs.map (fun r => r.1))).length →
        (let out := collOutput c (rs.map (fun r => r.1))
         ∃ t, exec (.collectiveDone slot idx) s = .next t ∧ t = { s with shm := t.shm, ports := t.ports, colls := t.colls, outbox := t.outbox } ∧ ended t c stOk ∧
          (∀ d, s.collHead slot = some c → t.collHead slot = some d → t.ports = (s.collCtrl d).ports ∧ t.outbox = (s.collCtrl d).outbox) ∧
          (s.collHead slot ≠ some c ∨ t.collHead slot = none → t.ports = s.ports ∧ t.outbox = s.outbox) ∧
          (c.u 8 4 + out.length ≤ off + 0x3C ∨ off + 0x40 ≤ c.u 8 4 → t.shm.bytes (c.u 8 4) out.length = out) ∧
          ∀ a, ¬ inRange (c.u 8 4) out.length a → ¬ inRange (off + 0x3C) 4 a → t.shm.byte a = s.shm.byte a)) ∧
      (∀ rs, c.started = true → c.sent = true → s.collResults c = some rs → c.poison = true →
        ∃ t, exec (.collectiveDone slot idx) s = .next t ∧ t = { s with regs := t.regs, draws := t.draws, cores := t.cores, chans := t.chans, shm := t.shm, ports := t.ports, colls := t.colls, evt := t.evt, ras := t.ras, pcie := t.pcie, outbox := t.outbox } ∧ ended t c stPoisoned) ∧
      (c.started = false → ∃ t, exec (.collectiveTimeout slot idx) s = .next t ∧ t = { s with regs := t.regs, draws := t.draws, cores := t.cores, chans := t.chans, shm := t.shm, ports := t.ports, colls := t.colls, evt := t.evt, ras := t.ras, pcie := t.pcie, outbox := t.outbox } ∧ ended t c stTimeout) ∧
      (c.started = true → exec (.collectiveTimeout slot idx) s = .next s))

/-- Over an open link with the island ready: GET_VERSION restarts the negotiation; GET_CAPABILITIES needs it,
NEGOTIATE_ALGORITHMS needs those, and digests, certificates, challenges, measurements and KEY_EXCHANGE need all three;
a request out of order is answered UnexpectedRequest and changes nothing. A certificate slot other than 0 is answered
InvalidRequest. KEY_EXCHANGE takes the lowest free session, refuses a fifth, and is refused in quarantine; FINISH
establishes it or ends it; HEARTBEAT, KEY_UPDATE and END_SESSION act on an established one. The certificate chain is a
free function of the derived keys (log entry 101) and its digest is of it; CHALLENGE and a signed MEASUREMENTS end in
the alias key's ECDSA signature over a free digest with a free secret, and key shares are free values (log entry 50).
The refusal of a request out of order and the sessions kept over GET_VERSION are the readings of log 51. (Security and
Context Isolation: Identity and attestation) -/
def Obligations.SpdmIsNegotiatedInOrder : Prop :=
  ∀ (s : State), s.spdmOpen = true →
    let err := fun (e : Byte) => { s with outbox := .spdm 0x7F [e] :: s.outbox }
    let spdm := fun (p : Spdm) (o : Out) => { s with sec := { s.sec with spdm := p }, outbox := o :: s.outbox }
    let free := fun (t : State) (code : Nat) (fixed : List Byte) (n : Nat) => ∃ bs : List Byte, bs.length = n ∧
      t.draws = s.draws + 1 ∧ t = { s with draws := t.draws, outbox := .spdm code (fixed ++ bs) :: s.outbox }
    let signed := fun (t : State) (code : Nat) (fixed : List Byte) => ∃ d : List Byte, d.length = 96 ∧
      t = { s with draws := s.draws + 1, outbox := .spdm code (fixed ++
        ecdsaSign (privOf (s.keySlot aliasSlot).key) (d.take 48) (privOf (d.drop 48))) :: s.outbox }
    exec .getVersion s = .next (spdm { s.sec.spdm with version := true, caps := false, algs := false } (.spdm 0x04 [0x00, 0x12])) ∧
    (s.sec.spdm.version = true →
      exec .getCapabilities s = .next (spdm { s.sec.spdm with caps := true } (.spdm 0x61 (toLE 4 0x000462D6)))) ∧
    (s.sec.spdm.version = false → exec .getCapabilities s = .next (err 4)) ∧
    (s.sec.spdm.caps = true →
      exec .negotiateAlgorithms s = .next (spdm { s.sec.spdm with algs := true } (.spdm 0x63 algSel))) ∧
    (s.sec.spdm.caps = false → exec .negotiateAlgorithms s = .next (err 4)) ∧
    (s.sec.spdm.algs = false → ∀ slot off len nonce index sign req,
      exec .getDigests s = .next (err 4) ∧ exec (.getCertificate slot off len) s = .next (err 4) ∧
      exec (.challenge slot nonce) s = .next (err 4) ∧ exec (.getMeasurements index sign nonce) s = .next (err 4) ∧
      exec (.keyExchange req) s = .next (err 4)) ∧
    (s.sec.spdm.algs = true →
      exec .getDigests s = .next { s with outbox := .spdm 0x01 (1 :: sha384 s.certChain) :: s.outbox } ∧
      (∀ (slot : BitVec 4) off len nonce,
        (slot = 0 → exec (.getCertificate slot off len) s = .next { s with
            outbox := .spdm 0x02 (toLE 2 off.toNat ++ (s.certChain.drop off.toNat).take len.toNat) :: s.outbox } ∧
          (∃ t, exec (.challenge slot nonce) s = .next t ∧ signed t 0x03 [])) ∧
        (slot ≠ 0 → exec (.getCertificate slot off len) s = .next (err 1) ∧ exec (.challenge slot nonce) s = .next (err 1))) ∧
      (∀ (index : BitVec 8) sign nonce,
        (∀ blocks, (index.toNat ≠ 0 ∧ index.toNat ≤ 15 ∧ blocks = s.measureBlock index.toNat) ∨ (index = 0 ∧ blocks = [0x0F]) ∨
            (index = 0xFF ∧ blocks = ((List.range 15).map (fun j => s.measureBlock (j + 1))).flatten) →
          ∃ t, exec (.getMeasurements index sign nonce) s = .next t ∧
            (sign = true → signed t 0x60 blocks) ∧ (sign = false → free t 0x60 blocks 0)) ∧
        (15 < index.toNat → index ≠ 0xFF → exec (.getMeasurements index sign nonce) s = .next (err 1))) ∧
      (∀ req, (s.sec.quarantine = true → exec (.keyExchange req) s = .next (err 4)) ∧
        (s.sec.quarantine = false → (∀ i, i < 4 → s.sess i ≠ .none) → exec (.keyExchange req) s = .next (err 10)) ∧
        (∀ i, s.sec.quarantine = false → i < 4 → s.sess i = .none → (∀ j, j < i → s.sess j ≠ .none) →
          ∃ t bs, bs.length = 192 ∧ exec (.keyExchange req) s = .next t ∧
            t = { s with sec := t.sec, draws := s.draws + 1, outbox := .spdm 0x64 (BitVec.ofNat 8 i :: bs) :: s.outbox } ∧
            t.sess i = .handshake ∧ ∀ j, j ≠ i → t.sess j = s.sess j))) ∧
    (∀ sess : BitVec 2,
      (s.sess sess.toNat = .handshake →
        (∃ t, exec (.finish sess true) s = .next t ∧ t = { s with sec := t.sec, outbox := .spdm 0x65 [] :: s.outbox } ∧
          t.sess sess.toNat = .established ∧ (t.keySlot (120 + 2 * sess.toNat)).kind = .internal ∧
          (t.keySlot (121 + 2 * sess.toNat)).kind = .internal ∧ ∀ j, j ≠ sess.toNat → t.sess j = s.sess j) ∧
        (∃ t, exec (.finish sess false) s = .next t ∧ t = { s with sec := t.sec, outbox := .spdm 0x7F [6] :: s.outbox } ∧
          t.sess sess.toNat = .none ∧ t.sec.slots = s.sec.slots)) ∧
      (s.inSession sess = true →
        exec (.heartbeat sess) s = .next { s with outbox := .spdm 0x68 [] :: s.outbox } ∧
        (∃ t, exec (.keyUpdate sess) s = .next t ∧ t = { s with sec := t.sec, outbox := .spdm 0x69 [] :: s.outbox } ∧
          nget 0 t.sec.spdm.phases sess.toNat = nget 0 s.sec.spdm.phases sess.toNat + 1 ∧ t.sec.slots = s.sec.slots) ∧
        (∃ t, exec (.endSession sess) s = .next t ∧ t = { s with sec := t.sec, ctxs := t.ctxs, outbox := .spdm 0x6C [] :: s.outbox } ∧
          t.sess sess.toNat = .none ∧ (t.keySlot (120 + 2 * sess.toNat)).kind = .empty ∧
          (t.keySlot (121 + 2 * sess.toNat)).kind = .empty ∧ (∀ j, j ≠ sess.toNat → t.sess j = s.sess j) ∧
          ∀ m, m < 32 → (s.keySlot (weightKeySlot m)).kind = .weight → (s.keySlot (weightKeySlot m)).session.toNat = sess.toNat →
            t.keySlot (weightKeySlot m) = { s.keySlot (weightKeySlot m) with held := false })) ∧
      (s.sess sess.toNat ≠ .established → ∀ set sub tx key payload,
        exec (.heartbeat sess) s = .next (err 4) ∧ exec (.keyUpdate sess) s = .next (err 4) ∧ exec (.endSession sess) s = .next (err 4) ∧
        exec (.keyWeight sess payload) s = .next (err 4) ∧ exec (.keyContext sess payload) s = .next (err 4) ∧
        exec (.keyVerify sess payload) s = .next (err 4) ∧ exec (.keyDestroy sess payload) s = .next (err 4) ∧
        exec (.keyProg sess set sub tx key) s = .next (err 4) ∧ exec (.kSetGo sess set) s = .next (err 4) ∧
        exec (.kSetStop sess set) s = .next (err 4) ∧ exec (.ideKmQuery sess) s = .next (err 4)))

/-- In an established session: KEY_WEIGHT of an installed model without a key, KEY_CONTEXT of an unused context and
KEY_VERIFY of an empty slot 1 to 7 fill their slots with the key, the next generation and, where sealed, both copies
of a blob sealed under slot 117 (what is sealed with it is the layout of log 101), and answer ST_OK with the handle; a
full slot ends with ST_KEY, which outranks a wrong field, and a free model, a context in use or a wrong field with
ST_BOUNDS, and KEY_DESTROY takes the key of a valid handle that its session holds, after ending with ST_KEY every RUN
of its model that has not started. KEY_PROG fills IDE slots of a set that is not in use; K_SET_GO and K_SET_STOP turn
a full set on and off (a set that is not full does not go, log 53); QUERY tells the slots that hold keys. No other
slot changes. The codes are those of log 50, and KEY_CONTEXT over a full slot, the handle bits and the RUNs that end
are the readings of log 52. (Security and Context Isolation: Key messages, Security and Context Isolation: Key slots
and handles) -/
def Obligations.KeyMessagesFillAndEmptySlots : Prop :=
  ∀ (s : State) (sess : BitVec 2) (payload : List Byte), s.spdmOpen = true → s.inSession sess = true →
    let form := fun (op len : Nat) => payload.length = len ∧ leAt payload 0 2 = op ∧ leAt payload 2 2 = len
    let answer := fun (code handle : Nat) => Out.spdm 0x7E (bytesAt payload 0 2 ++ toLE 2 code ++ toLE 4 handle)
    let refused := fun (code : Nat) => { s with outbox := answer code 0 :: s.outbox }
    let alsoRefused := fun (t : State) (code : Nat) => t = { s with
      regs := t.regs, draws := t.draws, evt := t.evt, ras := t.ras, pcie := t.pcie, outbox := t.outbox } ∧
      ∃ more, t.outbox = answer code 0 :: more
    let fills := fun (t : State) (slot : Nat) (k : KeySlot) =>
      t.keySlot slot = { k with gen := (s.keySlot slot).gen + 1 } ∧ (∀ j, j ≠ slot → t.keySlot j = s.keySlot j) ∧
      (k.sealed_ = true → (s.keySlot sealSlot).kind ≠ .empty → t.blob slot = some (t.sealed slot) ∧
        t.blob (128 + slot) = some (t.sealed slot) ∧ ∀ j, j ≠ slot → j ≠ 128 + slot → t.blob j = s.blob j) ∧
      (k.sealed_ = false ∨ (s.keySlot sealSlot).kind = .empty → t.sec.blobs = s.sec.blobs) ∧
      t.outbox = answer stOk (((s.keySlot slot).gen + 1).toNat * 65536 + slot) :: s.outbox
    (∀ (e : (Instr × Nat) × Nat), e ∈ [((.keyWeight sess payload, 0x0101), 0x50), ((.keyContext sess payload, 0x0102), 0x48),
        ((.keyVerify sess payload, 0x0103), 0x68), ((.keyDestroy sess payload, 0x0104), 0x08)] →
      ¬ form e.1.2 e.2 → exec e.1.1 s = .next (refused stBounds)) ∧
    (form 0x0101 0x50 →
      let m := byteAt payload 4
      let slot := weightKeySlot m
      (m < 32 → byteAt payload 5 < 2 → byteAt payload 7 = 0 → (s.model m).st ≠ .free →
        ((s.keySlot slot).kind = .empty →
          ∃ t, exec (.keyWeight sess payload) s = .next t ∧ t = { s with sec := t.sec, outbox := t.outbox } ∧
            fills t slot { weightMsgKey sess payload with gen := 0 }) ∧
        ((s.keySlot slot).kind ≠ .empty → exec (.keyWeight sess payload) s = .next (refused stKey))) ∧
      (32 ≤ m ∨ 2 ≤ byteAt payload 5 ∨ byteAt payload 7 ≠ 0 ∨ (s.model m).st = .free →
        (32 ≤ m ∨ (s.keySlot slot).kind = .empty → exec (.keyWeight sess payload) s = .next (refused stBounds)) ∧
        (m < 32 → (s.keySlot slot).kind ≠ .empty → ∃ t, exec (.keyWeight sess payload) s = .next t ∧ alsoRefused t stKey))) ∧
    (form 0x0102 0x48 →
      let c := byteAt payload 4
      let f := byteAt payload 5
      (c < 64 → f < 8 → leAt payload 6 2 = 0 → s.ctxInUse c = false →
        ∃ t, exec (.keyContext sess payload) s = .next t ∧ t = { s with ctxs := t.ctxs, sec := t.sec, outbox := t.outbox } ∧
          (t.keySlot (ctxKeySlot c)).kind = .context ∧ (t.keySlot (ctxKeySlot c)).key = bytesAt payload 8 64 ∧
          (t.keySlot (ctxKeySlot c)).gen = (s.keySlot (ctxKeySlot c)).gen + 1 ∧
          (∀ j, j ≠ ctxKeySlot c → t.keySlot j = s.keySlot j) ∧ (∀ d, d ≠ c → t.ctx d = s.ctx d) ∧ t.sec.blobs = s.sec.blobs ∧
          t.ctx c = { s.ctx c with
            sealed_ := true, hostrw := decide (f % 2 = 1), idereq := decide (f / 2 % 2 = 1), ulink := decide (f / 4 % 2 = 1) }) ∧
      (64 ≤ c ∨ 8 ≤ f ∨ leAt payload 6 2 ≠ 0 ∨ s.ctxInUse c = true → exec (.keyContext sess payload) s = .next (refused stBounds))) ∧
    (form 0x0103 0x68 →
      let slot := byteAt payload 4
      (1 ≤ slot → slot ≤ 7 → leAt payload 5 3 = 0 →
        ((s.keySlot slot).kind = .empty →
          ∃ t, exec (.keyVerify sess payload) s = .next t ∧ t = { s with sec := t.sec, outbox := t.outbox } ∧
            (t.keySlot slot).kind = .verify ∧ (t.keySlot slot).key = bytesAt payload 8 96 ∧ (t.keySlot slot).sealed_ = true ∧
            fills t slot (t.keySlot slot)) ∧
        ((s.keySlot slot).kind ≠ .empty → exec (.keyVerify sess payload) s = .next (refused stKey))) ∧
      (slot < 1 ∨ 7 < slot ∨ leAt payload 5 3 ≠ 0 →
        (slot < 1 ∨ 7 < slot ∨ (s.keySlot slot).kind = .empty → exec (.keyVerify sess payload) s = .next (refused stBounds)) ∧
        (1 ≤ slot → slot ≤ 7 → (s.keySlot slot).kind ≠ .empty →
          ∃ t, exec (.keyVerify sess payload) s = .next t ∧ alsoRefused t stKey))) ∧
    (form 0x0104 0x08 →
      let h := leAt payload 4 4
      let slot := h % 128
      let k := s.keySlot slot
      let empties := fun (t : State) => (t.keySlot slot).kind = .empty ∧ t.blob slot = none ∧ t.blob (128 + slot) = none ∧
        (∀ j, j ≠ slot → t.keySlot j = s.keySlot j) ∧ t.outbox = answer stOk 0 :: s.outbox
      ((k.kind = .empty ∨ k.gen.toNat * 65536 + slot ≠ h) → exec (.keyDestroy sess payload) s = .next (refused stKey)) ∧
      (k.gen.toNat * 65536 + slot = h → k.kind = .weight → k.held = true → k.session.toNat = sess.toNat →
        (∀ j ∈ s.cmds, j.isRun = false) → s.passesOf (slot - 72) = [] → 72 ≤ slot → slot < 104 →
        ∃ t, exec (.keyDestroy sess payload) s = .next t ∧ t = { s with ctxs := t.ctxs, sec := t.sec, outbox := t.outbox } ∧ empties t) ∧
      (k.gen.toNat * 65536 + slot = h → k.kind = .weight → k.held = true → k.session.toNat = sess.toNat → 72 ≤ slot → slot < 104 →
        ∃ t, exec (.keyDestroy sess payload) s = .next t ∧ t = { s with
          regs := t.regs, cmds := t.cmds, ctxs := t.ctxs, seqs := t.seqs, pages := t.pages, used := t.used, models := t.models
          hostGran := t.hostGran, store := t.store, passes := t.passes, passNo := t.passNo, rings := t.rings, sec := t.sec, evt := t.evt
          ras := t.ras, pcie := t.pcie, outbox := t.outbox } ∧
          ∀ j ∈ s.cmds, j.isRun = true → j.rModel = slot - 72 → (j.stage = .fetched ∨ j.stage = .waiting ∨ j.stage = .placing) →
            (∀ i ∈ s.cmds, i.ref = j.ref → i = j) → endedAs t j.ref stKey) ∧
      (k.gen.toNat * 65536 + slot = h → k.kind = .weight → (k.held = false ∨ k.session.toNat ≠ sess.toNat) →
        exec (.keyDestroy sess payload) s = .next (refused stKey)) ∧
      (k.gen.toNat * 65536 + slot = h → k.kind = .verify → 1 ≤ slot → slot ≤ 7 →
        (∀ i, i < 8 → ((s.bsSlot i).st = .resident ∨ (s.bsSlot i).st = .active) → bsKeyId (s.bsSlot i).image ≠ slot) →
        ∃ t, exec (.keyDestroy sess payload) s = .next t ∧ t = { s with sec := t.sec, outbox := t.outbox } ∧ empties t)) ∧
    (∀ set (sub : BitVec 2) tx key, sub ≠ 3 → s.ideInUse set = false →
      ∃ t, exec (.keyProg sess set sub tx key) s = .next t ∧
        t = { s with sec := t.sec, outbox := .spdm 0x7E [BitVec.ofNat 8 kpAck, 0] :: s.outbox } ∧
        (t.keySlot (ideSlot set sub.toNat tx)).kind = .ide ∧ (t.keySlot (ideSlot set sub.toNat tx)).key = key ∧
        ∀ j, j ≠ ideSlot set sub.toNat tx → t.keySlot j = s.keySlot j) ∧
    (∀ set, let ack := Out.spdm 0x7E [BitVec.ofNat 8 goStopAck]
      exec (.kSetGo sess set) s = .next { s with
        sec := if s.ideFull set then { s.sec with ideSecure := true, ideSet := set } else s.sec, outbox := ack :: s.outbox } ∧
      exec (.kSetStop sess set) s = .next { s with
        sec := if s.ideInUse set then { s.sec with ideSecure := false } else s.sec, outbox := ack :: s.outbox }) ∧
    (∃ t, exec (.ideKmQuery sess) s = .next t ∧ t = { s with outbox := t.outbox } ∧
      t.outbox = .spdm 0x7E (1 :: (List.range 12).map (fun i => if (s.keySlot (104 + i)).kind = .ide then 1 else 0)) :: s.outbox)

/-- An alarm in sleep only latches, with its record and vector 1; one of start-up latches, and puts an island whose keys
are not yet unsealed into quarantine; one while running or in a key operation latches, empties every key slot but slot
0, ends the waiting commands with ST_TAMPER, takes every port to DISABLED and puts the island into quarantine. The
start-up of an island without a latched alarm outside test mode is ready with its keys; else it is in quarantine, and
one whose firmware does not verify only finishes an erasure. Zeroisation's end erases the blobs. KIND is that of the
latest alarm and the device sleeps in Background and Idle (the readings of log 54). SEC_CTX_POLICY writes ADMIN and
empties the key of an unused context on ZERO; a window register changes only while its context is disabled and idle,
and only to a permitted window (one of size 0 is not, log 55). (Security and Context Isolation: Tamper, Security and
Context Isolation: Start-up, Security and Context Isolation: Context keys, windows and the host) -/
def Obligations.TamperQuarantineAndContextPolicy : Prop :=
  ∀ (s : State),
    (∀ (sensor : BitVec 3),
      let bit := BitVec.ofNat 5 (2 ^ sensor.toNat)
      let sensors := if s.sec.latched then s.sec.sensors ||| bit else bit
      let latched := fun (t : State) (kind : BitVec 3) =>
        t = { s with regs := t.regs, sec := t.sec, evt := t.evt, ras := t.ras, pcie := t.pcie, outbox := t.outbox } ∧
        t.sec = { s.sec with alarm := true, latched := true, kind := kind, sensors := sensors, erased := s.sec.erased && s.sec.latched } ∧
        logged t 0x0601 srcSec 0 (regCopy (secTamper t.sec) 0xA0004) ∧ signalled t 1
      let quarantined := fun (t : State) (kind : BitVec 3) => t = { s with regs := t.regs, draws := t.draws, cores := t.cores, chans := t.chans, shm := t.shm, cmds := t.cmds, ctxs := t.ctxs, seqs := t.seqs, pages := t.pages, used := t.used, models := t.models, hostGran := t.hostGran, store := t.store, passes := t.passes, passNo := t.passNo, rings := t.rings, bs := t.bs, dram := t.dram, sec := t.sec, ports := t.ports, colls := t.colls, evt := t.evt, ras := t.ras, pcie := t.pcie, outbox := t.outbox } ∧
        t.sec.quarantine = true ∧ t.sec.alarm = true ∧ t.sec.latched = true ∧ t.sec.kind = kind ∧ t.sec.sensors = sensors ∧
        (∀ n, n < 4 → (t.port n).st = 0) ∧ signalled t 1 ∧
        ∀ k ∈ s.cmds, k.stage ≠ .started → k.stage ≠ .ended → (∀ j ∈ s.cmds, j.ref = k.ref → j = k) → endedAs t k.ref stTamper
      let zeroed := fun (t : State) => (∀ n, 1 ≤ n → n < 128 → (t.keySlot n).kind = .empty) ∧ (∀ i, t.sess i = .none)
      (s.sensorRuns sensor true = true → (s.pwr.dev = .background ∨ s.pwr.dev = .idle) →
        ∃ t, exec (.tamperAlarm sensor .sleep) s = .next t ∧ latched t 2) ∧
      (s.sensorRuns sensor false = true →
        (s.sec.ready = false → ∃ t, exec (.tamperAlarm sensor .startup) s = .next t ∧ latched t 1) ∧
        (s.sec.ready = true → s.store.ready = false →
          ∃ t, exec (.tamperAlarm sensor .startup) s = .next t ∧ quarantined t 1 ∧ t.sec.slots = s.sec.slots) ∧
        (s.sec.ready = true → s.store.ready = true → 1 ≤ s.aon.groups →
          (∃ t, exec (.tamperAlarm sensor .run) s = .next t ∧ quarantined t 3 ∧ zeroed t) ∧
          ∀ slot, ∃ t, exec (.tamperAlarm sensor (.keyop slot)) s = .next t ∧ quarantined t 4 ∧ zeroed t))) ∧
    (s.aon.seq = .starting → s.sec.ready = false → s.sec.quarantine = false →
      ∀ bad, (s.sec.latched = false → s.sec.alarm = false → s.tap.testMode = false →
        ∃ t, exec (.securityStartupDone ⟨true, bad⟩) s = .next t ∧ t = { s with regs := t.regs, draws := t.draws, cores := t.cores, chans := t.chans, shm := t.shm, cmds := t.cmds, ctxs := t.ctxs, seqs := t.seqs, pages := t.pages, used := t.used, models := t.models, hostGran := t.hostGran, store := t.store, passes := t.passes, passNo := t.passNo, rings := t.rings, bs := t.bs, dram := t.dram, sec := t.sec, ports := t.ports, colls := t.colls, evt := t.evt, ras := t.ras, pcie := t.pcie, outbox := t.outbox } ∧
          (s.store.ready = false → t = { s with sec := t.sec }) ∧ t.sec.ready = true ∧
          t.sec.quarantine = false ∧ ∀ n, 116 ≤ n → n < 120 → (t.keySlot n).kind = .internal) ∧
      (s.sec.latched = true ∨ s.sec.alarm = true ∨ s.tap.testMode = true →
        ∃ t, exec (.securityStartupDone ⟨true, bad⟩) s = .next t ∧ t = { s with regs := t.regs, draws := t.draws, cores := t.cores, chans := t.chans, shm := t.shm, cmds := t.cmds, ctxs := t.ctxs, seqs := t.seqs, pages := t.pages, used := t.used, models := t.models, hostGran := t.hostGran, store := t.store, passes := t.passes, passNo := t.passNo, rings := t.rings, bs := t.bs, dram := t.dram, sec := t.sec, ports := t.ports, colls := t.colls, evt := t.evt, ras := t.ras, pcie := t.pcie, outbox := t.outbox } ∧ t.sec.ready = false ∧
          t.sec.quarantine = true) ∧
      (s.sec.zeroing = false → exec (.securityStartupDone ⟨false, bad⟩) s = .next s) ∧
      (s.sec.zeroing = true → exec (.securityStartupDone ⟨false, bad⟩) s =
        .next { s with sec := { s.sec with zeroing := false, erased := true, blobs := [] } })) ∧
    (s.sec.zeroing = true → exec .zeroisationComplete s =
      .next { s with sec := { s.sec with zeroing := false, erased := true, blobs := [] } }) ∧
    (s.sec.zeroing = false → exec .zeroisationComplete s = .next s) ∧
    exec .sensorDeassert s = .next { s with sec := { s.sec with alarm := false } } ∧
    (∀ val, s.linkOpen = true →
      let c := s.secCtx
      (bitOf val 25 = false → exec (.contextZero val) s = .next (s.setCtx c { s.ctx c with admin := bitOf val 31 })) ∧
      (bitOf val 25 = true → s.ctxInUse c = false → ∃ t, exec (.contextZero val) s = .next t ∧
        t = { s with ctxs := t.ctxs, sec := t.sec } ∧ (t.keySlot (ctxKeySlot c)).kind = .empty ∧ (t.ctx c).admin = bitOf val 31 ∧
        (∀ d, d ≠ c → t.ctx d = s.ctx d) ∧ (∀ j, j ≠ ctxKeySlot c → t.keySlot j = s.keySlot j) ∧
        ((s.keySlot (ctxKeySlot c)).kind ≠ .empty → (t.ctx c).sealed_ = false ∧ (t.ctx c).hostrw = false ∧ (t.ctx c).ulink = false)) ∧
      (bitOf val 25 = true → s.ctxInUse c = true →
        exec (.contextZero val) s = .next (s.setCtx c { s.ctx c with admin := bitOf val 31 }))) ∧
    (∀ (w : BitVec 2) (r : WinReg) val, s.linkOpen = true →
      let c := s.secCtx
      let v := if r = .cfg then val &&& 0xFC000000 else val &&& 0x000FFFFF
      let part := fun (i : Nat) => if i = winIndex r then v else s.reg (winKey c w.toNat i)
      let x := winOf (part 0) (part 1) (part 2)
      ((s.ctx c).en = true ∨ s.inflight c ≠ 0 → exec (.windowWrite w r val) s = .next s) ∧
      ((s.ctx c).en = false → s.inflight c = 0 →
        (x.en = false ∨ s.windowOk c w.toNat x = true →
          exec (.windowWrite w r val) s = .next (s.setReg (winKey c w.toNat (winIndex r)) v)) ∧
        (x.en = true → s.windowOk c w.toNat x = false →
          exec (.windowWrite w r val) s = .next (s.setReg 0xA0000 (s.reg 0xA0000 ||| 0x01000000)))))

/-- While powered: POWER_SAMPLE takes in the estimate that the islands' counts give (the tables are the part's own) and,
outside fixed mode, leaves every core at or below its demand; with the short average above PL2 it sets PL_LIMIT of
PWR_EVT and, every tenth sample, lowers the cores of one ridge by one point, or ends fixed mode; PWR_THROTTLE counts a
sample that leaves a core below its demand. POINT_RAMP_DONE raises the ridge's cores to the voltage reached unless a
thermal level holds them, and the voltage stays at their highest point. The averages and the step of a ridge are the
readings of log 59, the stretched cycles above 16 the choice of log 60. TEMP_SAMPLE keeps the reading, raises no
point, and acts by Table 4: at T_ALERT and above T_CTRL it sets its bits, and at 105 degrees it brings every core to
P0. A hot flash die sets its bit. Droop stretches a clock until the stretch ends, counted. CLK_FIXED takes its
setting. Without power nothing changes. (Power, Clocks and Thermal Control: Operating points, Power, Clocks and
Thermal Control: Power estimation and limits, Power, Clocks and Thermal Control: Thermal control, Power, Clocks and
Thermal Control: Droop and clock stretching) -/
def Obligations.GovernorKeepsItsLimits : Prop :=
  ∀ (s : State),
    (s.powered = false → ∀ cores others readings hottest, exec (.powerSample cores others) s = .next s ∧ exec (.tempSample readings) s = .next s ∧
      exec (.flashTempSample hottest) s = .next s) ∧
    (s.powered = true →
      (∀ cores others, ∃ t, exec (.powerSample cores others) s = .next t ∧ t = { s with regs := t.regs, draws := t.draws, cores := t.cores, pwr := t.pwr, evt := t.evt, ras := t.ras, pcie := t.pcie, outbox := t.outbox } ∧
        (let xs := s.estimate cores others :: s.pwr.samples.take 4999
         let overCap := s.pl2 * xs.length < xs.foldl (· + ·) 0
         t.pwr.samples = xs ∧ t.pwr.ticks = s.pwr.ticks + 1 ∧ t.pwr.ridgeMw = (List.range 4).map (s.ridgeEstimate cores) ∧
          ((∃ n, n < s.coreCount ∧ (t.core n).point < s.demand n) → t.reg 0x30034 = satField (s.reg 0x30034) 0 32 1) ∧
          ((∀ n, n < s.coreCount → s.demand n ≤ (t.core n).point) → t.reg 0x30034 = s.reg 0x30034) ∧
          (s.pwr.fixed ≠ 0 → overCap → t.pwr.fixed = 0 ∧ bitOf (t.reg 0x3002C) 4 = true) ∧
          (s.pwr.fixed = 0 → (∀ n, n < s.coreCount → (t.core n).point ≤ s.demand n) ∧ (overCap → bitOf (t.reg 0x3002C) 3 = true)) ∧
          (s.pwr.fixed = 0 → overCap → (s.pwr.ticks + 1) % 10 = 0 → (s.pwr.ticks + 1) % 500 ≠ 0 →
            (∃ n, n < s.coreCount ∧ 0 < min (s.core n).point (s.demand n)) →
            ∃ r, ∀ n, n < s.coreCount → (t.core n).point = min (s.core n).point (s.demand n) - (if s.ridge n = r then 1 else 0)))) ∧
      (∀ (i : BitVec 5) x, (16 ≤ i.toNat ∨ s.fuses.mask.getLsbD i.toNat = true) →
        ∃ t, exec (.tempSample [(i, x)]) s = .next t ∧ t = { s with regs := t.regs, draws := t.draws, cores := t.cores, store := t.store, pwr := t.pwr, evt := t.evt, ras := t.ras, pcie := t.pcie, outbox := t.outbox } ∧ t.pwr.temp? i.toNat = some x ∧
          (∀ n, (t.core n).point ≤ (s.core n).point) ∧
          (s.tAlert ≤ x → bitOf (t.reg 0x3002C) 0 = true) ∧
          (s.tCtrl < x → bitOf (t.reg 0x3002C) 1 = true ∧ t.pwr.fixed = 0 ∧ t.pwr.ctrlHold = true) ∧
          (105 ≤ x → bitOf (t.reg 0x3002C) 2 = true ∧ t.pwr.crit = true ∧ ∀ n, n < s.coreCount → (t.core n).point = 0)) ∧
      (∀ x, (x ≤ 90 → exec (.flashTempSample x) s = .next { s with pwr := { s.pwr with flashTemp := x } }) ∧
        (90 < x → ∃ t, exec (.flashTempSample x) s = .next t ∧ t = { s with regs := t.regs, pwr := t.pwr, evt := t.evt, ras := t.ras, pcie := t.pcie, outbox := t.outbox } ∧ t.pwr.flashTemp = x ∧
          bitOf (t.reg 0x3002C) 6 = true)) ∧
      (∀ n : BitVec 4, n.toNat < s.coreCount → (s.core n.toNat).point ≠ 0 →
        exec (.droopDetect (.core n)) s = .next (s.setCore n.toNat { s.core n.toNat with stretch := true })) ∧
      (∀ n : BitVec 2, exec (.droopDetect (.seg n)) s =
        .next { s with pwr := { s.pwr with segStretch := putBit s.pwr.segStretch n.toNat true } })) ∧
    (∀ r : BitVec 2, nget 0 s.pwr.rampTo r.toNat ≠ 0 →
      ∃ t, exec (.pointRampDone r) s = .next t ∧ t = { s with regs := t.regs, draws := t.draws, cores := t.cores, pwr := t.pwr } ∧
        nget 0 t.pwr.ridgePoint r.toNat = t.topPoint r.toNat ∧ nget 0 t.pwr.rampTo r.toNat = 0 ∧
        ((s.pwr.crit = true ∨ s.pwr.ctrlHold = true) → t = { s with pwr := t.pwr }) ∧
        (s.pwr.crit = false → s.pwr.ctrlHold = false → ∀ n, n < s.coreCount → (t.core n).point =
          if s.ridge n = r.toNat then min (nget 0 s.pwr.rampTo r.toNat) (s.raised n (s.core n).point) else (s.core n).point)) ∧
    (∀ n : BitVec 4, (s.core n.toNat).stretch = true →
      ∃ t k, exec (.stretchEnd (.core n)) s = .next t ∧ t = { s with regs := t.regs, draws := s.draws + 1, cores := t.cores } ∧
        t.core n.toNat = { s.core n.toNat with stretch := false } ∧ (∀ m, m ≠ n.toNat → t.core m = s.core m) ∧
        t.reg (clkStretch n.toNat) = satField (s.reg (clkStretch n.toNat)) 0 32 (16 + k)) ∧
    (∀ n : BitVec 2, s.pwr.segStretch.getLsbD n.toNat = true →
      ∃ t k, exec (.stretchEnd (.seg n)) s = .next t ∧ t = { s with regs := t.regs, draws := s.draws + 1, pwr := t.pwr } ∧
        t.pwr = { s.pwr with segStretch := putBit s.pwr.segStretch n.toNat false } ∧
        t.reg (0x40020 + 4 * n.toNat) = satField (s.reg (0x40020 + 4 * n.toNat)) 0 32 (16 + k)) ∧
    (∀ val, s.linkOpen = true →
      let set := { s with pwr := { s.pwr with fixed := BitVec.ofNat 2 (getBits val 0 2) } }
      (s.pwr.dev ≠ .background → exec (.clkFixedWrite val) s = .next set.exitIdle) ∧
      (s.pwr.dev = .background → getBits val 0 2 < 2 → exec (.clkFixedWrite val) s = .next set) ∧
      (s.pwr.dev = .background → 2 ≤ getBits val 0 2 →
        ∃ t, exec (.clkFixedWrite val) s = .next t ∧ t = { s with regs := t.regs, pwr := t.pwr, evt := t.evt, ras := t.ras, pcie := t.pcie, outbox := t.outbox } ∧ t.pwr.fixed = 0 ∧ bitOf (t.reg 0x3002C) 4 = true))

/-- From OFF, any on request starts the ramp with group 1 unless the trip is latched or MIN_OFF runs, in which case it is
latched, as it is in a shutdown; while the trip is latched it is refused with an event. Each group's power-good
enables the next, the first brings the always-on shadow, the third and the fourth close their power switch, and the
fifth is power-good with TEST_MODE taken and CLKREQ_N driven; a group out of order, late, or already good when its
enable would rise turns the rails off and leaves a SEQ_EVENT; outside a ramp only the level is kept. The safe point
reaches ON, or the power-down that was latched. An off request latches during a start and during a core fault, and
begins an orderly power-down from ON, ending waiting commands with ST_ABORTED; PWRFAIL, a trip and a failing group
begin an emergency shutdown with the log flushed and every running core stopped. The rails go once no program is in
progress, with nothing volatile left, both switches open and MIN_OFF running. (Power, Clocks and Thermal Control: The
sequencer, Package, Pins, Electrical and Test: Supplies) -/
def Obligations.SequencerMovesAsItsTable : Prop :=
  ∀ (s : State),
    let ramp := { s with aon := { s.aon with seq := .rampUp, groups := 0, onLatched := false }, outbox := .railEnable 1 true :: s.outbox }
    let latched := { s with aon := { s.aon with onLatched := true } }
    let off := fun (t : State) => t.aon.seq = .off ∧ t.aon.groups = 0 ∧ t.aon.minOff = true ∧ t.cmds = [] ∧ t.spools = [] ∧ t.dram = .reset ∧
      t.shm = .zero ∧ t.store.ready = false
    let opened := fun (t : State) => t.aon.dramSwitch = false ∧ t.aon.flashSwitch = false
    let down := fun (t : State) => t.aon.seq = .down ∧
      ∀ k ∈ s.cmds, k.stage ≠ .started → k.stage ≠ .ended → s.affected k.ref.ctx k.ref.spool = false →
        (∀ j ∈ s.cmds, j.ref = k.ref → j = k) → endedAs t k.ref stAborted
    let falls := fun (t : State) => t.aon.seq = .emergency ∧ t.aon.clean = false ∧ flushed t ∧
      (∀ n, n < 16 → (s.core n).run = true → (t.core n).front = .stopped) ∧ logged t 0x0702 srcAon 0 (toLE 1 (seqCode s.aon.seq))
    let fails := fun (t : State) (g : Nat) => t = { s with regs := t.regs, latch := t.latch, draws := t.draws, cores := t.cores, chans := t.chans, shm := t.shm, shmPatrol := t.shmPatrol, parts := t.parts, cmds := t.cmds, ctxs := t.ctxs, spools := t.spools, seqs := t.seqs, pages := t.pages, used := t.used, models := t.models, hostGran := t.hostGran, store := t.store, passes := t.passes, passNo := t.passNo, rings := t.rings, bs := t.bs, dram := t.dram, sec := t.sec, aon := t.aon, pwr := t.pwr, ports := t.ports, colls := t.colls, evt := t.evt, ras := t.ras, tap := t.tap, tst := t.tst, pcie := t.pcie, wrg := t.wrg, outbox := t.outbox } ∧ off t ∧ logged t 0x0703 srcAon 0 [1, BitVec.ofNat 8 g, 0]
    (s.aon.supply = true → s.aon.seq = .off → s.aon.trip = false → s.aon.minOff = false → s.aon.pg.getLsbD 1 = true →
      ∃ t, exec .powerOnRequest s = .next t ∧ fails t 1) ∧
    (s.aon.supply = true → s.aon.seq = .off → s.aon.trip = false → s.aon.minOff = false → s.aon.pg.getLsbD 1 = false →
      exec .powerOnRequest s = .next ramp ∧ (s.aon.autoOn = true → exec .pwrfailDeassert s = .next ramp) ∧
      ∀ val, bitOf val 31 = true → exec (.i3cOn val) s = .next ramp) ∧
    (s.aon.supply = true → (s.aon.seq = .off ∧ s.aon.trip = false ∧ s.aon.minOff = true ∨ s.aon.seq = .down ∨ s.aon.seq = .emergency) →
      exec .powerOnRequest s = .next latched ∧ (s.aon.autoOn = true → exec .pwrfailDeassert s = .next latched) ∧
      ∀ val, bitOf val 31 = true → exec (.i3cOn val) s = .next latched) ∧
    (s.aon.supply = true → s.aon.seq = .off → s.aon.trip = true →
      ∃ t, exec .powerOnRequest s = .next t ∧ (s.aon.autoOn = true → exec .pwrfailDeassert s = .next t) ∧
        (∀ val, bitOf val 31 = true → exec (.i3cOn val) s = .next t) ∧ t = { s with regs := t.regs, latch := t.latch, draws := t.draws, cores := t.cores, chans := t.chans, shm := t.shm, shmPatrol := t.shmPatrol, parts := t.parts, cmds := t.cmds, ctxs := t.ctxs, spools := t.spools, seqs := t.seqs, pages := t.pages, used := t.used, models := t.models, hostGran := t.hostGran, store := t.store, passes := t.passes, passNo := t.passNo, rings := t.rings, bs := t.bs, dram := t.dram, sec := t.sec, aon := t.aon, pwr := t.pwr, ports := t.ports, colls := t.colls, evt := t.evt, ras := t.ras, tap := t.tap, tst := t.tst, pcie := t.pcie, wrg := t.wrg, outbox := t.outbox } ∧ t.aon = s.aon ∧
        logged t 0x0703 srcAon 0 [0, 0, 1]) ∧
    (∀ val, bitOf val 31 = false → exec (.i3cOn val) s = .next s) ∧
    (∀ val, bitOf val 30 = false → exec (.i3cOff val) s = .next s) ∧
    (s.aon.autoOn = false → exec .pwrfailDeassert s = .next s) ∧
    (s.aon.seq = .off → s.aon.minOff = true →
      (s.aon.onLatched = false → exec .minOffExpire s = .next { s with aon := { s.aon with minOff := false, onLatched := false } }) ∧
      (s.aon.onLatched = true → s.aon.trip = false → s.aon.pg.getLsbD 1 = false → exec .minOffExpire s =
        .next { ramp with aon := { s.aon with seq := .rampUp, groups := 0, onLatched := false, minOff := false } })) ∧
    (s.aon.supply = true → ∀ g : BitVec 3, 1 ≤ g.toNat → g.toNat ≤ 5 →
      let kept := { s.aon with pg := putBit s.aon.pg g.toNat true }
      ((s.aon.seq ≠ .rampUp ∨ g.toNat ≤ s.aon.groups) → exec (.railGroupGood g) s = .next { s with aon := kept }) ∧
      (s.aon.seq = .rampUp → g.toNat = s.aon.groups + 1 → g.toNat < 5 → kept.pg.getLsbD (g.toNat + 1) = true →
        ∃ t, exec (.railGroupGood g) s = .next t ∧ fails t (g.toNat + 1)) ∧
      (s.aon.seq = .rampUp → g.toNat = s.aon.groups + 1 → kept.pg.getLsbD (g.toNat + 1) = false →
        (g.toNat = 1 → exec (.railGroupGood g) s = .next { s with
          aon := { kept with groups := 1, shadow := [aonStatus s.aon, aonCtrlWord s.aon, s.aon.alarm] ++ calWords s.aon }
          outbox := .railEnable 2 true :: s.outbox }) ∧
        (g.toNat = 2 → exec (.railGroupGood g) s = .next { s with
          aon := { kept with groups := 2 }, outbox := .railEnable 3 true :: s.outbox }) ∧
        (g.toNat = 3 → exec (.railGroupGood g) s = .next { s with
          aon := { kept with groups := 3, dramSwitch := true }, outbox := .railEnable 4 true :: .powerSwitch 3 true :: s.outbox }) ∧
        (g.toNat = 4 → exec (.railGroupGood g) s = .next { s with
          aon := { kept with groups := 4, flashSwitch := true }, outbox := .railEnable 5 true :: .powerSwitch 4 true :: s.outbox })) ∧
      (s.aon.seq = .rampUp → g.toNat = s.aon.groups + 1 → g.toNat = 5 → s.pcie.clkreq = false → exec (.railGroupGood g) s = .next { s with
        aon := { kept with groups := 5, seq := .starting, wake := false }, tap := { s.tap with testMode := s.tap.strap }
        pcie := { s.pcie with clkreq := true }, outbox := .clkreq true :: s.outbox }) ∧
      (s.aon.seq = .rampUp → s.aon.groups + 1 < g.toNat → ∃ t, exec (.railGroupGood g) s = .next t ∧ fails t g.toNat)) ∧
    (s.aon.supply = false → ∀ g, exec (.railGroupGood g) s = .next s ∧ exec (.railGroupFail g) s = .next s) ∧
    (s.aon.supply = true → s.aon.seq ≠ .starting → s.aon.seq ≠ .on → ∀ g : BitVec 3, 1 ≤ g.toNat → g.toNat ≤ 5 →
      exec (.railGroupFail g) s = .next { s with aon := { s.aon with pg := putBit s.aon.pg g.toNat false } }) ∧
    (s.aon.seq = .rampUp → ∀ g : BitVec 3, 1 ≤ g.toNat → g.toNat ≤ 5 →
      (g.toNat = s.aon.groups + 1 → ∃ t, exec (.railGroupTimeout g) s = .next t ∧ t = { s with regs := t.regs, latch := t.latch, draws := t.draws, cores := t.cores, chans := t.chans, shm := t.shm, shmPatrol := t.shmPatrol, parts := t.parts, cmds := t.cmds, ctxs := t.ctxs, spools := t.spools, seqs := t.seqs, pages := t.pages, used := t.used, models := t.models, hostGran := t.hostGran, store := t.store, passes := t.passes, passNo := t.passNo, rings := t.rings, bs := t.bs, dram := t.dram, sec := t.sec, aon := t.aon, pwr := t.pwr, ports := t.ports, colls := t.colls, evt := t.evt, ras := t.ras, tap := t.tap, tst := t.tst, pcie := t.pcie, wrg := t.wrg, outbox := t.outbox } ∧ off t ∧
        logged t 0x0703 srcAon 0 [1, BitVec.ofNat 8 g.toNat, 0])) ∧
    (s.aon.seq = .starting → s.dram.seen = true → s.sec.ready = true → s.store.ready = true →
      (s.aon.offLatched = false → exec .safePoint s = .next { s with aon := { s.aon with seq := .on } }) ∧
      (s.aon.offLatched = true → ∃ t, exec .safePoint s = .next t ∧ t = { s with regs := t.regs, draws := t.draws, cores := t.cores, chans := t.chans, cmds := t.cmds, seqs := t.seqs, pages := t.pages, used := t.used, models := t.models, hostGran := t.hostGran, store := t.store, passes := t.passes, passNo := t.passNo, rings := t.rings, bs := t.bs, dram := t.dram, aon := t.aon, pwr := t.pwr, ports := t.ports, evt := t.evt, ras := t.ras, pcie := t.pcie, outbox := t.outbox } ∧ down t)) ∧
    (s.aon.seq ≠ .starting ∨ s.dram.seen = false ∨ s.sec.ready = false ∨ s.store.ready = false → exec .safePoint s = .next s) ∧
    (∀ val, bitOf val 30 = true → s.aon.supply = true →
      ((s.aon.seq = .rampUp ∨ s.aon.seq = .starting ∨ (s.aon.seq = .on ∧ s.fencing = true)) → exec (.i3cOff val) s = .next { s with aon := { s.aon with offLatched := true } }) ∧
      (s.aon.seq = .on → s.fencing = false →
        (∃ t, exec (.i3cOff val) s = .next t ∧ t = { s with regs := t.regs, draws := t.draws, cores := t.cores, chans := t.chans, cmds := t.cmds, seqs := t.seqs, pages := t.pages, used := t.used, models := t.models, hostGran := t.hostGran, store := t.store, passes := t.passes, passNo := t.passNo, rings := t.rings, bs := t.bs, dram := t.dram, aon := t.aon, pwr := t.pwr, ports := t.ports, evt := t.evt, ras := t.ras, pcie := t.pcie, outbox := t.outbox } ∧ down t) ∧
        (s.linkOpen = true → ∃ t, exec (.pwrCtrlOff val) s = .next t ∧ t = { s with regs := t.regs, draws := t.draws, cores := t.cores, chans := t.chans, cmds := t.cmds, seqs := t.seqs, pages := t.pages, used := t.used, models := t.models, hostGran := t.hostGran, store := t.store, passes := t.passes, passNo := t.passNo, rings := t.rings, bs := t.bs, dram := t.dram, aon := t.aon, pwr := t.pwr, ports := t.ports, evt := t.evt, ras := t.ras, pcie := t.pcie, outbox := t.outbox } ∧ down t))) ∧
    ((s.aon.seq = .starting ∨ s.aon.seq = .on ∨ s.aon.seq = .down) → s.aon.supply = true →
      (∃ t, exec .pwrfail s = .next t ∧ t = { s with regs := t.regs, latch := t.latch, draws := t.draws, cores := t.cores, chans := t.chans, shm := t.shm, shmPatrol := t.shmPatrol, parts := t.parts, cmds := t.cmds, ctxs := t.ctxs, spools := t.spools, seqs := t.seqs, pages := t.pages, used := t.used, models := t.models, hostGran := t.hostGran, store := t.store, passes := t.passes, passNo := t.passNo, rings := t.rings, bs := t.bs, dram := t.dram, sec := t.sec, aon := t.aon, pwr := t.pwr, ports := t.ports, colls := t.colls, evt := t.evt, ras := t.ras, tap := t.tap, tst := t.tst, pcie := t.pcie, wrg := t.wrg, outbox := t.outbox } ∧ falls t) ∧
      (s.aon.groups ≠ 0 → ∃ t, exec .thermalTrip s = .next t ∧ t = { s with regs := t.regs, latch := t.latch, draws := t.draws, cores := t.cores, chans := t.chans, shm := t.shm, shmPatrol := t.shmPatrol, parts := t.parts, cmds := t.cmds, ctxs := t.ctxs, spools := t.spools, seqs := t.seqs, pages := t.pages, used := t.used, models := t.models, hostGran := t.hostGran, store := t.store, passes := t.passes, passNo := t.passNo, rings := t.rings, bs := t.bs, dram := t.dram, sec := t.sec, aon := t.aon, pwr := t.pwr, ports := t.ports, colls := t.colls, evt := t.evt, ras := t.ras, tap := t.tap, tst := t.tst, pcie := t.pcie, wrg := t.wrg, outbox := t.outbox } ∧ falls t ∧ t.aon.trip = true ∧
        .thermtrip ∈ t.outbox) ∧
      (s.aon.seq ≠ .down → ∀ g : BitVec 3, 1 ≤ g.toNat → g.toNat ≤ 5 →
        ∃ t, exec (.railGroupFail g) s = .next t ∧ t = { s with regs := t.regs, latch := t.latch, draws := t.draws, cores := t.cores, chans := t.chans, shm := t.shm, shmPatrol := t.shmPatrol, parts := t.parts, cmds := t.cmds, ctxs := t.ctxs, spools := t.spools, seqs := t.seqs, pages := t.pages, used := t.used, models := t.models, hostGran := t.hostGran, store := t.store, passes := t.passes, passNo := t.passNo, rings := t.rings, bs := t.bs, dram := t.dram, sec := t.sec, aon := t.aon, pwr := t.pwr, ports := t.ports, colls := t.colls, evt := t.evt, ras := t.ras, tap := t.tap, tst := t.tst, pcie := t.pcie, wrg := t.wrg, outbox := t.outbox } ∧ falls t)) ∧
    (s.aon.seq = .rampUp → s.aon.supply = true → ∃ t, exec .pwrfail s = .next t ∧ t = { s with regs := t.regs, latch := t.latch, draws := t.draws, cores := t.cores, chans := t.chans, shm := t.shm, shmPatrol := t.shmPatrol, parts := t.parts, cmds := t.cmds, ctxs := t.ctxs, spools := t.spools, seqs := t.seqs, pages := t.pages, used := t.used, models := t.models, hostGran := t.hostGran, store := t.store, passes := t.passes, passNo := t.passNo, rings := t.rings, bs := t.bs, dram := t.dram, sec := t.sec, aon := t.aon, pwr := t.pwr, ports := t.ports, colls := t.colls, evt := t.evt, ras := t.ras, tap := t.tap, tst := t.tst, pcie := t.pcie, wrg := t.wrg, outbox := t.outbox } ∧ off t) ∧
    (s.store.programming = [] →
      (s.aon.seq = .emergency → ∃ t, exec .emergencyRailsOff s = .next t ∧ t = { s with regs := t.regs, latch := t.latch, draws := t.draws, cores := t.cores, chans := t.chans, shm := t.shm, shmPatrol := t.shmPatrol, parts := t.parts, cmds := t.cmds, ctxs := t.ctxs, spools := t.spools, seqs := t.seqs, pages := t.pages, used := t.used, models := t.models, hostGran := t.hostGran, store := t.store, passes := t.passes, passNo := t.passNo, rings := t.rings, bs := t.bs, dram := t.dram, sec := t.sec, aon := t.aon, pwr := t.pwr, ports := t.ports, colls := t.colls, evt := t.evt, ras := t.ras, tap := t.tap, tst := t.tst, pcie := t.pcie, wrg := t.wrg, outbox := t.outbox } ∧ off t ∧ opened t ∧
        (s.store.ready = true → t.store.saved = true)) ∧
      (s.aon.seq = .down → s.cmds = [] → ∃ t, exec .powerDownRailsOff s = .next t ∧ t = { s with regs := t.regs, latch := t.latch, draws := t.draws, cores := t.cores, chans := t.chans, shm := t.shm, shmPatrol := t.shmPatrol, parts := t.parts, cmds := t.cmds, ctxs := t.ctxs, spools := t.spools, seqs := t.seqs, pages := t.pages, used := t.used, models := t.models, hostGran := t.hostGran, store := t.store, passes := t.passes, passNo := t.passNo, rings := t.rings, bs := t.bs, dram := t.dram, sec := t.sec, aon := t.aon, pwr := t.pwr, ports := t.ports, colls := t.colls, evt := t.evt, ras := t.ras, tap := t.tap, tst := t.tst, pcie := t.pcie, wrg := t.wrg, outbox := t.outbox } ∧ off t ∧ opened t ∧
        t.aon.clean = true ∧ (s.store.ready = true → t.store.saved = true)))

/-- CLEAR_TRIP is posted like every management write and clears the trip only below 110 degrees when it takes effect, and
so does the I3C bit at once; a posted write takes effect oldest first (a host write of ALARM_EN 0 is an entry of its
own, log 63; the always-on sensor's reading is free, log 60); the shadow takes the calendar and the status; CLK32K
follows its clock; the wake alarm rises when the calendar reaches it with the sequencer OFF. IDLE_ENTRY under R444
begins the entry, and its end loses the state of every core and shared memory, makes active bitstreams RESIDENT,
checkpoints the counters, releases CLKREQ_N and leaves DRAM in self-refresh with its bytes (that the lost memories
read zero is the choice of log 57); an exit event ends an entry under way, or drives CLKREQ_N and lets IDLE_EXIT
return to Active, where a tamper alarm that came in sleep is answered. (Power, Clocks and Thermal Control: The always-
on domain, Power, Clocks and Thermal Control: Device states, Power, Clocks and Thermal Control: Registers) -/
def Obligations.AlwaysOnDomainAndIdle : Prop :=
  ∀ (s : State),
    (∀ val, s.powered = true → bitOf val 30 = true → exec (.clearTrip val) s = .next { s with aon := { s.aon with
      posted := s.aon.posted ++ [(0x44, val)]
      busy := true } }) ∧
    (∀ val, s.aon.supply = true → bitOf val 29 = true → s.aon.seq = .on →
      ((BitVec.ofNat 8 (tempByte s.pwr.tj)).toInt < 110 → exec (.i3cClearTrip val) s = .next { s with aon := { s.aon with trip := false } }) ∧
      (110 ≤ (BitVec.ofNat 8 (tempByte s.pwr.tj)).toInt → exec (.i3cClearTrip val) s = .next s)) ∧
    (s.aon.supply = true → s.aon.alarmEn = true → s.aon.seq = .off →
      (s.aon.alarm.toNat ≤ s.aon.calSec.toNat % 2 ^ 32 → exec .wakeAlarm s = .next { s with aon := { s.aon with wake := true } }) ∧
      (s.aon.calSec.toNat % 2 ^ 32 < s.aon.alarm.toNat → exec .wakeAlarm s = .next s)) ∧
    (s.aon.posted = [] → exec .aonPostedWrite s = .next s) ∧
    (∀ v rest, s.aon.posted = (0x48, v) :: rest → exec .aonPostedWrite s = .next { s with aon := { s.aon with
      posted := rest, busy := decide (rest ≠ []), alarm := v } }) ∧
    (∀ v rest, s.aon.posted = (1, v) :: rest → exec .aonPostedWrite s = .next { s with aon := { s.aon with
      posted := rest, busy := decide (rest ≠ []), alarmEn := false, wake := false } }) ∧
    (∀ v rest, s.aon.posted = (0x44, v) :: rest → exec .aonPostedWrite s = .next { s with aon := { s.aon with
      posted := rest
      busy := decide (rest ≠ [])
      autoOn := bitOf v 31
      alarmEn := bitOf v 29
      wake := s.aon.wake && bitOf v 29
      trip := s.aon.trip && !(bitOf v 30 && decide (s.pwr.tj < 110)) } }) ∧
    (1 ≤ s.aon.groups → exec .aonShadowRefresh s = .next { s with aon := { s.aon with
      shadow := [aonStatus s.aon, aonCtrlWord s.aon, s.aon.alarm] ++ calWords s.aon } }) ∧
    (s.aon.supply = true → exec .clk32kLock s = .next { s with aon := { s.aon with ext32k := true } } ∧
      exec .clk32kLoss s = .next { s with aon := { s.aon with ext32k := false } }) ∧
    (s.mayIdle = true → exec .idleEntry s = .next { s with pwr := { s.pwr with dev := .enteringIdle } }) ∧
    (s.pwr.dev = .enteringIdle → s.store.programming = [] →
      ∃ t, exec .idleEntered s = .next t ∧ t = { s with regs := t.regs, draws := t.draws, cores := t.cores, chans := t.chans, shm := t.shm, shmPatrol := t.shmPatrol, parts := t.parts, hostGran := t.hostGran, store := t.store, passes := t.passes, rings := t.rings, bs := t.bs, dram := t.dram, pwr := t.pwr, pcie := t.pcie, outbox := t.outbox } ∧ t.pwr.dev = .idle ∧ t.shm = .zero ∧ t.dram.selfRef = 0xFFFF ∧
        t.dram.mem = s.dram.mem ∧ t.store.ckpt = counters s.store ∧ t.pcie.clkreq = false ∧
        (∀ n, n < 16 → (t.core n).cmem = .zero ∧ (t.core n).v = [] ∧ (t.core n).imem = [] ∧ (t.core n).fence = (s.core n).fence) ∧
        ∀ i, i < 8 → (t.bsSlot i).image = (s.bsSlot i).image ∧ (t.bsSlot i).st = if (s.bsSlot i).st = .active then .resident else (s.bsSlot i).st) ∧
    (s.pwr.dev = .enteringIdle → s.exitIdle = { s with pwr := { s.pwr with dev := .active } }) ∧
    (s.pwr.dev = .idle → s.pcie.clkreq = false → s.exitIdle = { s with
      pwr := { s.pwr with exiting := true }, pcie := { s.pcie with clkreq := true }, outbox := .clkreq true :: s.outbox }) ∧
    ((s.pwr.dev = .active ∨ s.pwr.dev = .background) → s.exitIdle = s) ∧
    (s.pwr.dev = .idle → s.pwr.exiting = true →
      (s.sec.latched = false ∨ s.sec.kind ≠ 2 ∨ s.sec.quarantine = true →
        exec .idleExit s = .next { s with pwr := { s.pwr with dev := .active, exiting := false } }) ∧
      (s.sec.latched = true → s.sec.kind = 2 → s.sec.quarantine = false →
        ∃ t, exec .idleExit s = .next t ∧ t = { s with regs := t.regs, draws := t.draws, cores := t.cores, chans := t.chans, shm := t.shm, cmds := t.cmds, ctxs := t.ctxs, seqs := t.seqs, pages := t.pages, used := t.used, models := t.models, hostGran := t.hostGran, store := t.store, passes := t.passes, passNo := t.passNo, rings := t.rings, bs := t.bs, dram := t.dram, sec := t.sec, pwr := t.pwr, ports := t.ports, colls := t.colls, evt := t.evt, ras := t.ras, pcie := t.pcie, outbox := t.outbox } ∧ t.pwr.dev = .active ∧ t.sec.quarantine = true ∧ t.sec.zeroing = true ∧
          ∀ n, 1 ≤ n → n < 128 → (t.keySlot n).kind = .empty)) ∧
    (s.pwr.dev ≠ .idle ∨ s.pwr.exiting = false → exec .idleExit s = .next s)

/-- While the always-on supply is good a target without an address takes one by ENTDAA or SETDASA, answers its direct
reads at it and loses it by RSTDAA. With group 1 on, each TAP instruction becomes current and shifts out its register,
TST_ACCESS that of the register named before it, whose successor it names and may write; EXTEST, CLAMP, HIGHZ and
TST_ACCESS act as BYPASS without TEST_MODE. GO of a permitted selection starts a run with every count clear, its
transmit lanes sending their patterns, and one that is not permitted sets REFUSED; a checker that has loaded a
register and seen 64 bits match locks, a slip of at least 16 errors unlocks it with its counts added, and a run ends
with DONE and each lane's counts, by STOP, by its time, or with ABORTED when its condition fails. When the I3C target
answers is the reading of log 73, the TAP's instruction after a reset and the free levels at the balls are those of
log 74, and a second GO, counting from GO in a generating run and DONE after an abort those of log 75. (Package, Pins,
Electrical and Test: I3C target, Package, Pins, Electrical and Test: Boundary scan, Package, Pins, Electrical and
Test: Pattern generators and checkers) -/
def Obligations.SidebandScanAndPatternTest : Prop :=
  ∀ (s : State),
    (s.aon.supply = true →
      (∀ addr, s.aon.i3cAddr = none →
        exec (.entdaa addr) s = .next { s with
          aon := { s.aon with i3cAddr := some addr }
          outbox := .i3c (i3cPidBytes ++ [Config.i3cBcr, Config.i3cDcr]) :: s.outbox } ∧
        exec (.setdasa addr) s = .next { s with aon := { s.aon with i3cAddr := some addr } } ∧
        ∀ i ∈ [Instr.getpid, .getbcr, .getdcr, .getstatus], exec i s = .next s) ∧
      exec .rstdaa s = .next { s with aon := { s.aon with i3cAddr := none } } ∧
      (∀ a addr, s.aon.i3cAddr = some a → exec (.entdaa addr) s = .next s ∧ exec (.setdasa addr) s = .next s ∧
        exec .getpid s = .next { s with outbox := .i3c i3cPidBytes :: s.outbox } ∧
        exec .getbcr s = .next { s with outbox := .i3c [Config.i3cBcr] :: s.outbox } ∧
        exec .getdcr s = .next { s with outbox := .i3c [Config.i3cDcr] :: s.outbox } ∧
        ∃ t bs, bs.length = 2 ∧ exec .getstatus s = .next t ∧ t = { s with draws := s.draws + 1, outbox := .i3c bs :: s.outbox })) ∧
    (1 ≤ s.aon.groups →
      let held := fun (code : BitVec 8) (cells : List Bool) (more : List Out) =>
        { s with tap := { s.tap with ir := code }, outbox := more ++ .balls code cells :: s.outbox }
      exec .tapReset s = .next (held 1 [] []) ∧ exec .bypass s = .next (held 0xFF [] [.tdo [false]]) ∧
      exec .idcode s = .next (held 1 [] [.tdo (wordBits s.idcodeValue 32)]) ∧
      (∀ cells, ∃ t levels, exec (.samplePreload cells) s = .next t ∧ levels.length = boundary.length ∧
        t = { held 2 [] [.tdo ((levels ++ cells).take cells.length)] with
          tap := { s.tap with ir := 2, preload := (levels ++ cells).drop cells.length }, draws := s.draws + 1 }) ∧
      (s.tap.testMode = true →
        (∃ t levels cells, exec .extest s = .next t ∧ levels.length = boundary.length ∧ cells.length = boundary.length ∧
          t = { held 3 s.tap.preload [.balls 3 cells, .tdo levels] with
            tap := { s.tap with ir := 3, preload := cells }, draws := s.draws + 2 }) ∧
        exec .clamp s = .next (held 4 s.tap.preload [.tdo [false]]) ∧ exec .highz s = .next (held 5 [] [.tdo [false]]) ∧
        ∀ dr : BitVec 64,
          let last := 0xE0000 + s.tap.last.toNat
          let shifted := { held 16 [] [.tdo (wordBits (s.tap.last.toNat * 2 ^ 32 + (s.tstRead last).toNat) 64)] with
            tap := { s.tap with ir := 16, last := BitVec.ofNat 16 (dr.toNat / 2 ^ 32) }
            latch := (s.tstLatch last).latch }
          (dr.getLsbD 63 = false → exec (.tstAccess dr) s = .next shifted) ∧
          (dr.getLsbD 63 = true → exec (.tstAccess dr) s =
            .next (shifted.tstWrite (0xE0000 + dr.toNat / 2 ^ 32 % 65536) (BitVec.ofNat 32 (dr.toNat % 2 ^ 32))))) ∧
      (s.tap.testMode = false → ∀ dr, ∀ i ∈ [Instr.extest, .clamp, .highz, .tstAccess dr],
        exec i s = .next (held 0xFF [] [.tdo [false]]))) ∧
    (∀ data : RegData, s.linkOpen = true → bitOf data.val 31 = true → bitOf data.val 23 = false → s.tst.running = false →
      let r := (s.tstFields data.val).reg tstCtrl
      let i := getBits (s.reg tstSel) 16 3
      let groups := tstOn i (getBits (s.reg tstSel) 8 8) (bitOf r 28)
      (bitOf data.set 29 = true → ∃ t, exec (.tstGo data) s = .next t ∧ bitOf (t.reg tstCtrl) 29 = true) ∧
      (groups ≠ [] → tstModeOk i (tstMode r) = true → s.tstPermitted i groups = true →
        ∃ t, exec (.tstGo data) s = .next t ∧ t = { s with regs := t.regs, tst := t.tst, outbox := t.outbox } ∧
          t.tst.running = true ∧ t.tst.lanes = [] ∧ t.tst.counting = decide (tstMode r = 2) ∧ t.tst.countAt = s.us ∧
          bitOf (t.reg tstCtrl) 30 = false ∧
          t.outbox = (if tstMode r = 3 then [] else (t.tst.selected.map (fun l =>
            Out.prbs l (getBits r 24 2) (prbsStart (getBits r 24 2) (l % 256)))).reverse) ++ s.outbox) ∧
      (groups = [] ∨ tstModeOk i (tstMode r) = false ∨ s.tstPermitted i groups = false →
        ∃ t, exec (.tstGo data) s = .next t ∧ t = { s with regs := t.regs } ∧ bitOf (t.reg tstCtrl) 22 = true)) ∧
    (s.tst.running = true →
      let ends := fun (t : State) (now : Nat) => t = { s with regs := t.regs, tst := t.tst } ∧ t.tst.running = false ∧
        bitOf (t.reg tstCtrl) 30 = true ∧ ∀ l ∈ s.tst.selected, nget Checker.reset t.tst.lanes l = s.checkerAt l now
      (∀ data : RegData, s.linkOpen = true → bitOf data.val 23 = true → bitOf data.val 31 = false → s.tstHolds = true →
        ∃ t, exec (.tstStop data) s = .next t ∧ ends t s.us) ∧
      (s.tst.counting = true → getBits (s.reg tstCtrl) 0 16 ≠ 0 → s.tstHolds = true →
        ∃ t, exec .tstRunEnd s = .next t ∧ ends t (s.tst.countAt + 1000000 * getBits (s.reg tstCtrl) 0 16)) ∧
      (s.tstHolds = false → ∃ t, exec .tstAbort s = .next t ∧ ends t s.us ∧ bitOf (t.reg tstCtrl) 29 = true) ∧
      (s.tstHolds = true → exec .tstAbort s = .next s) ∧
      (s.tstHolds = false → exec .tstRunEnd s = .next s) ∧
      (∀ rx : LaneRx, s.tstHolds = true → s.tst.selected.contains rx.lane = true →
        let k := nget Checker.reset s.tst.lanes rx.lane
        let p := getBits (s.reg tstCtrl) 24 2
        (tstMode (s.reg tstCtrl) ≠ 2 → k.lock = false → prbsLocks p rx.bits = true →
          ∃ t, exec (.checkerLock rx) s = .next t ∧ t = { s with draws := s.draws + 1, tst := t.tst } ∧
            nget Checker.reset t.tst.lanes rx.lane = { k with lock := true, since := s.us, draw := s.draws } ∧
            (∀ l, l ≠ rx.lane → nget Checker.reset t.tst.lanes l = nget Checker.reset s.tst.lanes l) ∧
            (s.tst.counting = false → (∀ l ∈ s.tst.selected, (nget Checker.reset t.tst.lanes l).lock = true) →
              t.tst.counting = true ∧ t.tst.countAt = s.us)) ∧
        (tstMode (s.reg tstCtrl) = 2 ∨ k.lock = true ∨ prbsLocks p rx.bits = false → exec (.checkerLock rx) s = .next s)) ∧
      (∀ lane, s.tstHolds = true → s.tst.selected.contains lane = true →
        let k := nget Checker.reset s.tst.lanes lane
        (∀ bits errs, k.lock = true → 16 ≤ errs → errs ≤ bits →
          ∃ t, exec (.checkerSlip lane bits errs) s = .next t ∧ t = { s with tst := t.tst } ∧
            nget Checker.reset t.tst.lanes lane =
              { k with lock := false, bits := k.bits + bits, errs := min 0x7FFFFFFF (k.errs + errs) } ∧
            ∀ l, l ≠ lane → nget Checker.reset t.tst.lanes l = nget Checker.reset s.tst.lanes l)))

/-- For every command c and state s, the step of s with c at the front of its queue is exec of c on s with the queue's
rest. On an empty queue the block idles for one microsecond of model time, in which only the calendar of a good
always-on supply moves (log entry 2). The table gives its rows no bits, so no word spells a command and withFetchWord
leaves the state as it is. (Power, Clocks and Thermal Control: The always-on domain) -/
def Obligations.StepRunsTheFrontCommand : Prop :=
  (∀ (c : Instr) (rest : List Instr) (s : State), step { s with pending := c :: rest } = exec c { s with pending := rest }) ∧
  (∀ (s : State), s.pending = [] → ∃ t, step s = .next t ∧ t = { s with us := s.us + 1, aon := t.aon } ∧
    (s.aon.supply = false → t.aon = s.aon) ∧
    (s.aon.supply = true → t.aon = { s.aon with calSec := t.aon.calSec, calFrac := t.aon.calFrac, calAcc := t.aon.calAcc } ∧
      (s.aon.calAcc < 1000000 → s.aon.calSec.toNat + 1 < 2 ^ 48 →
        (t.aon.calSec.toNat * 32768 + t.aon.calFrac.toNat) * 1000000 + t.aon.calAcc =
        (s.aon.calSec.toNat * 32768 + s.aon.calFrac.toNat) * 1000000 + s.aon.calAcc + 32768))) ∧
  (∀ (s : State) nbits w, decodeTableWord nbits w = none ∧ s.withFetchWord nbits w = s)

/-- At reset every register reads its Reset column; no core runs, every tack but tk0 is clear and every register of every
core is 0; shared memory and DRAM hold zeros; no context is enabled and context 0 alone has ADMIN; every spool,
sequence, model, extent and bitstream slot is free; every key slot but slot 0 is empty; the sequencer is OFF with
AUTO_ON set and the calendar not valid; no port is enabled; the ring holds no record; and the queue is empty. The part
is a GC2016 (log entry 17), so its fuses are those of a grade. The values that the manual keeps over every reset, or
does not state, are those of log 78, and the masked MSI-X vectors those of log 16. (Core Instruction Set: Registers,
On-Chip Memory: Reset, Host Interface: Reset, Security and Context Isolation: Reset, Power, Clocks and Thermal
Control: Registers, Perua Weight Store) -/
def Obligations.ResetLeavesTheStatedValues : Prop :=
  let s := State.reset
  s.pending = [] ∧ gradeOk s ∧ (∀ off, s.reg off = resetOf off) ∧
  (∀ n, (s.core n).run = false ∧ (s.core n).pc = 0 ∧ (s.core n).fence = .inService ∧ (∀ g, (s.core n).gr g = 0) ∧
    (∀ t : BitVec 6, (s.core n).tack t = decide (t = 0)) ∧ (∀ x, (s.core n).cmem.byte x = 0)) ∧
  (∀ x, s.shm.byte x = 0 ∧ s.dram.mem.byte x = 0) ∧ s.dram.ready = false ∧ s.cmds = [] ∧
  (∀ n, (s.ctx n).en = false ∧ (s.ctx n).admin = decide (n = 0)) ∧ (∀ c p, (s.spool c p).en = false) ∧
  (∀ n, (s.seq n).st = .free ∧ (s.model n).st = .free ∧ (s.extent n).st = .free ∧ (s.bsSlot n).st = .empty) ∧
  (∀ n, n ≠ 0 → (s.keySlot n).kind = .empty) ∧ (s.keySlot 0).kind = .verify ∧ s.sec.quarantine = false ∧
  s.aon.seq = .off ∧ s.aon.autoOn = true ∧ s.aon.calValid = false ∧ (∀ p, (s.port p).en = false ∧ (s.port p).st = 0) ∧
  s.evt.ring = [] ∧ s.evt.head = 0 ∧ s.pcie.perst = true

/-- For every state and whatever waits: the step answers a next state, so no run of the block ever stops; the part's
fuses, and with them its grade, its enabled positions and its core numbering, are what they were; the queue loses its
front command and gains none; and time passes only in a step on an empty queue. So every number of steps from a state
of a grade answers a state of that grade. (The Device and One Token Step: Five levels, Scope and Conventions) -/
def Obligations.EveryStepGoesOnAndKeepsTheGrade : Prop :=
  (∀ (s : State), ∃ t, step s = .next t ∧ t.fuses = s.fuses ∧ t.pending = s.pending.tail ∧
    t.us = (if s.pending = [] then s.us + 1 else s.us) ∧ (gradeOk s → gradeOk t) ∧ ∀ n, t.ridge n = s.ridge n) ∧
  (∀ (s : State), safe s) ∧
  (∀ (s : State) k, gradeOk s → ∃ t, core.run k s = .next t ∧ gradeOk t ∧ t.coreCount = s.coreCount ∧ t.pending = s.pending.drop k)

/-- For every core number from the enabled count to 15 and every register of its block, a read returns 0x0000_0000 and a
write over an open link, by the host or the management controller, answers a next state equal to the one before: no
error is recorded. (R3) -/
def Obligations.AbsentCoreBlocksIgnoreWrites : Prop :=
  ∀ (s : State) (n off : Nat) (who : Agent) (val set : Word), s.linkOpen = true → s.coreCount ≤ n → n < 16 → off < 0x10000 → off % 4 = 0 →
    s.readReg (coreOff n off) = 0 ∧ exec (.regWrite who (BitVec.ofNat 24 (coreOff n off)) ⟨val, set⟩) s = .next s

/-- Each of the model and bitstream commands, ready in a spool of a context whose ADMIN is clear, ends with ST_CLASS,
whatever its other fields hold: no model, extent, bitstream, core or memory changes, nothing is read from the host,
and every other command stands as it did. With ADMIN set the same commands act (the statements of the models and of
the bitstreams). (R421) -/
def Obligations.AdministrativeCommandsNeedAdmin : Prop :=
  ∀ (s : State) (r : CmdRef) (k : Cmd) (e : Instr × Nat),
    e ∈ [(.mcreate r, 0x20), (.mextent r, 0x21), (.mwrite r, 0x22), (.mseal r, 0x23), (.mtable r, 0x24), (.mload r, 0x25), (.munload r, 0x26),
      (.mfree r, 0x27), (.mxfree r, 0x28), (.patch r, 0x29), (.bsload r, 0x30), (.bsact r, 0x31), (.bsfree r, 0x32)] →
    hostReady s r e.2 k → (s.ctx k.ref.ctx.toNat).admin = false →
    ∃ t, exec e.1 s = .next t ∧ endedAs t r stClass ∧ cmdsElse s t r ∧ t = { s with
      regs := t.regs
      cmds := t.cmds
      seqs := t.seqs
      pages := t.pages
      used := t.used
      evt := t.evt
      ras := t.ras
      pcie := t.pcie
      outbox := t.outbox } ∧
      (∀ a len, .hostRead a len ∈ t.outbox → .hostRead a len ∈ s.outbox)

/-- A change of the strap has no effect until the next power-good: RAIL_GROUP_GOOD of the fifth group takes it. FLR, a
lost link, PERST, the reset of a fenced core and a global reset leave the TAP with TEST_MODE as sampled, the dynamic
address of the I3C target and every always-on register as they were; only an off request that waited for the end of a
core fault moves the sequencer then. I3C_ADDR is taken when the always-on supply is good. (Package, Pins, Electrical
and Test, Scope and Conventions) -/
def Obligations.ResetsLeaveTheTapAndTheAlwaysOnDomain : Prop :=
  (∀ (s : State) (i : Instr), (i = .flr ∨ i = .linkDlDown ∨ i = .perstAssert ∨ (∃ c ok, i = .coreSelfTestEnd c ok) ∨
      (∃ p f, i = .flitGreset p f) ∨ ∃ val, i = .ulkGreset val) →
    ∃ t, exec i s = .next t ∧ t.tap = s.tap ∧ t.aon = s.aon) ∧
  (∀ (s : State) (c : BitVec 4), ∃ t, exec (.fenceDeadline c) s = .next t ∧ t.tap = s.tap ∧
    t.aon = { s.aon with seq := t.aon.seq, offLatched := t.aon.offLatched } ∧ (s.aon.offLatched = false → t.aon = s.aon)) ∧
  (∀ (s : State), s.aon.supply = false → ∃ t, exec .aonSupplyUp s = .next t ∧ t = { s with aon := t.aon } ∧ t.aon.i3cStrap = s.tap.i3cHigh) ∧
  (∀ (s : State) (strap : Bool), s.aon.supply = true → s.aon.seq = .rampUp → s.aon.groups = 4 →
    ∃ t, exec (.railGroupGood 5) { s with tap := { s.tap with strap := strap } } = .next t ∧ t.tap.testMode = strap)

end Claims
end

