-- ==== Sys2Proof/Laws/Sparse.lean ====
section
/-! SUPPORT. The sparse tables: a read after a write, and the canonical form that every write keeps. -/

namespace Sys2Proof.Machine

variable {α : Type}

@[simp] theorem nget_nil (d : α) (k : Nat) : nget d [] k = d := rfl

theorem nget_nerase_same (d : α) (m : NMap α) (k : Nat) : nget d (nerase m k) k = d := by
  induction m with
  | nil => rfl
  | cons e t ih =>
    obtain ⟨a, v⟩ := e
    by_cases h : a = k <;> simp [nerase, nget, h, ih]

theorem nget_nerase_other (d : α) (m : NMap α) {k j : Nat} (h : j ≠ k) : nget d (nerase m k) j = nget d m j := by
  induction m with
  | nil => rfl
  | cons e t ih =>
    obtain ⟨a, v⟩ := e
    by_cases ha : a = k
    · subst ha; simp [nerase, nget, ih, Ne.symm h]
    · by_cases hj : a = j
      · subst hj; simp [nerase, nget, ha]
      · simp [nerase, nget, ha, hj, ih]

/-- Every key of a table, with the rest of it, lies above a bound. -/
theorem nwfFrom_mono [DecidableEq α] (d : α) (m : NMap α) {lo hi : Nat} (h : lo ≤ hi) (w : nwfFrom d (some hi) m = true) :
    nwfFrom d (some lo) m = true := by
  cases m with
  | nil => rfl
  | cons e t => obtain ⟨a, v⟩ := e; simp [nwfFrom] at w ⊢; exact ⟨⟨by omega, w.1.2⟩, w.2⟩

theorem nget_below [DecidableEq α] (d : α) (m : NMap α) {lo k : Nat} (h : k ≤ lo) (w : nwfFrom d (some lo) m = true) :
    nget d m k = d := by
  induction m generalizing lo with
  | nil => rfl
  | cons e t ih =>
    obtain ⟨a, v⟩ := e
    simp [nwfFrom] at w
    have : a ≠ k := by omega
    simp only [nget, this, if_false]
    exact ih (lo := a) (by omega) w.2

theorem nerase_wfFrom [DecidableEq α] (d : α) (m : NMap α) (k : Nat) (lo : Option Nat) (w : nwfFrom d lo m = true) :
    nwfFrom d lo (nerase m k) = true := by
  induction m generalizing lo with
  | nil => simpa [nerase] using w
  | cons e t ih =>
    obtain ⟨a, v⟩ := e
    simp only [nwfFrom, Bool.and_eq_true] at w
    by_cases ha : a = k
    · simp only [nerase, ha, if_true]
      apply ih
      cases lo with
      | none =>
        cases t with
        | nil => rfl
        | cons e2 t2 => obtain ⟨b, u⟩ := e2; have := w.2; simp only [nwfFrom, Bool.and_eq_true] at this ⊢; exact ⟨⟨trivial, this.1.2⟩, this.2⟩
      | some b =>
        have h1 := w.1.1
        simp at h1
        exact nwfFrom_mono d t (by omega) w.2
    · simp only [nerase, ha, if_false, nwfFrom, Bool.and_eq_true]
      exact ⟨w.1, ih (some a) w.2⟩

theorem ninsert_wfFrom [DecidableEq α] (d : α) (m : NMap α) (k : Nat) (v : α) (lo : Option Nat) (hv : v ≠ d)
    (hlo : ∀ b, lo = some b → b < k) (hk : nget d m k = d) (w : nwfFrom d lo m = true) : nwfFrom d lo (ninsert m k v) = true := by
  induction m generalizing lo with
  | nil => cases lo <;> simp [ninsert, nwfFrom, hv]; exact hlo _ rfl
  | cons e t ih =>
    obtain ⟨a, u⟩ := e
    have w' := w
    simp only [nwfFrom, Bool.and_eq_true] at w
    by_cases h : k < a
    · simp only [ninsert, h, if_true, nwfFrom, Bool.and_eq_true, decide_eq_true_eq]
      refine ⟨⟨?_, hv⟩, ⟨trivial, ?_⟩, w.2⟩
      · cases lo with
        | none => trivial
        | some b => simp [hlo b rfl]
      · simpa using w.1.2
    · have hak : a ≠ k := by
        intro he
        have : nget d ((a, u) :: t) k = u := by simp [nget, he]
        rw [this] at hk
        simp [hk] at w
      simp only [ninsert, h, if_false, nwfFrom, Bool.and_eq_true]
      refine ⟨w.1, ih (some a) ?_ ?_ w.2⟩
      · intro b hb; cases hb; omega
      · simpa [nget, hak] using hk

/-- A write keeps the canonical form. -/
theorem nset_wf [DecidableEq α] (d : α) (m : NMap α) (k : Nat) (v : α) (w : nwf d m = true) : nwf d (nset d m k v) = true := by
  unfold nwf at *
  by_cases hv : v = d
  · simpa [nset, hv] using nerase_wfFrom d m k none w
  · simp only [nset, hv, if_false]
    exact ninsert_wfFrom d _ k v none hv (by intro b hb; cases hb) (nget_nerase_same d m k) (nerase_wfFrom d m k none w)

theorem nget_ninsert_same (d : α) (m : NMap α) (k : Nat) (v : α) (hk : ∀ e ∈ m, e.1 ≠ k) : nget d (ninsert m k v) k = v := by
  induction m with
  | nil => simp [ninsert, nget]
  | cons e t ih =>
    obtain ⟨a, u⟩ := e
    have ha : a ≠ k := hk (a, u) (by simp)
    by_cases h : k < a
    · simp [ninsert, h, nget]
    · simp only [ninsert, h, if_false, nget, ha]
      exact ih (fun e he => hk e (by simp [he]))

theorem nget_ninsert_other (d : α) (m : NMap α) {k j : Nat} (v : α) (h : j ≠ k) : nget d (ninsert m k v) j = nget d m j := by
  induction m with
  | nil => simp [ninsert, nget, Ne.symm h]
  | cons e t ih =>
    obtain ⟨a, u⟩ := e
    by_cases hk : k < a
    · simp [ninsert, hk, nget, Ne.symm h]
    · by_cases hj : a = j
      · subst hj; simp [ninsert, hk, nget]
      · simp [ninsert, hk, nget, hj, ih]

theorem nerase_no_key (m : NMap α) (k : Nat) : ∀ e ∈ nerase m k, e.1 ≠ k := by
  induction m with
  | nil => simp [nerase]
  | cons e t ih =>
    obtain ⟨a, u⟩ := e
    by_cases ha : a = k
    · simpa [nerase, ha] using ih
    · intro e he
      simp only [nerase, ha, if_false, List.mem_cons] at he
      rcases he with rfl | he
      · exact ha
      · exact ih e he

/-- What is written is read. -/
@[simp] theorem nget_nset_same [DecidableEq α] (d : α) (m : NMap α) (k : Nat) (v : α) : nget d (nset d m k v) k = v := by
  by_cases hv : v = d
  · simp [nset, hv, nget_nerase_same]
  · simpa [nset, hv] using nget_ninsert_same d (nerase m k) k v (nerase_no_key m k)

/-- A write leaves every other key alone, whatever that key reads as where it is not listed. -/
theorem nget_nset_elsewhere [DecidableEq α] (d e : α) (m : NMap α) {k j : Nat} (v : α) (h : j ≠ k) :
    nget e (nset d m k v) j = nget e m j := by
  by_cases hv : v = d
  · simp [nset, hv, nget_nerase_other e m h]
  · simp [nset, hv, nget_ninsert_other e _ v h, nget_nerase_other e m h]

theorem nget_nset_other [DecidableEq α] (d : α) (m : NMap α) {k j : Nat} (v : α) (h : j ≠ k) :
    nget d (nset d m k v) j = nget d m j := nget_nset_elsewhere d d m v h

theorem nerase_none (m : NMap α) (k : Nat) (h : ∀ e ∈ m, e.1 ≠ k) : nerase m k = m := by
  induction m with
  | nil => rfl
  | cons e t ih =>
    obtain ⟨a, u⟩ := e
    have ha : a ≠ k := h (a, u) (by simp)
    simp only [nerase, ha, if_false]
    rw [ih (fun e he => h e (by simp [he]))]

theorem nerase_ninsert (m : NMap α) (k : Nat) (v : α) (h : ∀ e ∈ m, e.1 ≠ k) : nerase (ninsert m k v) k = m := by
  induction m with
  | nil => simp [ninsert, nerase]
  | cons e t ih =>
    obtain ⟨a, u⟩ := e
    have ha : a ≠ k := h (a, u) (by simp)
    have ht : ∀ e ∈ t, e.1 ≠ k := fun e he => h e (by simp [he])
    by_cases hk : k < a
    · simp [ninsert, hk, nerase, ha, nerase_none t k ht]
    · simp [ninsert, hk, nerase, ha, ih ht]

/-- The last of two writes to one key stands. -/
theorem nset_twice [DecidableEq α] (d : α) (m : NMap α) (k : Nat) (v w : α) : nset d (nset d m k v) k w = nset d m k w := by
  have e : nerase (nset d m k v) k = nerase m k := by
    by_cases hv : v = d
    · simp [nset, hv, nerase_none _ k (nerase_no_key m k)]
    · simp [nset, hv, nerase_ninsert _ k v (nerase_no_key m k)]
  simp only [nset] at e ⊢
  rw [e]

theorem nget_nset [DecidableEq α] (d : α) (m : NMap α) (k j : Nat) (v : α) :
    nget d (nset d m k v) j = if j = k then v else nget d m j := by
  by_cases h : j = k
  · subst h; simp
  · simp [h, nget_nset_other d m v h]

end Sys2Proof.Machine
end

