-- ==== Sys2Proof/Laws/Memory.lean ====
section
/-! SUPPORT. Memories of bytes: a read after a write, and the canonical form that every memory operation keeps. -/

namespace Sys2Proof.Machine

/-- The canonical form, said of the list as a whole. -/
theorem nwfFrom_iff {α : Type} [DecidableEq α] (d : α) (m : NMap α) (lo : Option Nat) :
    nwfFrom d lo m = true ↔
      (∀ b, lo = some b → ∀ e ∈ m, b < e.1) ∧ m.Pairwise (fun e f => e.1 < f.1) ∧ ∀ e ∈ m, e.2 ≠ d := by
  induction m generalizing lo with
  | nil => simp [nwfFrom]
  | cons e t ih =>
    obtain ⟨a, v⟩ := e
    simp only [nwfFrom, Bool.and_eq_true, decide_eq_true_eq, ih (some a), List.pairwise_cons, List.mem_cons]
    constructor
    · rintro ⟨⟨h1, h2⟩, h3, h4, h5⟩
      refine ⟨?_, ⟨h3 a rfl, h4⟩, ?_⟩
      · intro b hb e he
        subst hb
        simp at h1
        rcases he with rfl | he
        · exact h1
        · exact Nat.lt_trans h1 (h3 a rfl e he)
      · intro e he
        rcases he with rfl | he
        · exact h2
        · exact h5 e he
    · rintro ⟨h1, ⟨h2, h3⟩, h4⟩
      refine ⟨⟨?_, h4 _ (Or.inl rfl)⟩, ?_, h3, fun e he => h4 e (Or.inr he)⟩
      · cases lo with
        | none => trivial
        | some b => simpa using h1 b rfl _ (Or.inl rfl)
      · intro b hb e he
        cases hb
        exact h2 e he

theorem nwf_iff {α : Type} [DecidableEq α] (d : α) (m : NMap α) :
    nwf d m = true ↔ m.Pairwise (fun e f => e.1 < f.1) ∧ ∀ e ∈ m, e.2 ≠ d := by
  simp [nwf, nwfFrom_iff]

/-- What a table holds under a key, by its members. -/
theorem nget_of_mem {α : Type} [DecidableEq α] (d : α) {m : NMap α} (w : nwf d m = true) {k : Nat} {v : α} (h : (k, v) ∈ m) :
    nget d m k = v := by
  rw [nwf_iff] at w
  obtain ⟨p, -⟩ := w
  induction m with
  | nil => simp at h
  | cons e t ih =>
    obtain ⟨a, u⟩ := e
    rw [List.pairwise_cons] at p
    rcases List.mem_cons.1 h with he | ht
    · cases he; simp [nget]
    · have : a ≠ k := Nat.ne_of_lt (p.1 _ ht)
      simp [nget, this, ih ht p.2]

theorem nget_of_not_mem {α : Type} (d : α) {m : NMap α} {k : Nat} (h : ∀ e ∈ m, e.1 ≠ k) : nget d m k = d := by
  induction m with
  | nil => rfl
  | cons e t ih =>
    obtain ⟨a, u⟩ := e
    have ha : a ≠ k := h (a, u) (by simp)
    simp [nget, ha]
    exact ih (fun e he => h e (by simp [he]))

theorem nget_append {α : Type} (d : α) (m n : NMap α) (k : Nat) (h : ∀ e ∈ m, e.1 ≠ k) : nget d (m ++ n) k = nget d n k := by
  induction m with
  | nil => rfl
  | cons e t ih =>
    obtain ⟨a, u⟩ := e
    have ha : a ≠ k := h (a, u) (by simp)
    simp [nget, ha]
    exact ih (fun e he => h e (by simp [he]))

theorem nget_append_right {α : Type} (d : α) (m n : NMap α) (k : Nat) (h : ∀ e ∈ n, e.1 ≠ k) : nget d (m ++ n) k = nget d m k := by
  induction m with
  | nil => exact nget_of_not_mem d h
  | cons e t ih =>
    obtain ⟨a, u⟩ := e
    by_cases ha : a = k <;> simp [nget, ha, ih]

theorem nget_filter {α : Type} (d : α) (m : NMap α) (p : Nat → Bool) (k : Nat) :
    nget d (m.filter (fun e => p e.1)) k = if p k then nget d m k else d := by
  induction m with
  | nil => simp
  | cons e t ih =>
    obtain ⟨a, u⟩ := e
    by_cases hp : p a = true
    · by_cases ha : a = k
      · subst ha; simp [hp, nget]
      · simp [hp, nget, ha, ih]
    · by_cases ha : a = k
      · subst ha; simp [hp, ih]
      · simp [hp, nget, ha, ih]

/-- A table keeps its canonical form when entries leave it. -/
theorem nwf_filter {α : Type} [DecidableEq α] (d : α) (m : NMap α) (p : Nat × α → Bool) (w : nwf d m = true) :
    nwf d (m.filter p) = true := by
  rw [nwf_iff] at w ⊢
  exact ⟨w.1.filter p, fun e he => w.2 e (List.mem_filter.1 he).1⟩

/-- The cells of a run lie inside it and list no unlisted byte. -/
theorem runCells_mem (a : Nat) (bs : List Byte) : ∀ e ∈ runCells a bs, a ≤ e.1 ∧ e.1 < a + bs.length ∧ e.2 ≠ unlistedByte := by
  induction bs generalizing a with
  | nil => simp [runCells]
  | cons b t ih =>
    intro e he
    by_cases hb : b = unlistedByte
    · simp only [runCells, hb, if_true] at he
      obtain ⟨h1, h2, h3⟩ := ih (a + 1) e he
      exact ⟨by omega, by simp only [List.length_cons]; omega, h3⟩
    · simp only [runCells, hb, if_false, List.mem_cons] at he
      rcases he with rfl | he
      · exact ⟨Nat.le_refl _, by simp, hb⟩
      · obtain ⟨h1, h2, h3⟩ := ih (a + 1) e he
        exact ⟨by omega, by simp only [List.length_cons]; omega, h3⟩

theorem runCells_rising (a : Nat) (bs : List Byte) : (runCells a bs).Pairwise (fun e f => e.1 < f.1) := by
  induction bs generalizing a with
  | nil => simp [runCells]
  | cons b t ih =>
    by_cases hb : b = unlistedByte
    · simpa [runCells, hb] using ih (a + 1)
    · simp only [runCells, hb, if_false, List.pairwise_cons]
      refine ⟨fun e he => ?_, ih (a + 1)⟩
      have := runCells_mem (a + 1) t e he
      omega

theorem nget_runCells (a : Nat) (bs : List Byte) (i : Nat) :
    nget unlistedByte (runCells a bs) (a + i) = bs.getD i unlistedByte := by
  induction bs generalizing a i with
  | nil => simp [runCells]
  | cons b t ih =>
    cases i with
    | zero =>
      by_cases hb : b = unlistedByte
      · have h : ∀ e ∈ runCells (a + 1) t, e.1 ≠ a := fun e he => by have := runCells_mem (a + 1) t e he; omega
        simp [runCells, hb, nget_of_not_mem _ h]
      · simp [runCells, hb, nget]
    | succ j =>
      have h := ih (a + 1) j
      have e : a + 1 + j = a + (j + 1) := by omega
      rw [e] at h
      by_cases hb : b = unlistedByte
      · simpa [runCells, hb] using h
      · have : a ≠ a + (j + 1) := by omega
        simpa [runCells, hb, nget] using h

/-- Every write keeps a memory's canonical form. -/
theorem putCells_wf (m : List Host.Cell) (a : Nat) (bs : List Byte) (w : Memory.wf m = true) : Memory.wf (putCells m a bs) = true := by
  have w' := w
  unfold Memory.wf at w' ⊢
  rw [nwf_iff] at w' ⊢
  unfold putCells
  refine ⟨?_, ?_⟩
  · rw [List.pairwise_append, List.pairwise_append]
    refine ⟨⟨w'.1.filter _, runCells_rising a bs, ?_⟩, w'.1.filter _, ?_⟩
    · intro e he f hf
      have h1 := (List.mem_filter.1 he).2
      have h2 := runCells_mem a bs f hf
      simp at h1; omega
    · intro e he f hf
      have h2 := (List.mem_filter.1 hf).2
      simp at h2
      rcases List.mem_append.1 he with he | he
      · have h1 := (List.mem_filter.1 he).2
        simp at h1; omega
      · have h1 := runCells_mem a bs e he
        omega
  · intro e he
    rcases List.mem_append.1 he with he | he
    · rcases List.mem_append.1 he with he | he
      · exact w'.2 e (List.mem_filter.1 he).1
      · exact (runCells_mem a bs e he).2.2
    · exact w'.2 e (List.mem_filter.1 he).1

/-- A byte after a write: the byte written inside the run, the old byte elsewhere. -/
theorem nget_putCells (m : List Host.Cell) (a : Nat) (bs : List Byte) (x : Nat) :
    nget unlistedByte (putCells m a bs) x =
      if a ≤ x ∧ x < a + bs.length then bs.getD (x - a) unlistedByte else nget unlistedByte m x := by
  unfold putCells
  have hf1 := nget_filter unlistedByte m (fun k => decide (k < a)) x
  have hf2 := nget_filter unlistedByte m (fun k => decide (a + bs.length ≤ k)) x
  by_cases h1 : x < a
  · have hr : ∀ e ∈ runCells a bs, e.1 ≠ x := fun e he => by have := runCells_mem a bs e he; omega
    have h3 : ∀ e ∈ m.filter (fun e => decide (a + bs.length ≤ e.1)), e.1 ≠ x := fun e he => by
      have := (List.mem_filter.1 he).2; simp at this; omega
    rw [nget_append_right _ _ _ _ h3, nget_append_right _ _ _ _ hr, hf1]
    have : ¬ (a ≤ x ∧ x < a + bs.length) := by omega
    simp [h1, this]
  · have hl : ∀ e ∈ m.filter (fun e => decide (e.1 < a)), e.1 ≠ x := fun e he => by
      have := (List.mem_filter.1 he).2; simp at this; omega
    by_cases h2 : x < a + bs.length
    · have h3 : ∀ e ∈ m.filter (fun e => decide (a + bs.length ≤ e.1)), e.1 ≠ x := fun e he => by
        have := (List.mem_filter.1 he).2; simp at this; omega
      rw [nget_append_right _ _ _ _ h3, nget_append _ _ _ _ hl]
      have h := nget_runCells a bs (x - a)
      have e : a + (x - a) = x := by omega
      rw [e] at h
      have : a ≤ x ∧ x < a + bs.length := by omega
      rw [h]; simp [this]
    · have hr : ∀ e ∈ m.filter (fun e => decide (e.1 < a)) ++ runCells a bs, e.1 ≠ x := fun e he => by
        rcases List.mem_append.1 he with he | he
        · exact hl e he
        · have := runCells_mem a bs e he; omega
      rw [nget_append _ _ _ _ hr, hf2]
      have : ¬ (a ≤ x ∧ x < a + bs.length) := by omega
      have h4 : a + bs.length ≤ x := by omega
      simp [this, h4]

/-- The canonical form of a memory with its granule tables. -/
def Ram.wf (m : Ram) : Bool := Memory.wf m.cells && nwf false m.poison && nwf Ecc.clean m.ecc

theorem Ram.zero_wf : Ram.wf .zero = true := rfl

theorem Ram.put_wf (m : Ram) (a : Nat) (bs : List Byte) (flags : List Bool) (w : m.wf = true) : (m.put a bs flags).wf = true := by
  simp only [Ram.wf, Bool.and_eq_true] at w ⊢
  obtain ⟨⟨w1, w2⟩, w3⟩ := w
  have fold : ∀ (gs : List Nat) (f : NMap Bool × NMap Ecc → Nat → Bool) (acc : NMap Bool × NMap Ecc),
      nwf false acc.1 = true → nwf Ecc.clean acc.2 = true →
      nwf false (gs.foldl (fun acc g => (nset false acc.1 g (f acc g), nset Ecc.clean acc.2 g .clean)) acc).1 = true ∧
      nwf Ecc.clean (gs.foldl (fun acc g => (nset false acc.1 g (f acc g), nset Ecc.clean acc.2 g .clean)) acc).2 = true := by
    intro gs f
    induction gs with
    | nil => exact fun acc h1 h2 => ⟨h1, h2⟩
    | cons g t ih => exact fun acc h1 h2 => ih _ (nset_wf _ _ g (f acc g) h1) (nset_wf _ _ g .clean h2)
  refine ⟨⟨putCells_wf _ _ _ w1, ?_⟩, ?_⟩
  · unfold Ram.put
    dsimp only
    split
    · exact w2
    · exact (fold _ _ _ w2 w3).1
  · unfold Ram.put
    dsimp only
    split
    · exact w3
    · exact (fold _ _ _ w2 w3).2

theorem Ram.write_wf (m : Ram) (a : Nat) (bs : List Byte) (w : m.wf = true) : (m.write a bs).wf = true := m.put_wf a bs [] w

theorem Ram.clear_wf (m : Ram) (a len : Nat) (w : m.wf = true) : (m.clear a len).wf = true := by
  simp only [Ram.wf, Memory.wf, Bool.and_eq_true] at w ⊢
  exact ⟨⟨nwf_filter _ _ _ w.1.1, nwf_filter _ _ _ w.1.2⟩, nwf_filter _ _ _ w.2⟩

/-- A read of one byte after a write of clean or poisoned data. -/
theorem Ram.byte_put (m : Ram) (a : Nat) (bs : List Byte) (flags : List Bool) (x : Nat) :
    (m.put a bs flags).byte x = if a ≤ x ∧ x < a + bs.length then bs.getD (x - a) unlistedByte else m.byte x :=
  nget_putCells m.cells a bs x

theorem Ram.byte_write (m : Ram) (a : Nat) (bs : List Byte) (x : Nat) :
    (m.write a bs).byte x = if a ≤ x ∧ x < a + bs.length then bs.getD (x - a) unlistedByte else m.byte x :=
  m.byte_put a bs [] x

/-- A cleared range reads zero and the rest reads as before. -/
theorem Ram.byte_clear (m : Ram) (a len x : Nat) :
    (m.clear a len).byte x = if a ≤ x ∧ x < a + len then unlistedByte else m.byte x := by
  have h := nget_filter unlistedByte m.cells (fun k => decide (k < a) || decide (a + len ≤ k)) x
  unfold Ram.byte Ram.clear
  rw [h]
  by_cases h1 : a ≤ x ∧ x < a + len
  · have : ¬ (x < a) ∧ ¬ (a + len ≤ x) := by omega
    simp [h1, this.1, this.2]
  · have : x < a ∨ a + len ≤ x := by omega
    rcases this with h2 | h2 <;> simp [h1, h2]

/-- Every memory of the state in canonical form after reset. -/
theorem reset_memories_wf : State.reset.shm.wf = true ∧ State.reset.dram.mem.wf = true ∧ State.reset.cores = [] := ⟨rfl, rfl, rfl⟩

end Sys2Proof.Machine
end

