-- ==== Sys2Proof/Laws/State.lean ====
section
/-! SUPPORT. What each update of the state leaves as it was, field by field, and what a table or a register holds after a
write. -/

namespace Sys2Proof.Machine


/-! #### setCore -/

@[simp] theorem State.setCore_pending (s : State) (n : Nat) (k : Core) : (s.setCore n k).pending = s.pending := rfl
@[simp] theorem State.setCore_fuses (s : State) (n : Nat) (k : Core) : (s.setCore n k).fuses = s.fuses := rfl
@[simp] theorem State.setCore_regs (s : State) (n : Nat) (k : Core) : (s.setCore n k).regs = s.regs := rfl
@[simp] theorem State.setCore_latch (s : State) (n : Nat) (k : Core) : (s.setCore n k).latch = s.latch := rfl
@[simp] theorem State.setCore_us (s : State) (n : Nat) (k : Core) : (s.setCore n k).us = s.us := rfl
@[simp] theorem State.setCore_draws (s : State) (n : Nat) (k : Core) : (s.setCore n k).draws = s.draws := rfl
@[simp] theorem State.setCore_chans (s : State) (n : Nat) (k : Core) : (s.setCore n k).chans = s.chans := rfl
@[simp] theorem State.setCore_shm (s : State) (n : Nat) (k : Core) : (s.setCore n k).shm = s.shm := rfl
@[simp] theorem State.setCore_shmPatrol (s : State) (n : Nat) (k : Core) : (s.setCore n k).shmPatrol = s.shmPatrol := rfl
@[simp] theorem State.setCore_parts (s : State) (n : Nat) (k : Core) : (s.setCore n k).parts = s.parts := rfl
@[simp] theorem State.setCore_cmds (s : State) (n : Nat) (k : Core) : (s.setCore n k).cmds = s.cmds := rfl
@[simp] theorem State.setCore_orders (s : State) (n : Nat) (k : Core) : (s.setCore n k).orders = s.orders := rfl
@[simp] theorem State.setCore_ctxs (s : State) (n : Nat) (k : Core) : (s.setCore n k).ctxs = s.ctxs := rfl
@[simp] theorem State.setCore_spools (s : State) (n : Nat) (k : Core) : (s.setCore n k).spools = s.spools := rfl
@[simp] theorem State.setCore_seqs (s : State) (n : Nat) (k : Core) : (s.setCore n k).seqs = s.seqs := rfl
@[simp] theorem State.setCore_pages (s : State) (n : Nat) (k : Core) : (s.setCore n k).pages = s.pages := rfl
@[simp] theorem State.setCore_used (s : State) (n : Nat) (k : Core) : (s.setCore n k).used = s.used := rfl
@[simp] theorem State.setCore_models (s : State) (n : Nat) (k : Core) : (s.setCore n k).models = s.models := rfl
@[simp] theorem State.setCore_hostGran (s : State) (n : Nat) (k : Core) : (s.setCore n k).hostGran = s.hostGran := rfl
@[simp] theorem State.setCore_store (s : State) (n : Nat) (k : Core) : (s.setCore n k).store = s.store := rfl
@[simp] theorem State.setCore_passes (s : State) (n : Nat) (k : Core) : (s.setCore n k).passes = s.passes := rfl
@[simp] theorem State.setCore_passNo (s : State) (n : Nat) (k : Core) : (s.setCore n k).passNo = s.passNo := rfl
@[simp] theorem State.setCore_rings (s : State) (n : Nat) (k : Core) : (s.setCore n k).rings = s.rings := rfl
@[simp] theorem State.setCore_bs (s : State) (n : Nat) (k : Core) : (s.setCore n k).bs = s.bs := rfl
@[simp] theorem State.setCore_dram (s : State) (n : Nat) (k : Core) : (s.setCore n k).dram = s.dram := rfl
@[simp] theorem State.setCore_sec (s : State) (n : Nat) (k : Core) : (s.setCore n k).sec = s.sec := rfl
@[simp] theorem State.setCore_aon (s : State) (n : Nat) (k : Core) : (s.setCore n k).aon = s.aon := rfl
@[simp] theorem State.setCore_pwr (s : State) (n : Nat) (k : Core) : (s.setCore n k).pwr = s.pwr := rfl
@[simp] theorem State.setCore_ports (s : State) (n : Nat) (k : Core) : (s.setCore n k).ports = s.ports := rfl
@[simp] theorem State.setCore_colls (s : State) (n : Nat) (k : Core) : (s.setCore n k).colls = s.colls := rfl
@[simp] theorem State.setCore_evt (s : State) (n : Nat) (k : Core) : (s.setCore n k).evt = s.evt := rfl
@[simp] theorem State.setCore_ras (s : State) (n : Nat) (k : Core) : (s.setCore n k).ras = s.ras := rfl
@[simp] theorem State.setCore_tap (s : State) (n : Nat) (k : Core) : (s.setCore n k).tap = s.tap := rfl
@[simp] theorem State.setCore_tst (s : State) (n : Nat) (k : Core) : (s.setCore n k).tst = s.tst := rfl
@[simp] theorem State.setCore_pcie (s : State) (n : Nat) (k : Core) : (s.setCore n k).pcie = s.pcie := rfl
@[simp] theorem State.setCore_wrg (s : State) (n : Nat) (k : Core) : (s.setCore n k).wrg = s.wrg := rfl
@[simp] theorem State.setCore_outbox (s : State) (n : Nat) (k : Core) : (s.setCore n k).outbox = s.outbox := rfl

/-! #### modCore -/

@[simp] theorem State.modCore_pending (s : State) (n : Nat) (f : Core → Core) : (s.modCore n f).pending = s.pending := rfl
@[simp] theorem State.modCore_fuses (s : State) (n : Nat) (f : Core → Core) : (s.modCore n f).fuses = s.fuses := rfl
@[simp] theorem State.modCore_regs (s : State) (n : Nat) (f : Core → Core) : (s.modCore n f).regs = s.regs := rfl
@[simp] theorem State.modCore_latch (s : State) (n : Nat) (f : Core → Core) : (s.modCore n f).latch = s.latch := rfl
@[simp] theorem State.modCore_us (s : State) (n : Nat) (f : Core → Core) : (s.modCore n f).us = s.us := rfl
@[simp] theorem State.modCore_draws (s : State) (n : Nat) (f : Core → Core) : (s.modCore n f).draws = s.draws := rfl
@[simp] theorem State.modCore_chans (s : State) (n : Nat) (f : Core → Core) : (s.modCore n f).chans = s.chans := rfl
@[simp] theorem State.modCore_shm (s : State) (n : Nat) (f : Core → Core) : (s.modCore n f).shm = s.shm := rfl
@[simp] theorem State.modCore_shmPatrol (s : State) (n : Nat) (f : Core → Core) : (s.modCore n f).shmPatrol = s.shmPatrol := rfl
@[simp] theorem State.modCore_parts (s : State) (n : Nat) (f : Core → Core) : (s.modCore n f).parts = s.parts := rfl
@[simp] theorem State.modCore_cmds (s : State) (n : Nat) (f : Core → Core) : (s.modCore n f).cmds = s.cmds := rfl
@[simp] theorem State.modCore_orders (s : State) (n : Nat) (f : Core → Core) : (s.modCore n f).orders = s.orders := rfl
@[simp] theorem State.modCore_ctxs (s : State) (n : Nat) (f : Core → Core) : (s.modCore n f).ctxs = s.ctxs := rfl
@[simp] theorem State.modCore_spools (s : State) (n : Nat) (f : Core → Core) : (s.modCore n f).spools = s.spools := rfl
@[simp] theorem State.modCore_seqs (s : State) (n : Nat) (f : Core → Core) : (s.modCore n f).seqs = s.seqs := rfl
@[simp] theorem State.modCore_pages (s : State) (n : Nat) (f : Core → Core) : (s.modCore n f).pages = s.pages := rfl
@[simp] theorem State.modCore_used (s : State) (n : Nat) (f : Core → Core) : (s.modCore n f).used = s.used := rfl
@[simp] theorem State.modCore_models (s : State) (n : Nat) (f : Core → Core) : (s.modCore n f).models = s.models := rfl
@[simp] theorem State.modCore_hostGran (s : State) (n : Nat) (f : Core → Core) : (s.modCore n f).hostGran = s.hostGran := rfl
@[simp] theorem State.modCore_store (s : State) (n : Nat) (f : Core → Core) : (s.modCore n f).store = s.store := rfl
@[simp] theorem State.modCore_passes (s : State) (n : Nat) (f : Core → Core) : (s.modCore n f).passes = s.passes := rfl
@[simp] theorem State.modCore_passNo (s : State) (n : Nat) (f : Core → Core) : (s.modCore n f).passNo = s.passNo := rfl
@[simp] theorem State.modCore_rings (s : State) (n : Nat) (f : Core → Core) : (s.modCore n f).rings = s.rings := rfl
@[simp] theorem State.modCore_bs (s : State) (n : Nat) (f : Core → Core) : (s.modCore n f).bs = s.bs := rfl
@[simp] theorem State.modCore_dram (s : State) (n : Nat) (f : Core → Core) : (s.modCore n f).dram = s.dram := rfl
@[simp] theorem State.modCore_sec (s : State) (n : Nat) (f : Core → Core) : (s.modCore n f).sec = s.sec := rfl
@[simp] theorem State.modCore_aon (s : State) (n : Nat) (f : Core → Core) : (s.modCore n f).aon = s.aon := rfl
@[simp] theorem State.modCore_pwr (s : State) (n : Nat) (f : Core → Core) : (s.modCore n f).pwr = s.pwr := rfl
@[simp] theorem State.modCore_ports (s : State) (n : Nat) (f : Core → Core) : (s.modCore n f).ports = s.ports := rfl
@[simp] theorem State.modCore_colls (s : State) (n : Nat) (f : Core → Core) : (s.modCore n f).colls = s.colls := rfl
@[simp] theorem State.modCore_evt (s : State) (n : Nat) (f : Core → Core) : (s.modCore n f).evt = s.evt := rfl
@[simp] theorem State.modCore_ras (s : State) (n : Nat) (f : Core → Core) : (s.modCore n f).ras = s.ras := rfl
@[simp] theorem State.modCore_tap (s : State) (n : Nat) (f : Core → Core) : (s.modCore n f).tap = s.tap := rfl
@[simp] theorem State.modCore_tst (s : State) (n : Nat) (f : Core → Core) : (s.modCore n f).tst = s.tst := rfl
@[simp] theorem State.modCore_pcie (s : State) (n : Nat) (f : Core → Core) : (s.modCore n f).pcie = s.pcie := rfl
@[simp] theorem State.modCore_wrg (s : State) (n : Nat) (f : Core → Core) : (s.modCore n f).wrg = s.wrg := rfl
@[simp] theorem State.modCore_outbox (s : State) (n : Nat) (f : Core → Core) : (s.modCore n f).outbox = s.outbox := rfl

/-! #### setChan -/

@[simp] theorem State.setChan_pending (s : State) (n : Nat) (k : Chan) : (s.setChan n k).pending = s.pending := rfl
@[simp] theorem State.setChan_fuses (s : State) (n : Nat) (k : Chan) : (s.setChan n k).fuses = s.fuses := rfl
@[simp] theorem State.setChan_regs (s : State) (n : Nat) (k : Chan) : (s.setChan n k).regs = s.regs := rfl
@[simp] theorem State.setChan_latch (s : State) (n : Nat) (k : Chan) : (s.setChan n k).latch = s.latch := rfl
@[simp] theorem State.setChan_us (s : State) (n : Nat) (k : Chan) : (s.setChan n k).us = s.us := rfl
@[simp] theorem State.setChan_draws (s : State) (n : Nat) (k : Chan) : (s.setChan n k).draws = s.draws := rfl
@[simp] theorem State.setChan_cores (s : State) (n : Nat) (k : Chan) : (s.setChan n k).cores = s.cores := rfl
@[simp] theorem State.setChan_shm (s : State) (n : Nat) (k : Chan) : (s.setChan n k).shm = s.shm := rfl
@[simp] theorem State.setChan_shmPatrol (s : State) (n : Nat) (k : Chan) : (s.setChan n k).shmPatrol = s.shmPatrol := rfl
@[simp] theorem State.setChan_parts (s : State) (n : Nat) (k : Chan) : (s.setChan n k).parts = s.parts := rfl
@[simp] theorem State.setChan_cmds (s : State) (n : Nat) (k : Chan) : (s.setChan n k).cmds = s.cmds := rfl
@[simp] theorem State.setChan_orders (s : State) (n : Nat) (k : Chan) : (s.setChan n k).orders = s.orders := rfl
@[simp] theorem State.setChan_ctxs (s : State) (n : Nat) (k : Chan) : (s.setChan n k).ctxs = s.ctxs := rfl
@[simp] theorem State.setChan_spools (s : State) (n : Nat) (k : Chan) : (s.setChan n k).spools = s.spools := rfl
@[simp] theorem State.setChan_seqs (s : State) (n : Nat) (k : Chan) : (s.setChan n k).seqs = s.seqs := rfl
@[simp] theorem State.setChan_pages (s : State) (n : Nat) (k : Chan) : (s.setChan n k).pages = s.pages := rfl
@[simp] theorem State.setChan_used (s : State) (n : Nat) (k : Chan) : (s.setChan n k).used = s.used := rfl
@[simp] theorem State.setChan_models (s : State) (n : Nat) (k : Chan) : (s.setChan n k).models = s.models := rfl
@[simp] theorem State.setChan_hostGran (s : State) (n : Nat) (k : Chan) : (s.setChan n k).hostGran = s.hostGran := rfl
@[simp] theorem State.setChan_store (s : State) (n : Nat) (k : Chan) : (s.setChan n k).store = s.store := rfl
@[simp] theorem State.setChan_passes (s : State) (n : Nat) (k : Chan) : (s.setChan n k).passes = s.passes := rfl
@[simp] theorem State.setChan_passNo (s : State) (n : Nat) (k : Chan) : (s.setChan n k).passNo = s.passNo := rfl
@[simp] theorem State.setChan_rings (s : State) (n : Nat) (k : Chan) : (s.setChan n k).rings = s.rings := rfl
@[simp] theorem State.setChan_bs (s : State) (n : Nat) (k : Chan) : (s.setChan n k).bs = s.bs := rfl
@[simp] theorem State.setChan_dram (s : State) (n : Nat) (k : Chan) : (s.setChan n k).dram = s.dram := rfl
@[simp] theorem State.setChan_sec (s : State) (n : Nat) (k : Chan) : (s.setChan n k).sec = s.sec := rfl
@[simp] theorem State.setChan_aon (s : State) (n : Nat) (k : Chan) : (s.setChan n k).aon = s.aon := rfl
@[simp] theorem State.setChan_pwr (s : State) (n : Nat) (k : Chan) : (s.setChan n k).pwr = s.pwr := rfl
@[simp] theorem State.setChan_ports (s : State) (n : Nat) (k : Chan) : (s.setChan n k).ports = s.ports := rfl
@[simp] theorem State.setChan_colls (s : State) (n : Nat) (k : Chan) : (s.setChan n k).colls = s.colls := rfl
@[simp] theorem State.setChan_evt (s : State) (n : Nat) (k : Chan) : (s.setChan n k).evt = s.evt := rfl
@[simp] theorem State.setChan_ras (s : State) (n : Nat) (k : Chan) : (s.setChan n k).ras = s.ras := rfl
@[simp] theorem State.setChan_tap (s : State) (n : Nat) (k : Chan) : (s.setChan n k).tap = s.tap := rfl
@[simp] theorem State.setChan_tst (s : State) (n : Nat) (k : Chan) : (s.setChan n k).tst = s.tst := rfl
@[simp] theorem State.setChan_pcie (s : State) (n : Nat) (k : Chan) : (s.setChan n k).pcie = s.pcie := rfl
@[simp] theorem State.setChan_wrg (s : State) (n : Nat) (k : Chan) : (s.setChan n k).wrg = s.wrg := rfl
@[simp] theorem State.setChan_outbox (s : State) (n : Nat) (k : Chan) : (s.setChan n k).outbox = s.outbox := rfl

/-! #### setPart -/

@[simp] theorem State.setPart_pending (s : State) (n : Nat) (k : Part) : (s.setPart n k).pending = s.pending := rfl
@[simp] theorem State.setPart_fuses (s : State) (n : Nat) (k : Part) : (s.setPart n k).fuses = s.fuses := rfl
@[simp] theorem State.setPart_regs (s : State) (n : Nat) (k : Part) : (s.setPart n k).regs = s.regs := rfl
@[simp] theorem State.setPart_latch (s : State) (n : Nat) (k : Part) : (s.setPart n k).latch = s.latch := rfl
@[simp] theorem State.setPart_us (s : State) (n : Nat) (k : Part) : (s.setPart n k).us = s.us := rfl
@[simp] theorem State.setPart_draws (s : State) (n : Nat) (k : Part) : (s.setPart n k).draws = s.draws := rfl
@[simp] theorem State.setPart_cores (s : State) (n : Nat) (k : Part) : (s.setPart n k).cores = s.cores := rfl
@[simp] theorem State.setPart_chans (s : State) (n : Nat) (k : Part) : (s.setPart n k).chans = s.chans := rfl
@[simp] theorem State.setPart_shm (s : State) (n : Nat) (k : Part) : (s.setPart n k).shm = s.shm := rfl
@[simp] theorem State.setPart_shmPatrol (s : State) (n : Nat) (k : Part) : (s.setPart n k).shmPatrol = s.shmPatrol := rfl
@[simp] theorem State.setPart_cmds (s : State) (n : Nat) (k : Part) : (s.setPart n k).cmds = s.cmds := rfl
@[simp] theorem State.setPart_orders (s : State) (n : Nat) (k : Part) : (s.setPart n k).orders = s.orders := rfl
@[simp] theorem State.setPart_ctxs (s : State) (n : Nat) (k : Part) : (s.setPart n k).ctxs = s.ctxs := rfl
@[simp] theorem State.setPart_spools (s : State) (n : Nat) (k : Part) : (s.setPart n k).spools = s.spools := rfl
@[simp] theorem State.setPart_seqs (s : State) (n : Nat) (k : Part) : (s.setPart n k).seqs = s.seqs := rfl
@[simp] theorem State.setPart_pages (s : State) (n : Nat) (k : Part) : (s.setPart n k).pages = s.pages := rfl
@[simp] theorem State.setPart_used (s : State) (n : Nat) (k : Part) : (s.setPart n k).used = s.used := rfl
@[simp] theorem State.setPart_models (s : State) (n : Nat) (k : Part) : (s.setPart n k).models = s.models := rfl
@[simp] theorem State.setPart_hostGran (s : State) (n : Nat) (k : Part) : (s.setPart n k).hostGran = s.hostGran := rfl
@[simp] theorem State.setPart_store (s : State) (n : Nat) (k : Part) : (s.setPart n k).store = s.store := rfl
@[simp] theorem State.setPart_passes (s : State) (n : Nat) (k : Part) : (s.setPart n k).passes = s.passes := rfl
@[simp] theorem State.setPart_passNo (s : State) (n : Nat) (k : Part) : (s.setPart n k).passNo = s.passNo := rfl
@[simp] theorem State.setPart_rings (s : State) (n : Nat) (k : Part) : (s.setPart n k).rings = s.rings := rfl
@[simp] theorem State.setPart_bs (s : State) (n : Nat) (k : Part) : (s.setPart n k).bs = s.bs := rfl
@[simp] theorem State.setPart_dram (s : State) (n : Nat) (k : Part) : (s.setPart n k).dram = s.dram := rfl
@[simp] theorem State.setPart_sec (s : State) (n : Nat) (k : Part) : (s.setPart n k).sec = s.sec := rfl
@[simp] theorem State.setPart_aon (s : State) (n : Nat) (k : Part) : (s.setPart n k).aon = s.aon := rfl
@[simp] theorem State.setPart_pwr (s : State) (n : Nat) (k : Part) : (s.setPart n k).pwr = s.pwr := rfl
@[simp] theorem State.setPart_ports (s : State) (n : Nat) (k : Part) : (s.setPart n k).ports = s.ports := rfl
@[simp] theorem State.setPart_colls (s : State) (n : Nat) (k : Part) : (s.setPart n k).colls = s.colls := rfl
@[simp] theorem State.setPart_evt (s : State) (n : Nat) (k : Part) : (s.setPart n k).evt = s.evt := rfl
@[simp] theorem State.setPart_ras (s : State) (n : Nat) (k : Part) : (s.setPart n k).ras = s.ras := rfl
@[simp] theorem State.setPart_tap (s : State) (n : Nat) (k : Part) : (s.setPart n k).tap = s.tap := rfl
@[simp] theorem State.setPart_tst (s : State) (n : Nat) (k : Part) : (s.setPart n k).tst = s.tst := rfl
@[simp] theorem State.setPart_pcie (s : State) (n : Nat) (k : Part) : (s.setPart n k).pcie = s.pcie := rfl
@[simp] theorem State.setPart_wrg (s : State) (n : Nat) (k : Part) : (s.setPart n k).wrg = s.wrg := rfl
@[simp] theorem State.setPart_outbox (s : State) (n : Nat) (k : Part) : (s.setPart n k).outbox = s.outbox := rfl

/-! #### setCtx -/

@[simp] theorem State.setCtx_pending (s : State) (n : Nat) (k : Ctx) : (s.setCtx n k).pending = s.pending := rfl
@[simp] theorem State.setCtx_fuses (s : State) (n : Nat) (k : Ctx) : (s.setCtx n k).fuses = s.fuses := rfl
@[simp] theorem State.setCtx_regs (s : State) (n : Nat) (k : Ctx) : (s.setCtx n k).regs = s.regs := rfl
@[simp] theorem State.setCtx_latch (s : State) (n : Nat) (k : Ctx) : (s.setCtx n k).latch = s.latch := rfl
@[simp] theorem State.setCtx_us (s : State) (n : Nat) (k : Ctx) : (s.setCtx n k).us = s.us := rfl
@[simp] theorem State.setCtx_draws (s : State) (n : Nat) (k : Ctx) : (s.setCtx n k).draws = s.draws := rfl
@[simp] theorem State.setCtx_cores (s : State) (n : Nat) (k : Ctx) : (s.setCtx n k).cores = s.cores := rfl
@[simp] theorem State.setCtx_chans (s : State) (n : Nat) (k : Ctx) : (s.setCtx n k).chans = s.chans := rfl
@[simp] theorem State.setCtx_shm (s : State) (n : Nat) (k : Ctx) : (s.setCtx n k).shm = s.shm := rfl
@[simp] theorem State.setCtx_shmPatrol (s : State) (n : Nat) (k : Ctx) : (s.setCtx n k).shmPatrol = s.shmPatrol := rfl
@[simp] theorem State.setCtx_parts (s : State) (n : Nat) (k : Ctx) : (s.setCtx n k).parts = s.parts := rfl
@[simp] theorem State.setCtx_cmds (s : State) (n : Nat) (k : Ctx) : (s.setCtx n k).cmds = s.cmds := rfl
@[simp] theorem State.setCtx_orders (s : State) (n : Nat) (k : Ctx) : (s.setCtx n k).orders = s.orders := rfl
@[simp] theorem State.setCtx_spools (s : State) (n : Nat) (k : Ctx) : (s.setCtx n k).spools = s.spools := rfl
@[simp] theorem State.setCtx_seqs (s : State) (n : Nat) (k : Ctx) : (s.setCtx n k).seqs = s.seqs := rfl
@[simp] theorem State.setCtx_pages (s : State) (n : Nat) (k : Ctx) : (s.setCtx n k).pages = s.pages := rfl
@[simp] theorem State.setCtx_used (s : State) (n : Nat) (k : Ctx) : (s.setCtx n k).used = s.used := rfl
@[simp] theorem State.setCtx_models (s : State) (n : Nat) (k : Ctx) : (s.setCtx n k).models = s.models := rfl
@[simp] theorem State.setCtx_hostGran (s : State) (n : Nat) (k : Ctx) : (s.setCtx n k).hostGran = s.hostGran := rfl
@[simp] theorem State.setCtx_store (s : State) (n : Nat) (k : Ctx) : (s.setCtx n k).store = s.store := rfl
@[simp] theorem State.setCtx_passes (s : State) (n : Nat) (k : Ctx) : (s.setCtx n k).passes = s.passes := rfl
@[simp] theorem State.setCtx_passNo (s : State) (n : Nat) (k : Ctx) : (s.setCtx n k).passNo = s.passNo := rfl
@[simp] theorem State.setCtx_rings (s : State) (n : Nat) (k : Ctx) : (s.setCtx n k).rings = s.rings := rfl
@[simp] theorem State.setCtx_bs (s : State) (n : Nat) (k : Ctx) : (s.setCtx n k).bs = s.bs := rfl
@[simp] theorem State.setCtx_dram (s : State) (n : Nat) (k : Ctx) : (s.setCtx n k).dram = s.dram := rfl
@[simp] theorem State.setCtx_sec (s : State) (n : Nat) (k : Ctx) : (s.setCtx n k).sec = s.sec := rfl
@[simp] theorem State.setCtx_aon (s : State) (n : Nat) (k : Ctx) : (s.setCtx n k).aon = s.aon := rfl
@[simp] theorem State.setCtx_pwr (s : State) (n : Nat) (k : Ctx) : (s.setCtx n k).pwr = s.pwr := rfl
@[simp] theorem State.setCtx_ports (s : State) (n : Nat) (k : Ctx) : (s.setCtx n k).ports = s.ports := rfl
@[simp] theorem State.setCtx_colls (s : State) (n : Nat) (k : Ctx) : (s.setCtx n k).colls = s.colls := rfl
@[simp] theorem State.setCtx_evt (s : State) (n : Nat) (k : Ctx) : (s.setCtx n k).evt = s.evt := rfl
@[simp] theorem State.setCtx_ras (s : State) (n : Nat) (k : Ctx) : (s.setCtx n k).ras = s.ras := rfl
@[simp] theorem State.setCtx_tap (s : State) (n : Nat) (k : Ctx) : (s.setCtx n k).tap = s.tap := rfl
@[simp] theorem State.setCtx_tst (s : State) (n : Nat) (k : Ctx) : (s.setCtx n k).tst = s.tst := rfl
@[simp] theorem State.setCtx_pcie (s : State) (n : Nat) (k : Ctx) : (s.setCtx n k).pcie = s.pcie := rfl
@[simp] theorem State.setCtx_wrg (s : State) (n : Nat) (k : Ctx) : (s.setCtx n k).wrg = s.wrg := rfl
@[simp] theorem State.setCtx_outbox (s : State) (n : Nat) (k : Ctx) : (s.setCtx n k).outbox = s.outbox := rfl

/-! #### setSpool -/

@[simp] theorem State.setSpool_pending (s : State) (c p : Nat) (k : Spool) : (s.setSpool c p k).pending = s.pending := rfl
@[simp] theorem State.setSpool_fuses (s : State) (c p : Nat) (k : Spool) : (s.setSpool c p k).fuses = s.fuses := rfl
@[simp] theorem State.setSpool_regs (s : State) (c p : Nat) (k : Spool) : (s.setSpool c p k).regs = s.regs := rfl
@[simp] theorem State.setSpool_latch (s : State) (c p : Nat) (k : Spool) : (s.setSpool c p k).latch = s.latch := rfl
@[simp] theorem State.setSpool_us (s : State) (c p : Nat) (k : Spool) : (s.setSpool c p k).us = s.us := rfl
@[simp] theorem State.setSpool_draws (s : State) (c p : Nat) (k : Spool) : (s.setSpool c p k).draws = s.draws := rfl
@[simp] theorem State.setSpool_cores (s : State) (c p : Nat) (k : Spool) : (s.setSpool c p k).cores = s.cores := rfl
@[simp] theorem State.setSpool_chans (s : State) (c p : Nat) (k : Spool) : (s.setSpool c p k).chans = s.chans := rfl
@[simp] theorem State.setSpool_shm (s : State) (c p : Nat) (k : Spool) : (s.setSpool c p k).shm = s.shm := rfl
@[simp] theorem State.setSpool_shmPatrol (s : State) (c p : Nat) (k : Spool) : (s.setSpool c p k).shmPatrol = s.shmPatrol := rfl
@[simp] theorem State.setSpool_parts (s : State) (c p : Nat) (k : Spool) : (s.setSpool c p k).parts = s.parts := rfl
@[simp] theorem State.setSpool_cmds (s : State) (c p : Nat) (k : Spool) : (s.setSpool c p k).cmds = s.cmds := rfl
@[simp] theorem State.setSpool_orders (s : State) (c p : Nat) (k : Spool) : (s.setSpool c p k).orders = s.orders := rfl
@[simp] theorem State.setSpool_ctxs (s : State) (c p : Nat) (k : Spool) : (s.setSpool c p k).ctxs = s.ctxs := rfl
@[simp] theorem State.setSpool_seqs (s : State) (c p : Nat) (k : Spool) : (s.setSpool c p k).seqs = s.seqs := rfl
@[simp] theorem State.setSpool_pages (s : State) (c p : Nat) (k : Spool) : (s.setSpool c p k).pages = s.pages := rfl
@[simp] theorem State.setSpool_used (s : State) (c p : Nat) (k : Spool) : (s.setSpool c p k).used = s.used := rfl
@[simp] theorem State.setSpool_models (s : State) (c p : Nat) (k : Spool) : (s.setSpool c p k).models = s.models := rfl
@[simp] theorem State.setSpool_hostGran (s : State) (c p : Nat) (k : Spool) : (s.setSpool c p k).hostGran = s.hostGran := rfl
@[simp] theorem State.setSpool_store (s : State) (c p : Nat) (k : Spool) : (s.setSpool c p k).store = s.store := rfl
@[simp] theorem State.setSpool_passes (s : State) (c p : Nat) (k : Spool) : (s.setSpool c p k).passes = s.passes := rfl
@[simp] theorem State.setSpool_passNo (s : State) (c p : Nat) (k : Spool) : (s.setSpool c p k).passNo = s.passNo := rfl
@[simp] theorem State.setSpool_rings (s : State) (c p : Nat) (k : Spool) : (s.setSpool c p k).rings = s.rings := rfl
@[simp] theorem State.setSpool_bs (s : State) (c p : Nat) (k : Spool) : (s.setSpool c p k).bs = s.bs := rfl
@[simp] theorem State.setSpool_dram (s : State) (c p : Nat) (k : Spool) : (s.setSpool c p k).dram = s.dram := rfl
@[simp] theorem State.setSpool_sec (s : State) (c p : Nat) (k : Spool) : (s.setSpool c p k).sec = s.sec := rfl
@[simp] theorem State.setSpool_aon (s : State) (c p : Nat) (k : Spool) : (s.setSpool c p k).aon = s.aon := rfl
@[simp] theorem State.setSpool_pwr (s : State) (c p : Nat) (k : Spool) : (s.setSpool c p k).pwr = s.pwr := rfl
@[simp] theorem State.setSpool_ports (s : State) (c p : Nat) (k : Spool) : (s.setSpool c p k).ports = s.ports := rfl
@[simp] theorem State.setSpool_colls (s : State) (c p : Nat) (k : Spool) : (s.setSpool c p k).colls = s.colls := rfl
@[simp] theorem State.setSpool_evt (s : State) (c p : Nat) (k : Spool) : (s.setSpool c p k).evt = s.evt := rfl
@[simp] theorem State.setSpool_ras (s : State) (c p : Nat) (k : Spool) : (s.setSpool c p k).ras = s.ras := rfl
@[simp] theorem State.setSpool_tap (s : State) (c p : Nat) (k : Spool) : (s.setSpool c p k).tap = s.tap := rfl
@[simp] theorem State.setSpool_tst (s : State) (c p : Nat) (k : Spool) : (s.setSpool c p k).tst = s.tst := rfl
@[simp] theorem State.setSpool_pcie (s : State) (c p : Nat) (k : Spool) : (s.setSpool c p k).pcie = s.pcie := rfl
@[simp] theorem State.setSpool_wrg (s : State) (c p : Nat) (k : Spool) : (s.setSpool c p k).wrg = s.wrg := rfl
@[simp] theorem State.setSpool_outbox (s : State) (c p : Nat) (k : Spool) : (s.setSpool c p k).outbox = s.outbox := rfl

/-! #### setSeq -/

@[simp] theorem State.setSeq_pending (s : State) (n : Nat) (k : Seq) : (s.setSeq n k).pending = s.pending := rfl
@[simp] theorem State.setSeq_fuses (s : State) (n : Nat) (k : Seq) : (s.setSeq n k).fuses = s.fuses := rfl
@[simp] theorem State.setSeq_regs (s : State) (n : Nat) (k : Seq) : (s.setSeq n k).regs = s.regs := rfl
@[simp] theorem State.setSeq_latch (s : State) (n : Nat) (k : Seq) : (s.setSeq n k).latch = s.latch := rfl
@[simp] theorem State.setSeq_us (s : State) (n : Nat) (k : Seq) : (s.setSeq n k).us = s.us := rfl
@[simp] theorem State.setSeq_draws (s : State) (n : Nat) (k : Seq) : (s.setSeq n k).draws = s.draws := rfl
@[simp] theorem State.setSeq_cores (s : State) (n : Nat) (k : Seq) : (s.setSeq n k).cores = s.cores := rfl
@[simp] theorem State.setSeq_chans (s : State) (n : Nat) (k : Seq) : (s.setSeq n k).chans = s.chans := rfl
@[simp] theorem State.setSeq_shm (s : State) (n : Nat) (k : Seq) : (s.setSeq n k).shm = s.shm := rfl
@[simp] theorem State.setSeq_shmPatrol (s : State) (n : Nat) (k : Seq) : (s.setSeq n k).shmPatrol = s.shmPatrol := rfl
@[simp] theorem State.setSeq_parts (s : State) (n : Nat) (k : Seq) : (s.setSeq n k).parts = s.parts := rfl
@[simp] theorem State.setSeq_cmds (s : State) (n : Nat) (k : Seq) : (s.setSeq n k).cmds = s.cmds := rfl
@[simp] theorem State.setSeq_orders (s : State) (n : Nat) (k : Seq) : (s.setSeq n k).orders = s.orders := rfl
@[simp] theorem State.setSeq_ctxs (s : State) (n : Nat) (k : Seq) : (s.setSeq n k).ctxs = s.ctxs := rfl
@[simp] theorem State.setSeq_spools (s : State) (n : Nat) (k : Seq) : (s.setSeq n k).spools = s.spools := rfl
@[simp] theorem State.setSeq_pages (s : State) (n : Nat) (k : Seq) : (s.setSeq n k).pages = s.pages := rfl
@[simp] theorem State.setSeq_used (s : State) (n : Nat) (k : Seq) : (s.setSeq n k).used = s.used := rfl
@[simp] theorem State.setSeq_models (s : State) (n : Nat) (k : Seq) : (s.setSeq n k).models = s.models := rfl
@[simp] theorem State.setSeq_hostGran (s : State) (n : Nat) (k : Seq) : (s.setSeq n k).hostGran = s.hostGran := rfl
@[simp] theorem State.setSeq_store (s : State) (n : Nat) (k : Seq) : (s.setSeq n k).store = s.store := rfl
@[simp] theorem State.setSeq_passes (s : State) (n : Nat) (k : Seq) : (s.setSeq n k).passes = s.passes := rfl
@[simp] theorem State.setSeq_passNo (s : State) (n : Nat) (k : Seq) : (s.setSeq n k).passNo = s.passNo := rfl
@[simp] theorem State.setSeq_rings (s : State) (n : Nat) (k : Seq) : (s.setSeq n k).rings = s.rings := rfl
@[simp] theorem State.setSeq_bs (s : State) (n : Nat) (k : Seq) : (s.setSeq n k).bs = s.bs := rfl
@[simp] theorem State.setSeq_dram (s : State) (n : Nat) (k : Seq) : (s.setSeq n k).dram = s.dram := rfl
@[simp] theorem State.setSeq_sec (s : State) (n : Nat) (k : Seq) : (s.setSeq n k).sec = s.sec := rfl
@[simp] theorem State.setSeq_aon (s : State) (n : Nat) (k : Seq) : (s.setSeq n k).aon = s.aon := rfl
@[simp] theorem State.setSeq_pwr (s : State) (n : Nat) (k : Seq) : (s.setSeq n k).pwr = s.pwr := rfl
@[simp] theorem State.setSeq_ports (s : State) (n : Nat) (k : Seq) : (s.setSeq n k).ports = s.ports := rfl
@[simp] theorem State.setSeq_colls (s : State) (n : Nat) (k : Seq) : (s.setSeq n k).colls = s.colls := rfl
@[simp] theorem State.setSeq_evt (s : State) (n : Nat) (k : Seq) : (s.setSeq n k).evt = s.evt := rfl
@[simp] theorem State.setSeq_ras (s : State) (n : Nat) (k : Seq) : (s.setSeq n k).ras = s.ras := rfl
@[simp] theorem State.setSeq_tap (s : State) (n : Nat) (k : Seq) : (s.setSeq n k).tap = s.tap := rfl
@[simp] theorem State.setSeq_tst (s : State) (n : Nat) (k : Seq) : (s.setSeq n k).tst = s.tst := rfl
@[simp] theorem State.setSeq_pcie (s : State) (n : Nat) (k : Seq) : (s.setSeq n k).pcie = s.pcie := rfl
@[simp] theorem State.setSeq_wrg (s : State) (n : Nat) (k : Seq) : (s.setSeq n k).wrg = s.wrg := rfl
@[simp] theorem State.setSeq_outbox (s : State) (n : Nat) (k : Seq) : (s.setSeq n k).outbox = s.outbox := rfl

/-! #### setModel -/

@[simp] theorem State.setModel_pending (s : State) (n : Nat) (k : Model) : (s.setModel n k).pending = s.pending := rfl
@[simp] theorem State.setModel_fuses (s : State) (n : Nat) (k : Model) : (s.setModel n k).fuses = s.fuses := rfl
@[simp] theorem State.setModel_regs (s : State) (n : Nat) (k : Model) : (s.setModel n k).regs = s.regs := rfl
@[simp] theorem State.setModel_latch (s : State) (n : Nat) (k : Model) : (s.setModel n k).latch = s.latch := rfl
@[simp] theorem State.setModel_us (s : State) (n : Nat) (k : Model) : (s.setModel n k).us = s.us := rfl
@[simp] theorem State.setModel_draws (s : State) (n : Nat) (k : Model) : (s.setModel n k).draws = s.draws := rfl
@[simp] theorem State.setModel_cores (s : State) (n : Nat) (k : Model) : (s.setModel n k).cores = s.cores := rfl
@[simp] theorem State.setModel_chans (s : State) (n : Nat) (k : Model) : (s.setModel n k).chans = s.chans := rfl
@[simp] theorem State.setModel_shm (s : State) (n : Nat) (k : Model) : (s.setModel n k).shm = s.shm := rfl
@[simp] theorem State.setModel_shmPatrol (s : State) (n : Nat) (k : Model) : (s.setModel n k).shmPatrol = s.shmPatrol := rfl
@[simp] theorem State.setModel_parts (s : State) (n : Nat) (k : Model) : (s.setModel n k).parts = s.parts := rfl
@[simp] theorem State.setModel_cmds (s : State) (n : Nat) (k : Model) : (s.setModel n k).cmds = s.cmds := rfl
@[simp] theorem State.setModel_orders (s : State) (n : Nat) (k : Model) : (s.setModel n k).orders = s.orders := rfl
@[simp] theorem State.setModel_ctxs (s : State) (n : Nat) (k : Model) : (s.setModel n k).ctxs = s.ctxs := rfl
@[simp] theorem State.setModel_spools (s : State) (n : Nat) (k : Model) : (s.setModel n k).spools = s.spools := rfl
@[simp] theorem State.setModel_seqs (s : State) (n : Nat) (k : Model) : (s.setModel n k).seqs = s.seqs := rfl
@[simp] theorem State.setModel_pages (s : State) (n : Nat) (k : Model) : (s.setModel n k).pages = s.pages := rfl
@[simp] theorem State.setModel_used (s : State) (n : Nat) (k : Model) : (s.setModel n k).used = s.used := rfl
@[simp] theorem State.setModel_hostGran (s : State) (n : Nat) (k : Model) : (s.setModel n k).hostGran = s.hostGran := rfl
@[simp] theorem State.setModel_store (s : State) (n : Nat) (k : Model) : (s.setModel n k).store = s.store := rfl
@[simp] theorem State.setModel_passes (s : State) (n : Nat) (k : Model) : (s.setModel n k).passes = s.passes := rfl
@[simp] theorem State.setModel_passNo (s : State) (n : Nat) (k : Model) : (s.setModel n k).passNo = s.passNo := rfl
@[simp] theorem State.setModel_rings (s : State) (n : Nat) (k : Model) : (s.setModel n k).rings = s.rings := rfl
@[simp] theorem State.setModel_bs (s : State) (n : Nat) (k : Model) : (s.setModel n k).bs = s.bs := rfl
@[simp] theorem State.setModel_dram (s : State) (n : Nat) (k : Model) : (s.setModel n k).dram = s.dram := rfl
@[simp] theorem State.setModel_sec (s : State) (n : Nat) (k : Model) : (s.setModel n k).sec = s.sec := rfl
@[simp] theorem State.setModel_aon (s : State) (n : Nat) (k : Model) : (s.setModel n k).aon = s.aon := rfl
@[simp] theorem State.setModel_pwr (s : State) (n : Nat) (k : Model) : (s.setModel n k).pwr = s.pwr := rfl
@[simp] theorem State.setModel_ports (s : State) (n : Nat) (k : Model) : (s.setModel n k).ports = s.ports := rfl
@[simp] theorem State.setModel_colls (s : State) (n : Nat) (k : Model) : (s.setModel n k).colls = s.colls := rfl
@[simp] theorem State.setModel_evt (s : State) (n : Nat) (k : Model) : (s.setModel n k).evt = s.evt := rfl
@[simp] theorem State.setModel_ras (s : State) (n : Nat) (k : Model) : (s.setModel n k).ras = s.ras := rfl
@[simp] theorem State.setModel_tap (s : State) (n : Nat) (k : Model) : (s.setModel n k).tap = s.tap := rfl
@[simp] theorem State.setModel_tst (s : State) (n : Nat) (k : Model) : (s.setModel n k).tst = s.tst := rfl
@[simp] theorem State.setModel_pcie (s : State) (n : Nat) (k : Model) : (s.setModel n k).pcie = s.pcie := rfl
@[simp] theorem State.setModel_wrg (s : State) (n : Nat) (k : Model) : (s.setModel n k).wrg = s.wrg := rfl
@[simp] theorem State.setModel_outbox (s : State) (n : Nat) (k : Model) : (s.setModel n k).outbox = s.outbox := rfl

/-! #### setBs -/

@[simp] theorem State.setBs_pending (s : State) (n : Nat) (k : Bs) : (s.setBs n k).pending = s.pending := rfl
@[simp] theorem State.setBs_fuses (s : State) (n : Nat) (k : Bs) : (s.setBs n k).fuses = s.fuses := rfl
@[simp] theorem State.setBs_regs (s : State) (n : Nat) (k : Bs) : (s.setBs n k).regs = s.regs := rfl
@[simp] theorem State.setBs_latch (s : State) (n : Nat) (k : Bs) : (s.setBs n k).latch = s.latch := rfl
@[simp] theorem State.setBs_us (s : State) (n : Nat) (k : Bs) : (s.setBs n k).us = s.us := rfl
@[simp] theorem State.setBs_draws (s : State) (n : Nat) (k : Bs) : (s.setBs n k).draws = s.draws := rfl
@[simp] theorem State.setBs_cores (s : State) (n : Nat) (k : Bs) : (s.setBs n k).cores = s.cores := rfl
@[simp] theorem State.setBs_chans (s : State) (n : Nat) (k : Bs) : (s.setBs n k).chans = s.chans := rfl
@[simp] theorem State.setBs_shm (s : State) (n : Nat) (k : Bs) : (s.setBs n k).shm = s.shm := rfl
@[simp] theorem State.setBs_shmPatrol (s : State) (n : Nat) (k : Bs) : (s.setBs n k).shmPatrol = s.shmPatrol := rfl
@[simp] theorem State.setBs_parts (s : State) (n : Nat) (k : Bs) : (s.setBs n k).parts = s.parts := rfl
@[simp] theorem State.setBs_cmds (s : State) (n : Nat) (k : Bs) : (s.setBs n k).cmds = s.cmds := rfl
@[simp] theorem State.setBs_orders (s : State) (n : Nat) (k : Bs) : (s.setBs n k).orders = s.orders := rfl
@[simp] theorem State.setBs_ctxs (s : State) (n : Nat) (k : Bs) : (s.setBs n k).ctxs = s.ctxs := rfl
@[simp] theorem State.setBs_spools (s : State) (n : Nat) (k : Bs) : (s.setBs n k).spools = s.spools := rfl
@[simp] theorem State.setBs_seqs (s : State) (n : Nat) (k : Bs) : (s.setBs n k).seqs = s.seqs := rfl
@[simp] theorem State.setBs_pages (s : State) (n : Nat) (k : Bs) : (s.setBs n k).pages = s.pages := rfl
@[simp] theorem State.setBs_used (s : State) (n : Nat) (k : Bs) : (s.setBs n k).used = s.used := rfl
@[simp] theorem State.setBs_models (s : State) (n : Nat) (k : Bs) : (s.setBs n k).models = s.models := rfl
@[simp] theorem State.setBs_hostGran (s : State) (n : Nat) (k : Bs) : (s.setBs n k).hostGran = s.hostGran := rfl
@[simp] theorem State.setBs_store (s : State) (n : Nat) (k : Bs) : (s.setBs n k).store = s.store := rfl
@[simp] theorem State.setBs_passes (s : State) (n : Nat) (k : Bs) : (s.setBs n k).passes = s.passes := rfl
@[simp] theorem State.setBs_passNo (s : State) (n : Nat) (k : Bs) : (s.setBs n k).passNo = s.passNo := rfl
@[simp] theorem State.setBs_rings (s : State) (n : Nat) (k : Bs) : (s.setBs n k).rings = s.rings := rfl
@[simp] theorem State.setBs_dram (s : State) (n : Nat) (k : Bs) : (s.setBs n k).dram = s.dram := rfl
@[simp] theorem State.setBs_sec (s : State) (n : Nat) (k : Bs) : (s.setBs n k).sec = s.sec := rfl
@[simp] theorem State.setBs_aon (s : State) (n : Nat) (k : Bs) : (s.setBs n k).aon = s.aon := rfl
@[simp] theorem State.setBs_pwr (s : State) (n : Nat) (k : Bs) : (s.setBs n k).pwr = s.pwr := rfl
@[simp] theorem State.setBs_ports (s : State) (n : Nat) (k : Bs) : (s.setBs n k).ports = s.ports := rfl
@[simp] theorem State.setBs_colls (s : State) (n : Nat) (k : Bs) : (s.setBs n k).colls = s.colls := rfl
@[simp] theorem State.setBs_evt (s : State) (n : Nat) (k : Bs) : (s.setBs n k).evt = s.evt := rfl
@[simp] theorem State.setBs_ras (s : State) (n : Nat) (k : Bs) : (s.setBs n k).ras = s.ras := rfl
@[simp] theorem State.setBs_tap (s : State) (n : Nat) (k : Bs) : (s.setBs n k).tap = s.tap := rfl
@[simp] theorem State.setBs_tst (s : State) (n : Nat) (k : Bs) : (s.setBs n k).tst = s.tst := rfl
@[simp] theorem State.setBs_pcie (s : State) (n : Nat) (k : Bs) : (s.setBs n k).pcie = s.pcie := rfl
@[simp] theorem State.setBs_wrg (s : State) (n : Nat) (k : Bs) : (s.setBs n k).wrg = s.wrg := rfl
@[simp] theorem State.setBs_outbox (s : State) (n : Nat) (k : Bs) : (s.setBs n k).outbox = s.outbox := rfl

/-! #### setPort -/

@[simp] theorem State.setPort_pending (s : State) (n : Nat) (k : Port) : (s.setPort n k).pending = s.pending := rfl
@[simp] theorem State.setPort_fuses (s : State) (n : Nat) (k : Port) : (s.setPort n k).fuses = s.fuses := rfl
@[simp] theorem State.setPort_regs (s : State) (n : Nat) (k : Port) : (s.setPort n k).regs = s.regs := rfl
@[simp] theorem State.setPort_latch (s : State) (n : Nat) (k : Port) : (s.setPort n k).latch = s.latch := rfl
@[simp] theorem State.setPort_us (s : State) (n : Nat) (k : Port) : (s.setPort n k).us = s.us := rfl
@[simp] theorem State.setPort_draws (s : State) (n : Nat) (k : Port) : (s.setPort n k).draws = s.draws := rfl
@[simp] theorem State.setPort_cores (s : State) (n : Nat) (k : Port) : (s.setPort n k).cores = s.cores := rfl
@[simp] theorem State.setPort_chans (s : State) (n : Nat) (k : Port) : (s.setPort n k).chans = s.chans := rfl
@[simp] theorem State.setPort_shm (s : State) (n : Nat) (k : Port) : (s.setPort n k).shm = s.shm := rfl
@[simp] theorem State.setPort_shmPatrol (s : State) (n : Nat) (k : Port) : (s.setPort n k).shmPatrol = s.shmPatrol := rfl
@[simp] theorem State.setPort_parts (s : State) (n : Nat) (k : Port) : (s.setPort n k).parts = s.parts := rfl
@[simp] theorem State.setPort_cmds (s : State) (n : Nat) (k : Port) : (s.setPort n k).cmds = s.cmds := rfl
@[simp] theorem State.setPort_orders (s : State) (n : Nat) (k : Port) : (s.setPort n k).orders = s.orders := rfl
@[simp] theorem State.setPort_ctxs (s : State) (n : Nat) (k : Port) : (s.setPort n k).ctxs = s.ctxs := rfl
@[simp] theorem State.setPort_spools (s : State) (n : Nat) (k : Port) : (s.setPort n k).spools = s.spools := rfl
@[simp] theorem State.setPort_seqs (s : State) (n : Nat) (k : Port) : (s.setPort n k).seqs = s.seqs := rfl
@[simp] theorem State.setPort_pages (s : State) (n : Nat) (k : Port) : (s.setPort n k).pages = s.pages := rfl
@[simp] theorem State.setPort_used (s : State) (n : Nat) (k : Port) : (s.setPort n k).used = s.used := rfl
@[simp] theorem State.setPort_models (s : State) (n : Nat) (k : Port) : (s.setPort n k).models = s.models := rfl
@[simp] theorem State.setPort_hostGran (s : State) (n : Nat) (k : Port) : (s.setPort n k).hostGran = s.hostGran := rfl
@[simp] theorem State.setPort_store (s : State) (n : Nat) (k : Port) : (s.setPort n k).store = s.store := rfl
@[simp] theorem State.setPort_passes (s : State) (n : Nat) (k : Port) : (s.setPort n k).passes = s.passes := rfl
@[simp] theorem State.setPort_passNo (s : State) (n : Nat) (k : Port) : (s.setPort n k).passNo = s.passNo := rfl
@[simp] theorem State.setPort_rings (s : State) (n : Nat) (k : Port) : (s.setPort n k).rings = s.rings := rfl
@[simp] theorem State.setPort_bs (s : State) (n : Nat) (k : Port) : (s.setPort n k).bs = s.bs := rfl
@[simp] theorem State.setPort_dram (s : State) (n : Nat) (k : Port) : (s.setPort n k).dram = s.dram := rfl
@[simp] theorem State.setPort_sec (s : State) (n : Nat) (k : Port) : (s.setPort n k).sec = s.sec := rfl
@[simp] theorem State.setPort_aon (s : State) (n : Nat) (k : Port) : (s.setPort n k).aon = s.aon := rfl
@[simp] theorem State.setPort_pwr (s : State) (n : Nat) (k : Port) : (s.setPort n k).pwr = s.pwr := rfl
@[simp] theorem State.setPort_colls (s : State) (n : Nat) (k : Port) : (s.setPort n k).colls = s.colls := rfl
@[simp] theorem State.setPort_evt (s : State) (n : Nat) (k : Port) : (s.setPort n k).evt = s.evt := rfl
@[simp] theorem State.setPort_ras (s : State) (n : Nat) (k : Port) : (s.setPort n k).ras = s.ras := rfl
@[simp] theorem State.setPort_tap (s : State) (n : Nat) (k : Port) : (s.setPort n k).tap = s.tap := rfl
@[simp] theorem State.setPort_tst (s : State) (n : Nat) (k : Port) : (s.setPort n k).tst = s.tst := rfl
@[simp] theorem State.setPort_pcie (s : State) (n : Nat) (k : Port) : (s.setPort n k).pcie = s.pcie := rfl
@[simp] theorem State.setPort_wrg (s : State) (n : Nat) (k : Port) : (s.setPort n k).wrg = s.wrg := rfl
@[simp] theorem State.setPort_outbox (s : State) (n : Nat) (k : Port) : (s.setPort n k).outbox = s.outbox := rfl

/-! #### setKeySlot -/

@[simp] theorem State.setKeySlot_pending (s : State) (n : Nat) (k : KeySlot) : (s.setKeySlot n k).pending = s.pending := rfl
@[simp] theorem State.setKeySlot_fuses (s : State) (n : Nat) (k : KeySlot) : (s.setKeySlot n k).fuses = s.fuses := rfl
@[simp] theorem State.setKeySlot_regs (s : State) (n : Nat) (k : KeySlot) : (s.setKeySlot n k).regs = s.regs := rfl
@[simp] theorem State.setKeySlot_latch (s : State) (n : Nat) (k : KeySlot) : (s.setKeySlot n k).latch = s.latch := rfl
@[simp] theorem State.setKeySlot_us (s : State) (n : Nat) (k : KeySlot) : (s.setKeySlot n k).us = s.us := rfl
@[simp] theorem State.setKeySlot_draws (s : State) (n : Nat) (k : KeySlot) : (s.setKeySlot n k).draws = s.draws := rfl
@[simp] theorem State.setKeySlot_cores (s : State) (n : Nat) (k : KeySlot) : (s.setKeySlot n k).cores = s.cores := rfl
@[simp] theorem State.setKeySlot_chans (s : State) (n : Nat) (k : KeySlot) : (s.setKeySlot n k).chans = s.chans := rfl
@[simp] theorem State.setKeySlot_shm (s : State) (n : Nat) (k : KeySlot) : (s.setKeySlot n k).shm = s.shm := rfl
@[simp] theorem State.setKeySlot_shmPatrol (s : State) (n : Nat) (k : KeySlot) : (s.setKeySlot n k).shmPatrol = s.shmPatrol := rfl
@[simp] theorem State.setKeySlot_parts (s : State) (n : Nat) (k : KeySlot) : (s.setKeySlot n k).parts = s.parts := rfl
@[simp] theorem State.setKeySlot_cmds (s : State) (n : Nat) (k : KeySlot) : (s.setKeySlot n k).cmds = s.cmds := rfl
@[simp] theorem State.setKeySlot_orders (s : State) (n : Nat) (k : KeySlot) : (s.setKeySlot n k).orders = s.orders := rfl
@[simp] theorem State.setKeySlot_ctxs (s : State) (n : Nat) (k : KeySlot) : (s.setKeySlot n k).ctxs = s.ctxs := rfl
@[simp] theorem State.setKeySlot_spools (s : State) (n : Nat) (k : KeySlot) : (s.setKeySlot n k).spools = s.spools := rfl
@[simp] theorem State.setKeySlot_seqs (s : State) (n : Nat) (k : KeySlot) : (s.setKeySlot n k).seqs = s.seqs := rfl
@[simp] theorem State.setKeySlot_pages (s : State) (n : Nat) (k : KeySlot) : (s.setKeySlot n k).pages = s.pages := rfl
@[simp] theorem State.setKeySlot_used (s : State) (n : Nat) (k : KeySlot) : (s.setKeySlot n k).used = s.used := rfl
@[simp] theorem State.setKeySlot_models (s : State) (n : Nat) (k : KeySlot) : (s.setKeySlot n k).models = s.models := rfl
@[simp] theorem State.setKeySlot_hostGran (s : State) (n : Nat) (k : KeySlot) : (s.setKeySlot n k).hostGran = s.hostGran := rfl
@[simp] theorem State.setKeySlot_store (s : State) (n : Nat) (k : KeySlot) : (s.setKeySlot n k).store = s.store := rfl
@[simp] theorem State.setKeySlot_passes (s : State) (n : Nat) (k : KeySlot) : (s.setKeySlot n k).passes = s.passes := rfl
@[simp] theorem State.setKeySlot_passNo (s : State) (n : Nat) (k : KeySlot) : (s.setKeySlot n k).passNo = s.passNo := rfl
@[simp] theorem State.setKeySlot_rings (s : State) (n : Nat) (k : KeySlot) : (s.setKeySlot n k).rings = s.rings := rfl
@[simp] theorem State.setKeySlot_bs (s : State) (n : Nat) (k : KeySlot) : (s.setKeySlot n k).bs = s.bs := rfl
@[simp] theorem State.setKeySlot_dram (s : State) (n : Nat) (k : KeySlot) : (s.setKeySlot n k).dram = s.dram := rfl
@[simp] theorem State.setKeySlot_aon (s : State) (n : Nat) (k : KeySlot) : (s.setKeySlot n k).aon = s.aon := rfl
@[simp] theorem State.setKeySlot_pwr (s : State) (n : Nat) (k : KeySlot) : (s.setKeySlot n k).pwr = s.pwr := rfl
@[simp] theorem State.setKeySlot_ports (s : State) (n : Nat) (k : KeySlot) : (s.setKeySlot n k).ports = s.ports := rfl
@[simp] theorem State.setKeySlot_colls (s : State) (n : Nat) (k : KeySlot) : (s.setKeySlot n k).colls = s.colls := rfl
@[simp] theorem State.setKeySlot_evt (s : State) (n : Nat) (k : KeySlot) : (s.setKeySlot n k).evt = s.evt := rfl
@[simp] theorem State.setKeySlot_ras (s : State) (n : Nat) (k : KeySlot) : (s.setKeySlot n k).ras = s.ras := rfl
@[simp] theorem State.setKeySlot_tap (s : State) (n : Nat) (k : KeySlot) : (s.setKeySlot n k).tap = s.tap := rfl
@[simp] theorem State.setKeySlot_tst (s : State) (n : Nat) (k : KeySlot) : (s.setKeySlot n k).tst = s.tst := rfl
@[simp] theorem State.setKeySlot_pcie (s : State) (n : Nat) (k : KeySlot) : (s.setKeySlot n k).pcie = s.pcie := rfl
@[simp] theorem State.setKeySlot_wrg (s : State) (n : Nat) (k : KeySlot) : (s.setKeySlot n k).wrg = s.wrg := rfl
@[simp] theorem State.setKeySlot_outbox (s : State) (n : Nat) (k : KeySlot) : (s.setKeySlot n k).outbox = s.outbox := rfl

/-! #### emit -/

@[simp] theorem State.emit_pending (s : State) (o : Out) : (s.emit o).pending = s.pending := rfl
@[simp] theorem State.emit_fuses (s : State) (o : Out) : (s.emit o).fuses = s.fuses := rfl
@[simp] theorem State.emit_regs (s : State) (o : Out) : (s.emit o).regs = s.regs := rfl
@[simp] theorem State.emit_latch (s : State) (o : Out) : (s.emit o).latch = s.latch := rfl
@[simp] theorem State.emit_us (s : State) (o : Out) : (s.emit o).us = s.us := rfl
@[simp] theorem State.emit_draws (s : State) (o : Out) : (s.emit o).draws = s.draws := rfl
@[simp] theorem State.emit_cores (s : State) (o : Out) : (s.emit o).cores = s.cores := rfl
@[simp] theorem State.emit_chans (s : State) (o : Out) : (s.emit o).chans = s.chans := rfl
@[simp] theorem State.emit_shm (s : State) (o : Out) : (s.emit o).shm = s.shm := rfl
@[simp] theorem State.emit_shmPatrol (s : State) (o : Out) : (s.emit o).shmPatrol = s.shmPatrol := rfl
@[simp] theorem State.emit_parts (s : State) (o : Out) : (s.emit o).parts = s.parts := rfl
@[simp] theorem State.emit_cmds (s : State) (o : Out) : (s.emit o).cmds = s.cmds := rfl
@[simp] theorem State.emit_orders (s : State) (o : Out) : (s.emit o).orders = s.orders := rfl
@[simp] theorem State.emit_ctxs (s : State) (o : Out) : (s.emit o).ctxs = s.ctxs := rfl
@[simp] theorem State.emit_spools (s : State) (o : Out) : (s.emit o).spools = s.spools := rfl
@[simp] theorem State.emit_seqs (s : State) (o : Out) : (s.emit o).seqs = s.seqs := rfl
@[simp] theorem State.emit_pages (s : State) (o : Out) : (s.emit o).pages = s.pages := rfl
@[simp] theorem State.emit_used (s : State) (o : Out) : (s.emit o).used = s.used := rfl
@[simp] theorem State.emit_models (s : State) (o : Out) : (s.emit o).models = s.models := rfl
@[simp] theorem State.emit_hostGran (s : State) (o : Out) : (s.emit o).hostGran = s.hostGran := rfl
@[simp] theorem State.emit_store (s : State) (o : Out) : (s.emit o).store = s.store := rfl
@[simp] theorem State.emit_passes (s : State) (o : Out) : (s.emit o).passes = s.passes := rfl
@[simp] theorem State.emit_passNo (s : State) (o : Out) : (s.emit o).passNo = s.passNo := rfl
@[simp] theorem State.emit_rings (s : State) (o : Out) : (s.emit o).rings = s.rings := rfl
@[simp] theorem State.emit_bs (s : State) (o : Out) : (s.emit o).bs = s.bs := rfl
@[simp] theorem State.emit_dram (s : State) (o : Out) : (s.emit o).dram = s.dram := rfl
@[simp] theorem State.emit_sec (s : State) (o : Out) : (s.emit o).sec = s.sec := rfl
@[simp] theorem State.emit_aon (s : State) (o : Out) : (s.emit o).aon = s.aon := rfl
@[simp] theorem State.emit_pwr (s : State) (o : Out) : (s.emit o).pwr = s.pwr := rfl
@[simp] theorem State.emit_ports (s : State) (o : Out) : (s.emit o).ports = s.ports := rfl
@[simp] theorem State.emit_colls (s : State) (o : Out) : (s.emit o).colls = s.colls := rfl
@[simp] theorem State.emit_evt (s : State) (o : Out) : (s.emit o).evt = s.evt := rfl
@[simp] theorem State.emit_ras (s : State) (o : Out) : (s.emit o).ras = s.ras := rfl
@[simp] theorem State.emit_tap (s : State) (o : Out) : (s.emit o).tap = s.tap := rfl
@[simp] theorem State.emit_tst (s : State) (o : Out) : (s.emit o).tst = s.tst := rfl
@[simp] theorem State.emit_pcie (s : State) (o : Out) : (s.emit o).pcie = s.pcie := rfl
@[simp] theorem State.emit_wrg (s : State) (o : Out) : (s.emit o).wrg = s.wrg := rfl

/-! #### setReg -/

@[simp] theorem State.setReg_pending (s : State) (off : Nat) (v : Word) : (s.setReg off v).pending = s.pending := rfl
@[simp] theorem State.setReg_fuses (s : State) (off : Nat) (v : Word) : (s.setReg off v).fuses = s.fuses := rfl
@[simp] theorem State.setReg_latch (s : State) (off : Nat) (v : Word) : (s.setReg off v).latch = s.latch := rfl
@[simp] theorem State.setReg_us (s : State) (off : Nat) (v : Word) : (s.setReg off v).us = s.us := rfl
@[simp] theorem State.setReg_draws (s : State) (off : Nat) (v : Word) : (s.setReg off v).draws = s.draws := rfl
@[simp] theorem State.setReg_cores (s : State) (off : Nat) (v : Word) : (s.setReg off v).cores = s.cores := rfl
@[simp] theorem State.setReg_chans (s : State) (off : Nat) (v : Word) : (s.setReg off v).chans = s.chans := rfl
@[simp] theorem State.setReg_shm (s : State) (off : Nat) (v : Word) : (s.setReg off v).shm = s.shm := rfl
@[simp] theorem State.setReg_shmPatrol (s : State) (off : Nat) (v : Word) : (s.setReg off v).shmPatrol = s.shmPatrol := rfl
@[simp] theorem State.setReg_parts (s : State) (off : Nat) (v : Word) : (s.setReg off v).parts = s.parts := rfl
@[simp] theorem State.setReg_cmds (s : State) (off : Nat) (v : Word) : (s.setReg off v).cmds = s.cmds := rfl
@[simp] theorem State.setReg_orders (s : State) (off : Nat) (v : Word) : (s.setReg off v).orders = s.orders := rfl
@[simp] theorem State.setReg_ctxs (s : State) (off : Nat) (v : Word) : (s.setReg off v).ctxs = s.ctxs := rfl
@[simp] theorem State.setReg_spools (s : State) (off : Nat) (v : Word) : (s.setReg off v).spools = s.spools := rfl
@[simp] theorem State.setReg_seqs (s : State) (off : Nat) (v : Word) : (s.setReg off v).seqs = s.seqs := rfl
@[simp] theorem State.setReg_pages (s : State) (off : Nat) (v : Word) : (s.setReg off v).pages = s.pages := rfl
@[simp] theorem State.setReg_used (s : State) (off : Nat) (v : Word) : (s.setReg off v).used = s.used := rfl
@[simp] theorem State.setReg_models (s : State) (off : Nat) (v : Word) : (s.setReg off v).models = s.models := rfl
@[simp] theorem State.setReg_hostGran (s : State) (off : Nat) (v : Word) : (s.setReg off v).hostGran = s.hostGran := rfl
@[simp] theorem State.setReg_store (s : State) (off : Nat) (v : Word) : (s.setReg off v).store = s.store := rfl
@[simp] theorem State.setReg_passes (s : State) (off : Nat) (v : Word) : (s.setReg off v).passes = s.passes := rfl
@[simp] theorem State.setReg_passNo (s : State) (off : Nat) (v : Word) : (s.setReg off v).passNo = s.passNo := rfl
@[simp] theorem State.setReg_rings (s : State) (off : Nat) (v : Word) : (s.setReg off v).rings = s.rings := rfl
@[simp] theorem State.setReg_bs (s : State) (off : Nat) (v : Word) : (s.setReg off v).bs = s.bs := rfl
@[simp] theorem State.setReg_dram (s : State) (off : Nat) (v : Word) : (s.setReg off v).dram = s.dram := rfl
@[simp] theorem State.setReg_sec (s : State) (off : Nat) (v : Word) : (s.setReg off v).sec = s.sec := rfl
@[simp] theorem State.setReg_aon (s : State) (off : Nat) (v : Word) : (s.setReg off v).aon = s.aon := rfl
@[simp] theorem State.setReg_pwr (s : State) (off : Nat) (v : Word) : (s.setReg off v).pwr = s.pwr := rfl
@[simp] theorem State.setReg_ports (s : State) (off : Nat) (v : Word) : (s.setReg off v).ports = s.ports := rfl
@[simp] theorem State.setReg_colls (s : State) (off : Nat) (v : Word) : (s.setReg off v).colls = s.colls := rfl
@[simp] theorem State.setReg_evt (s : State) (off : Nat) (v : Word) : (s.setReg off v).evt = s.evt := rfl
@[simp] theorem State.setReg_ras (s : State) (off : Nat) (v : Word) : (s.setReg off v).ras = s.ras := rfl
@[simp] theorem State.setReg_tap (s : State) (off : Nat) (v : Word) : (s.setReg off v).tap = s.tap := rfl
@[simp] theorem State.setReg_tst (s : State) (off : Nat) (v : Word) : (s.setReg off v).tst = s.tst := rfl
@[simp] theorem State.setReg_pcie (s : State) (off : Nat) (v : Word) : (s.setReg off v).pcie = s.pcie := rfl
@[simp] theorem State.setReg_wrg (s : State) (off : Nat) (v : Word) : (s.setReg off v).wrg = s.wrg := rfl
@[simp] theorem State.setReg_outbox (s : State) (off : Nat) (v : Word) : (s.setReg off v).outbox = s.outbox := rfl

/-! #### setLatch -/

@[simp] theorem State.setLatch_pending (s : State) (off : Nat) (v : Word) : (s.setLatch off v).pending = s.pending := rfl
@[simp] theorem State.setLatch_fuses (s : State) (off : Nat) (v : Word) : (s.setLatch off v).fuses = s.fuses := rfl
@[simp] theorem State.setLatch_regs (s : State) (off : Nat) (v : Word) : (s.setLatch off v).regs = s.regs := rfl
@[simp] theorem State.setLatch_us (s : State) (off : Nat) (v : Word) : (s.setLatch off v).us = s.us := rfl
@[simp] theorem State.setLatch_draws (s : State) (off : Nat) (v : Word) : (s.setLatch off v).draws = s.draws := rfl
@[simp] theorem State.setLatch_cores (s : State) (off : Nat) (v : Word) : (s.setLatch off v).cores = s.cores := rfl
@[simp] theorem State.setLatch_chans (s : State) (off : Nat) (v : Word) : (s.setLatch off v).chans = s.chans := rfl
@[simp] theorem State.setLatch_shm (s : State) (off : Nat) (v : Word) : (s.setLatch off v).shm = s.shm := rfl
@[simp] theorem State.setLatch_shmPatrol (s : State) (off : Nat) (v : Word) : (s.setLatch off v).shmPatrol = s.shmPatrol := rfl
@[simp] theorem State.setLatch_parts (s : State) (off : Nat) (v : Word) : (s.setLatch off v).parts = s.parts := rfl
@[simp] theorem State.setLatch_cmds (s : State) (off : Nat) (v : Word) : (s.setLatch off v).cmds = s.cmds := rfl
@[simp] theorem State.setLatch_orders (s : State) (off : Nat) (v : Word) : (s.setLatch off v).orders = s.orders := rfl
@[simp] theorem State.setLatch_ctxs (s : State) (off : Nat) (v : Word) : (s.setLatch off v).ctxs = s.ctxs := rfl
@[simp] theorem State.setLatch_spools (s : State) (off : Nat) (v : Word) : (s.setLatch off v).spools = s.spools := rfl
@[simp] theorem State.setLatch_seqs (s : State) (off : Nat) (v : Word) : (s.setLatch off v).seqs = s.seqs := rfl
@[simp] theorem State.setLatch_pages (s : State) (off : Nat) (v : Word) : (s.setLatch off v).pages = s.pages := rfl
@[simp] theorem State.setLatch_used (s : State) (off : Nat) (v : Word) : (s.setLatch off v).used = s.used := rfl
@[simp] theorem State.setLatch_models (s : State) (off : Nat) (v : Word) : (s.setLatch off v).models = s.models := rfl
@[simp] theorem State.setLatch_hostGran (s : State) (off : Nat) (v : Word) : (s.setLatch off v).hostGran = s.hostGran := rfl
@[simp] theorem State.setLatch_store (s : State) (off : Nat) (v : Word) : (s.setLatch off v).store = s.store := rfl
@[simp] theorem State.setLatch_passes (s : State) (off : Nat) (v : Word) : (s.setLatch off v).passes = s.passes := rfl
@[simp] theorem State.setLatch_passNo (s : State) (off : Nat) (v : Word) : (s.setLatch off v).passNo = s.passNo := rfl
@[simp] theorem State.setLatch_rings (s : State) (off : Nat) (v : Word) : (s.setLatch off v).rings = s.rings := rfl
@[simp] theorem State.setLatch_bs (s : State) (off : Nat) (v : Word) : (s.setLatch off v).bs = s.bs := rfl
@[simp] theorem State.setLatch_dram (s : State) (off : Nat) (v : Word) : (s.setLatch off v).dram = s.dram := rfl
@[simp] theorem State.setLatch_sec (s : State) (off : Nat) (v : Word) : (s.setLatch off v).sec = s.sec := rfl
@[simp] theorem State.setLatch_aon (s : State) (off : Nat) (v : Word) : (s.setLatch off v).aon = s.aon := rfl
@[simp] theorem State.setLatch_pwr (s : State) (off : Nat) (v : Word) : (s.setLatch off v).pwr = s.pwr := rfl
@[simp] theorem State.setLatch_ports (s : State) (off : Nat) (v : Word) : (s.setLatch off v).ports = s.ports := rfl
@[simp] theorem State.setLatch_colls (s : State) (off : Nat) (v : Word) : (s.setLatch off v).colls = s.colls := rfl
@[simp] theorem State.setLatch_evt (s : State) (off : Nat) (v : Word) : (s.setLatch off v).evt = s.evt := rfl
@[simp] theorem State.setLatch_ras (s : State) (off : Nat) (v : Word) : (s.setLatch off v).ras = s.ras := rfl
@[simp] theorem State.setLatch_tap (s : State) (off : Nat) (v : Word) : (s.setLatch off v).tap = s.tap := rfl
@[simp] theorem State.setLatch_tst (s : State) (off : Nat) (v : Word) : (s.setLatch off v).tst = s.tst := rfl
@[simp] theorem State.setLatch_pcie (s : State) (off : Nat) (v : Word) : (s.setLatch off v).pcie = s.pcie := rfl
@[simp] theorem State.setLatch_wrg (s : State) (off : Nat) (v : Word) : (s.setLatch off v).wrg = s.wrg := rfl
@[simp] theorem State.setLatch_outbox (s : State) (off : Nat) (v : Word) : (s.setLatch off v).outbox = s.outbox := rfl

/-! #### bump -/

@[simp] theorem State.bump_pending (s : State) (off lo n add : Nat) : (s.bump off lo n add).pending = s.pending := rfl
@[simp] theorem State.bump_fuses (s : State) (off lo n add : Nat) : (s.bump off lo n add).fuses = s.fuses := rfl
@[simp] theorem State.bump_latch (s : State) (off lo n add : Nat) : (s.bump off lo n add).latch = s.latch := rfl
@[simp] theorem State.bump_us (s : State) (off lo n add : Nat) : (s.bump off lo n add).us = s.us := rfl
@[simp] theorem State.bump_draws (s : State) (off lo n add : Nat) : (s.bump off lo n add).draws = s.draws := rfl
@[simp] theorem State.bump_cores (s : State) (off lo n add : Nat) : (s.bump off lo n add).cores = s.cores := rfl
@[simp] theorem State.bump_chans (s : State) (off lo n add : Nat) : (s.bump off lo n add).chans = s.chans := rfl
@[simp] theorem State.bump_shm (s : State) (off lo n add : Nat) : (s.bump off lo n add).shm = s.shm := rfl
@[simp] theorem State.bump_shmPatrol (s : State) (off lo n add : Nat) : (s.bump off lo n add).shmPatrol = s.shmPatrol := rfl
@[simp] theorem State.bump_parts (s : State) (off lo n add : Nat) : (s.bump off lo n add).parts = s.parts := rfl
@[simp] theorem State.bump_cmds (s : State) (off lo n add : Nat) : (s.bump off lo n add).cmds = s.cmds := rfl
@[simp] theorem State.bump_orders (s : State) (off lo n add : Nat) : (s.bump off lo n add).orders = s.orders := rfl
@[simp] theorem State.bump_ctxs (s : State) (off lo n add : Nat) : (s.bump off lo n add).ctxs = s.ctxs := rfl
@[simp] theorem State.bump_spools (s : State) (off lo n add : Nat) : (s.bump off lo n add).spools = s.spools := rfl
@[simp] theorem State.bump_seqs (s : State) (off lo n add : Nat) : (s.bump off lo n add).seqs = s.seqs := rfl
@[simp] theorem State.bump_pages (s : State) (off lo n add : Nat) : (s.bump off lo n add).pages = s.pages := rfl
@[simp] theorem State.bump_used (s : State) (off lo n add : Nat) : (s.bump off lo n add).used = s.used := rfl
@[simp] theorem State.bump_models (s : State) (off lo n add : Nat) : (s.bump off lo n add).models = s.models := rfl
@[simp] theorem State.bump_hostGran (s : State) (off lo n add : Nat) : (s.bump off lo n add).hostGran = s.hostGran := rfl
@[simp] theorem State.bump_store (s : State) (off lo n add : Nat) : (s.bump off lo n add).store = s.store := rfl
@[simp] theorem State.bump_passes (s : State) (off lo n add : Nat) : (s.bump off lo n add).passes = s.passes := rfl
@[simp] theorem State.bump_passNo (s : State) (off lo n add : Nat) : (s.bump off lo n add).passNo = s.passNo := rfl
@[simp] theorem State.bump_rings (s : State) (off lo n add : Nat) : (s.bump off lo n add).rings = s.rings := rfl
@[simp] theorem State.bump_bs (s : State) (off lo n add : Nat) : (s.bump off lo n add).bs = s.bs := rfl
@[simp] theorem State.bump_dram (s : State) (off lo n add : Nat) : (s.bump off lo n add).dram = s.dram := rfl
@[simp] theorem State.bump_sec (s : State) (off lo n add : Nat) : (s.bump off lo n add).sec = s.sec := rfl
@[simp] theorem State.bump_aon (s : State) (off lo n add : Nat) : (s.bump off lo n add).aon = s.aon := rfl
@[simp] theorem State.bump_pwr (s : State) (off lo n add : Nat) : (s.bump off lo n add).pwr = s.pwr := rfl
@[simp] theorem State.bump_ports (s : State) (off lo n add : Nat) : (s.bump off lo n add).ports = s.ports := rfl
@[simp] theorem State.bump_colls (s : State) (off lo n add : Nat) : (s.bump off lo n add).colls = s.colls := rfl
@[simp] theorem State.bump_evt (s : State) (off lo n add : Nat) : (s.bump off lo n add).evt = s.evt := rfl
@[simp] theorem State.bump_ras (s : State) (off lo n add : Nat) : (s.bump off lo n add).ras = s.ras := rfl
@[simp] theorem State.bump_tap (s : State) (off lo n add : Nat) : (s.bump off lo n add).tap = s.tap := rfl
@[simp] theorem State.bump_tst (s : State) (off lo n add : Nat) : (s.bump off lo n add).tst = s.tst := rfl
@[simp] theorem State.bump_pcie (s : State) (off lo n add : Nat) : (s.bump off lo n add).pcie = s.pcie := rfl
@[simp] theorem State.bump_wrg (s : State) (off lo n add : Nat) : (s.bump off lo n add).wrg = s.wrg := rfl
@[simp] theorem State.bump_outbox (s : State) (off lo n add : Nat) : (s.bump off lo n add).outbox = s.outbox := rfl

/-! #### modCmd -/

@[simp] theorem State.modCmd_pending (s : State) (r : CmdRef) (f : Cmd → Cmd) : (s.modCmd r f).pending = s.pending := rfl
@[simp] theorem State.modCmd_fuses (s : State) (r : CmdRef) (f : Cmd → Cmd) : (s.modCmd r f).fuses = s.fuses := rfl
@[simp] theorem State.modCmd_regs (s : State) (r : CmdRef) (f : Cmd → Cmd) : (s.modCmd r f).regs = s.regs := rfl
@[simp] theorem State.modCmd_latch (s : State) (r : CmdRef) (f : Cmd → Cmd) : (s.modCmd r f).latch = s.latch := rfl
@[simp] theorem State.modCmd_us (s : State) (r : CmdRef) (f : Cmd → Cmd) : (s.modCmd r f).us = s.us := rfl
@[simp] theorem State.modCmd_draws (s : State) (r : CmdRef) (f : Cmd → Cmd) : (s.modCmd r f).draws = s.draws := rfl
@[simp] theorem State.modCmd_cores (s : State) (r : CmdRef) (f : Cmd → Cmd) : (s.modCmd r f).cores = s.cores := rfl
@[simp] theorem State.modCmd_chans (s : State) (r : CmdRef) (f : Cmd → Cmd) : (s.modCmd r f).chans = s.chans := rfl
@[simp] theorem State.modCmd_shm (s : State) (r : CmdRef) (f : Cmd → Cmd) : (s.modCmd r f).shm = s.shm := rfl
@[simp] theorem State.modCmd_shmPatrol (s : State) (r : CmdRef) (f : Cmd → Cmd) : (s.modCmd r f).shmPatrol = s.shmPatrol := rfl
@[simp] theorem State.modCmd_parts (s : State) (r : CmdRef) (f : Cmd → Cmd) : (s.modCmd r f).parts = s.parts := rfl
@[simp] theorem State.modCmd_orders (s : State) (r : CmdRef) (f : Cmd → Cmd) : (s.modCmd r f).orders = s.orders := rfl
@[simp] theorem State.modCmd_ctxs (s : State) (r : CmdRef) (f : Cmd → Cmd) : (s.modCmd r f).ctxs = s.ctxs := rfl
@[simp] theorem State.modCmd_spools (s : State) (r : CmdRef) (f : Cmd → Cmd) : (s.modCmd r f).spools = s.spools := rfl
@[simp] theorem State.modCmd_seqs (s : State) (r : CmdRef) (f : Cmd → Cmd) : (s.modCmd r f).seqs = s.seqs := rfl
@[simp] theorem State.modCmd_pages (s : State) (r : CmdRef) (f : Cmd → Cmd) : (s.modCmd r f).pages = s.pages := rfl
@[simp] theorem State.modCmd_used (s : State) (r : CmdRef) (f : Cmd → Cmd) : (s.modCmd r f).used = s.used := rfl
@[simp] theorem State.modCmd_models (s : State) (r : CmdRef) (f : Cmd → Cmd) : (s.modCmd r f).models = s.models := rfl
@[simp] theorem State.modCmd_hostGran (s : State) (r : CmdRef) (f : Cmd → Cmd) : (s.modCmd r f).hostGran = s.hostGran := rfl
@[simp] theorem State.modCmd_store (s : State) (r : CmdRef) (f : Cmd → Cmd) : (s.modCmd r f).store = s.store := rfl
@[simp] theorem State.modCmd_passes (s : State) (r : CmdRef) (f : Cmd → Cmd) : (s.modCmd r f).passes = s.passes := rfl
@[simp] theorem State.modCmd_passNo (s : State) (r : CmdRef) (f : Cmd → Cmd) : (s.modCmd r f).passNo = s.passNo := rfl
@[simp] theorem State.modCmd_rings (s : State) (r : CmdRef) (f : Cmd → Cmd) : (s.modCmd r f).rings = s.rings := rfl
@[simp] theorem State.modCmd_bs (s : State) (r : CmdRef) (f : Cmd → Cmd) : (s.modCmd r f).bs = s.bs := rfl
@[simp] theorem State.modCmd_dram (s : State) (r : CmdRef) (f : Cmd → Cmd) : (s.modCmd r f).dram = s.dram := rfl
@[simp] theorem State.modCmd_sec (s : State) (r : CmdRef) (f : Cmd → Cmd) : (s.modCmd r f).sec = s.sec := rfl
@[simp] theorem State.modCmd_aon (s : State) (r : CmdRef) (f : Cmd → Cmd) : (s.modCmd r f).aon = s.aon := rfl
@[simp] theorem State.modCmd_pwr (s : State) (r : CmdRef) (f : Cmd → Cmd) : (s.modCmd r f).pwr = s.pwr := rfl
@[simp] theorem State.modCmd_ports (s : State) (r : CmdRef) (f : Cmd → Cmd) : (s.modCmd r f).ports = s.ports := rfl
@[simp] theorem State.modCmd_colls (s : State) (r : CmdRef) (f : Cmd → Cmd) : (s.modCmd r f).colls = s.colls := rfl
@[simp] theorem State.modCmd_evt (s : State) (r : CmdRef) (f : Cmd → Cmd) : (s.modCmd r f).evt = s.evt := rfl
@[simp] theorem State.modCmd_ras (s : State) (r : CmdRef) (f : Cmd → Cmd) : (s.modCmd r f).ras = s.ras := rfl
@[simp] theorem State.modCmd_tap (s : State) (r : CmdRef) (f : Cmd → Cmd) : (s.modCmd r f).tap = s.tap := rfl
@[simp] theorem State.modCmd_tst (s : State) (r : CmdRef) (f : Cmd → Cmd) : (s.modCmd r f).tst = s.tst := rfl
@[simp] theorem State.modCmd_pcie (s : State) (r : CmdRef) (f : Cmd → Cmd) : (s.modCmd r f).pcie = s.pcie := rfl
@[simp] theorem State.modCmd_wrg (s : State) (r : CmdRef) (f : Cmd → Cmd) : (s.modCmd r f).wrg = s.wrg := rfl
@[simp] theorem State.modCmd_outbox (s : State) (r : CmdRef) (f : Cmd → Cmd) : (s.modCmd r f).outbox = s.outbox := rfl

/-! ### Reading what was written -/

@[simp] theorem State.core_setCore_same (s : State) (n : Nat) (k : Core) : (s.setCore n k).core n = k :=
  nget_nset_same _ _ _ _
theorem State.core_setCore_other (s : State) {n m : Nat} (k : Core) (h : m ≠ n) : (s.setCore n k).core m = s.core m :=
  nget_nset_other _ _ _ h
@[simp] theorem State.setCore_twice (s : State) (n : Nat) (k j : Core) : (s.setCore n k).setCore n j = s.setCore n j := by
  simp [State.setCore, nset_twice]

@[simp] theorem State.chan_setChan_same (s : State) (n : Nat) (k : Chan) : (s.setChan n k).chan n = k :=
  nget_nset_same _ _ _ _
theorem State.chan_setChan_other (s : State) {n m : Nat} (k : Chan) (h : m ≠ n) : (s.setChan n k).chan m = s.chan m :=
  nget_nset_other _ _ _ h
@[simp] theorem State.setChan_twice (s : State) (n : Nat) (k j : Chan) : (s.setChan n k).setChan n j = s.setChan n j := by
  simp [State.setChan, nset_twice]

@[simp] theorem State.part_setPart_same (s : State) (n : Nat) (k : Part) : (s.setPart n k).part n = k :=
  nget_nset_same _ _ _ _
theorem State.part_setPart_other (s : State) {n m : Nat} (k : Part) (h : m ≠ n) : (s.setPart n k).part m = s.part m :=
  nget_nset_other _ _ _ h
@[simp] theorem State.setPart_twice (s : State) (n : Nat) (k j : Part) : (s.setPart n k).setPart n j = s.setPart n j := by
  simp [State.setPart, nset_twice]

@[simp] theorem State.ctx_setCtx_same (s : State) (n : Nat) (k : Ctx) : (s.setCtx n k).ctx n = k :=
  nget_nset_same _ _ _ _
theorem State.ctx_setCtx_other (s : State) {n m : Nat} (k : Ctx) (h : m ≠ n) : (s.setCtx n k).ctx m = s.ctx m :=
  nget_nset_other _ _ _ h
@[simp] theorem State.setCtx_twice (s : State) (n : Nat) (k j : Ctx) : (s.setCtx n k).setCtx n j = s.setCtx n j := by
  simp [State.setCtx, nset_twice]

@[simp] theorem State.seq_setSeq_same (s : State) (n : Nat) (k : Seq) : (s.setSeq n k).seq n = k :=
  nget_nset_same _ _ _ _
theorem State.seq_setSeq_other (s : State) {n m : Nat} (k : Seq) (h : m ≠ n) : (s.setSeq n k).seq m = s.seq m :=
  nget_nset_other _ _ _ h
@[simp] theorem State.setSeq_twice (s : State) (n : Nat) (k j : Seq) : (s.setSeq n k).setSeq n j = s.setSeq n j := by
  simp [State.setSeq, nset_twice]

@[simp] theorem State.model_setModel_same (s : State) (n : Nat) (k : Model) : (s.setModel n k).model n = k :=
  nget_nset_same _ _ _ _
theorem State.model_setModel_other (s : State) {n m : Nat} (k : Model) (h : m ≠ n) : (s.setModel n k).model m = s.model m :=
  nget_nset_other _ _ _ h
@[simp] theorem State.setModel_twice (s : State) (n : Nat) (k j : Model) : (s.setModel n k).setModel n j = s.setModel n j := by
  simp [State.setModel, nset_twice]

@[simp] theorem State.bsSlot_setBs_same (s : State) (n : Nat) (k : Bs) : (s.setBs n k).bsSlot n = k :=
  nget_nset_same _ _ _ _
theorem State.bsSlot_setBs_other (s : State) {n m : Nat} (k : Bs) (h : m ≠ n) : (s.setBs n k).bsSlot m = s.bsSlot m :=
  nget_nset_other _ _ _ h
@[simp] theorem State.setBs_twice (s : State) (n : Nat) (k j : Bs) : (s.setBs n k).setBs n j = s.setBs n j := by
  simp [State.setBs, nset_twice]

@[simp] theorem State.port_setPort_same (s : State) (n : Nat) (k : Port) : (s.setPort n k).port n = k :=
  nget_nset_same _ _ _ _
theorem State.port_setPort_other (s : State) {n m : Nat} (k : Port) (h : m ≠ n) : (s.setPort n k).port m = s.port m :=
  nget_nset_other _ _ _ h
@[simp] theorem State.setPort_twice (s : State) (n : Nat) (k j : Port) : (s.setPort n k).setPort n j = s.setPort n j := by
  simp [State.setPort, nset_twice]

@[simp] theorem State.keySlot_setKeySlot_same (s : State) (n : Nat) (k : KeySlot) : (s.setKeySlot n k).keySlot n = k :=
  nget_nset_same _ _ _ _
theorem State.keySlot_setKeySlot_other (s : State) {n m : Nat} (k : KeySlot) (h : m ≠ n) : (s.setKeySlot n k).keySlot m = s.keySlot m :=
  nget_nset_other _ _ _ h
@[simp] theorem State.setKeySlot_twice (s : State) (n : Nat) (k j : KeySlot) : (s.setKeySlot n k).setKeySlot n j = s.setKeySlot n j := by
  simp [State.setKeySlot, nset_twice]

@[simp] theorem State.reg_setReg_same (s : State) (off : Nat) (v : Word) : (s.setReg off v).reg off = v :=
  nget_nset_same _ _ _ _
theorem State.reg_setReg_other (s : State) {off j : Nat} (v : Word) (h : j ≠ off) : (s.setReg off v).reg j = s.reg j := by
  unfold State.reg State.setReg
  exact nget_nset_elsewhere _ _ _ _ h
@[simp] theorem State.latched_setLatch_same (s : State) (off : Nat) (v : Word) : (s.setLatch off v).latched off = v :=
  nget_nset_same _ _ _ _
theorem State.latched_setLatch_other (s : State) {off j : Nat} (v : Word) (h : j ≠ off) :
    (s.setLatch off v).latched j = s.latched j := by
  exact nget_nset_elsewhere _ _ _ _ h
theorem State.modCore_eq (s : State) (n : Nat) (f : Core → Core) : s.modCore n f = s.setCore n (f (s.core n)) := rfl
@[simp] theorem State.outbox_emit (s : State) (o : Out) : (s.emit o).outbox = o :: s.outbox := rfl

end Sys2Proof.Machine
end

