-- ==== Sys2Proof/Laws/Core.lean ====
section
/-! SUPPORT. The shared operations on a core: registers, tacks, units, the front end's step, and reads and writes of its
memories. -/

namespace Sys2Proof.Machine

open Safety

/-- A write of a g register is one update of the register file. -/
theorem Core.setG_eq (k : Core) (g : BitVec 5) (v : DWord) : k.setG g v = { k with g := gWrite k g v } := by
  unfold Core.setG gWrite
  split <;> rfl

/-- What a g register reads after a write. -/
theorem Core.gr_setG (k : Core) (g h : BitVec 5) (v : DWord) :
    (k.setG g v).gr h = if h = 0 then 0 else if h = g then v else k.gr h := by
  by_cases h0 : h = 0
  · simp only [Core.gr, h0, if_true]
  · by_cases hg : g = 0
    · have : h ≠ g := by rw [hg]; exact h0
      simp only [Core.setG, hg, if_true, Core.gr, h0, if_false]
    · simp only [Core.setG, hg, if_false, Core.gr, h0]
      by_cases e : h = g
      · subst e; simp
      · have ne : h.toNat ≠ g.toNat := fun x => e (BitVec.eq_of_toNat_eq x)
        simp only [e, if_false]
        exact nget_nset_other _ _ _ ne

/-- A tack after TSET. -/
theorem Core.tack_setTack (k : Core) (t j : BitVec 6) : (k.setTack t).tack j = (decide (j = t) || k.tack j) := by
  have h : (tackBit t).getLsbD j.toNat = decide (j = t) := by
    unfold tackBit
    have hj := j.isLt
    have ht := t.isLt
    by_cases e : j = t
    · subst e; simp [BitVec.getLsbD_shiftLeft]; omega
    · have ne : j.toNat ≠ t.toNat := fun x => e (BitVec.eq_of_toNat_eq x)
      simp [BitVec.getLsbD_shiftLeft, e]
      omega
  simp only [Core.tack, Core.setTack, BitVec.getLsbD_or, h]
  cases decide (j = 0) <;> cases k.tacks.getLsbD j.toNat <;> cases decide (j = t) <;> rfl

/-- A tack after TCLR: tk0 stays set. -/
theorem Core.tack_clrTack (k : Core) (t j : BitVec 6) :
    (k.clrTack t).tack j = (decide (j = 0) || (!decide (j = t) && k.tack j)) := by
  by_cases h0 : t = 0
  · subst h0
    simp only [Core.clrTack, if_true, Core.tack]
    cases decide (j = 0) <;> cases k.tacks.getLsbD j.toNat <;> rfl
  · have h : (tackBit t).getLsbD j.toNat = decide (j = t) := by
      unfold tackBit
      have hj := j.isLt
      have ht := t.isLt
      by_cases e : j = t
      · subst e; simp [BitVec.getLsbD_shiftLeft]; omega
      · have ne : j.toNat ≠ t.toNat := fun x => e (BitVec.eq_of_toNat_eq x)
        simp [BitVec.getLsbD_shiftLeft, e]
        omega
    have hj := j.isLt
    simp only [Core.clrTack, h0, if_false, Core.tack, BitVec.getLsbD_and, BitVec.getLsbD_not, h, hj, decide_true, Bool.true_and]
    by_cases e0 : j = 0
    · simp [e0]
    · cases k.tacks.getLsbD j.toNat <;> cases decide (j = t) <;> simp

theorem Core.tack_consume (k : Core) (b : Bool) (t j : BitVec 6) :
    (k.consume b t).tack j = (decide (j = 0) || (!(b && decide (j = t)) && k.tack j)) := by
  cases b
  · simp only [Core.consume, Bool.false_and, Bool.not_false, Bool.true_and, Core.tack]
    by_cases e : j = 0 <;> simp [e]
  · simp only [Core.consume, if_true, Bool.true_and]
    exact k.tack_clrTack t j

/-- The front end's step on an instruction that it handles is the effect of that instruction. -/
theorem State.frontStep_handles (s : State) (c : BitVec 4) (i : CoreInstr) (act : Core → CoreInstr → Option State)
    (h : handles s c i) : s.frontStep c.toNat act = (act (s.core c.toNat) i).getD s := by
  obtain ⟨h1, h2, h3⟩ := h
  simp [State.frontStep, h1, h2, h3]

/-- A read of a range without errors or poison finds nothing and changes nothing. -/
theorem State.touch_clean (s : State) (m : MemSel) (a len : Nat) (h : cleanRange (s.ram m) a len) : s.touch m a len = (s, .clean) := by
  obtain ⟨h1, h2⟩ := h
  have hf : (s.ram m).ecc.filter (fun e => decide (0 < len) && decide (a / 8 ≤ e.1) && decide (e.1 ≤ (a + len - 1) / 8)) = [] := by
    rw [List.filter_eq_nil_iff]
    intro e he hp
    simp at hp
    exact h1 e he ⟨hp.1.2, hp.2⟩
  have hu : anyIn (s.ram m).ecc a len (fun e => e = .ue) = false := by
    unfold anyIn
    rw [Bool.and_eq_false_iff]
    right
    rw [List.any_eq_false]
    intro e he hp
    simp at hp
    exact h1 e he ⟨hp.1.1, hp.1.2⟩
  simp [State.touch, hf, hu, h2]

/-- A byte of the little-endian bytes of a number. -/
theorem toLE_getD (n v i : Nat) (h : i < n) : (toLE n v).getD i 0 = BitVec.ofNat 8 (v / 256 ^ i) := by
  induction n generalizing v i with
  | zero => omega
  | succ n ih =>
    cases i with
    | zero => simp [toLE]
    | succ i =>
      simp only [toLE, List.getD_cons_succ]
      rw [ih (v / 256) i (by omega), Nat.div_div_eq_div_mul, Nat.pow_succ, Nat.mul_comm]

@[simp] theorem toLE_length (n v : Nat) : (toLE n v).length = n := by
  induction n generalizing v with
  | zero => rfl
  | succ n ih => simp [toLE, ih]

end Sys2Proof.Machine
end

