-- ==== Sys2Proof/Laws/Fixed.lean ====
section
/-! SUPPORT. What no operation of the model changes: the part's fuses (R4, R23 to R25), the elapsed time, which passes only on an
empty queue, and the queue of waiting commands. One lemma for each operation over the state, in the order of the files. -/

namespace Sys2Proof.Machine

set_option maxRecDepth 4000

/-- The fields that every operation leaves as they stand. -/
def State.fixed (s : State) : Fuses × Nat × List Instr := (s.fuses, s.us, s.pending)

@[simp] theorem State.mk_fixed x_pending x_fuses x_regs x_latch x_us x_draws x_cores x_chans x_shm x_shmPatrol x_parts x_cmds x_orders x_ctxs x_spools x_seqs x_pages x_used x_models x_hostGran x_store x_passes x_passNo x_rings x_bs x_dram x_sec x_aon x_pwr x_ports x_colls x_evt x_ras x_tap x_tst x_pcie x_wrg x_outbox :
    (State.mk x_pending x_fuses x_regs x_latch x_us x_draws x_cores x_chans x_shm x_shmPatrol x_parts x_cmds x_orders x_ctxs x_spools x_seqs x_pages x_used x_models x_hostGran x_store x_passes x_passNo x_rings x_bs x_dram x_sec x_aon x_pwr x_ports x_colls x_evt x_ras x_tap x_tst x_pcie x_wrg x_outbox).fixed = (x_fuses, x_us, x_pending) := rfl

@[simp] theorem State.fixed_eta (s : State) : (s.fuses, s.us, s.pending) = s.fixed := rfl

@[simp] theorem ite_fixed (c : Prop) [Decidable c] (a b : State) : (if c then a else b).fixed = if c then a.fixed else b.fixed := by
  split <;> rfl

@[simp] theorem foldr_fixed {α : Type} (f : α → State → State) (h : ∀ a s, (f a s).fixed = s.fixed) (l : List α) (s : State) :
    (l.foldr f s).fixed = s.fixed := by
  induction l with
  | nil => rfl
  | cons a t ih => simp [ih, h]

@[simp] theorem ite_getD (c : Prop) [Decidable c] (a b : Option State) (s : State) :
    (if c then a else b).getD s = if c then a.getD s else b.getD s := by split <;> rfl

theorem accFold_fixed {α β : Type} (p : β → State) (f : β → α → β) (h : ∀ b a, (p (f b a)).fixed = (p b).fixed) (l : List α) (b : β) :
    (p (l.foldl f b)).fixed = (p b).fixed := by
  induction l generalizing b with
  | nil => rfl
  | cons a t ih => simp [ih, h]

theorem pairFold_fixed {α β : Type} (f : State × β → α → State × β) (h : ∀ b a, (f b a).1.fixed = b.1.fixed) (l : List α)
    (b : State × β) : (l.foldl f b).1.fixed = b.1.fixed := accFold_fixed Prod.fst f h l b

@[simp] theorem foldl_fixed {α : Type} (f : State → α → State) (h : ∀ s a, (f s a).fixed = s.fixed) (l : List α) (s : State) :
    (l.foldl f s).fixed = s.fixed := by
  induction l generalizing s with
  | nil => rfl
  | cons a t ih => simp [ih, h]

@[simp] theorem State.setCore_fixed (s : State) (n : Nat) (k : Core) : (State.setCore s n k).fixed = s.fixed := by
  unfold State.setCore
  simp

@[simp] theorem State.modCore_fixed (s : State) (n : Nat) (f : Core → Core) : (State.modCore s n f).fixed = s.fixed := by
  unfold State.modCore
  simp

@[simp] theorem State.setChan_fixed (s : State) (n : Nat) (k : Chan) : (State.setChan s n k).fixed = s.fixed := by
  unfold State.setChan
  simp

@[simp] theorem State.setPart_fixed (s : State) (n : Nat) (k : Part) : (State.setPart s n k).fixed = s.fixed := by
  unfold State.setPart
  simp

@[simp] theorem State.setCtx_fixed (s : State) (n : Nat) (k : Ctx) : (State.setCtx s n k).fixed = s.fixed := by
  unfold State.setCtx
  simp

@[simp] theorem State.setSpool_fixed (s : State) (c : Nat) (p : Nat) (k : Spool) : (State.setSpool s c p k).fixed = s.fixed := by
  unfold State.setSpool
  simp

@[simp] theorem State.setSeq_fixed (s : State) (n : Nat) (k : Seq) : (State.setSeq s n k).fixed = s.fixed := by
  unfold State.setSeq
  simp

@[simp] theorem State.setModel_fixed (s : State) (n : Nat) (k : Model) : (State.setModel s n k).fixed = s.fixed := by
  unfold State.setModel
  simp

@[simp] theorem State.setBs_fixed (s : State) (n : Nat) (k : Bs) : (State.setBs s n k).fixed = s.fixed := by
  unfold State.setBs
  simp

@[simp] theorem State.setPort_fixed (s : State) (n : Nat) (k : Port) : (State.setPort s n k).fixed = s.fixed := by
  unfold State.setPort
  simp

@[simp] theorem State.setKeySlot_fixed (s : State) (n : Nat) (k : KeySlot) : (State.setKeySlot s n k).fixed = s.fixed := by
  unfold State.setKeySlot
  simp

@[simp] theorem State.emit_fixed (s : State) (o : Out) : (State.emit s o).fixed = s.fixed := by
  unfold State.emit
  simp

@[simp] theorem State.setReg_fixed (s : State) (off : Nat) (v : Word) : (State.setReg s off v).fixed = s.fixed := by
  unfold State.setReg
  simp

@[simp] theorem State.setLatch_fixed (s : State) (off : Nat) (v : Word) : (State.setLatch s off v).fixed = s.fixed := by
  unfold State.setLatch
  simp

@[simp] theorem State.bump_fixed (s : State) (off : Nat) (lo : Nat) (n : Nat) (add : Nat) : (State.bump s off lo n add).fixed = s.fixed := by
  unfold State.bump
  simp

@[simp] theorem State.drawBits_fixed (s : State) (w : Nat) : (State.drawBits s w).2.fixed = s.fixed := by
  unfold State.drawBits
  simp

@[simp] theorem State.drawBytes_fixed (s : State) (n : Nat) : (State.drawBytes s n).2.fixed = s.fixed := by
  unfold State.drawBytes
  simp

@[simp] theorem State.signal_fixed (s : State) (v : Nat) : (State.signal s v).fixed = s.fixed := by
  unfold State.signal
  simp

@[simp] theorem State.drawFail_fixed (s : State) : (State.drawFail s).2.fixed = s.fixed := by
  unfold State.drawFail
  simp

@[simp] theorem State.evtThreshold_fixed (s : State) : (State.evtThreshold s).fixed = s.fixed := by
  unfold State.evtThreshold
  simp

@[simp] theorem State.pushRecord_fixed (s : State) (code : Nat) (src : Nat) (cls : Nat) (status : Nat) (data : List Byte) : (State.pushRecord s code src cls status data).fixed = s.fixed := by
  unfold State.pushRecord
  simp

@[simp] theorem State.record_fixed (s : State) (code : Nat) (src : Nat) (cls : Nat) (status : Nat) (data : List Byte) : (State.record s code src cls status data).fixed = s.fixed := by
  unfold State.record
  (try simp only)
  (repeat' split) <;> simp <;> done

@[simp] theorem State.setRecord_fixed (s : State) (off : Nat) (v : Word) : (State.setRecord s off v).fixed = s.fixed := by
  unfold State.setRecord
  simp

@[simp] theorem State.modPwrPoint_fixed (s : State) (r : Nat) (p : Nat) : (State.modPwrPoint s r p).fixed = s.fixed := by
  unfold State.modPwrPoint
  simp

@[simp] theorem State.movePoint_fixed (s : State) (n : Nat) (p : Nat) : (State.movePoint s n p).fixed = s.fixed := by
  unfold State.movePoint
  simp

@[simp] theorem State.driveClkreq_fixed (s : State) (on : Bool) : (State.driveClkreq s on).fixed = s.fixed := by
  unfold State.driveClkreq
  simp

@[simp] theorem State.exitIdle_fixed (s : State) : (State.exitIdle s).fixed = s.fixed := by
  unfold State.exitIdle
  (repeat' split) <;> simp

@[simp] theorem State.alertEdge_fixed (before : State) (after : State) (h_after : after.fixed = before.fixed) : (State.alertEdge before after).fixed = before.fixed := by
  unfold State.alertEdge
  (try simp only)
  (repeat' split) <;> simp_all

@[simp] theorem State.modCmd_fixed (s : State) (r : CmdRef) (f : Cmd → Cmd) : (State.modCmd s r f).fixed = s.fixed := by
  unfold State.modCmd
  simp

@[simp] theorem State.modTst_fixed (s : State) (f : Tst → Tst) : (State.modTst s f).fixed = s.fixed := by
  unfold State.modTst
  simp

@[simp] theorem State.tstCount_fixed (s : State) (now : Nat) : (State.tstCount s now).fixed = s.fixed := by
  unfold State.tstCount
  simp

@[simp] theorem State.tstOr_fixed (s : State) (m : Word) : (State.tstOr s m).fixed = s.fixed := by
  unfold State.tstOr
  simp

@[simp] theorem State.tstEnd_fixed (s : State) (now : Nat) : (State.tstEnd s now).fixed = s.fixed := by
  unfold State.tstEnd
  simp

@[simp] theorem State.tstBreak_fixed (s : State) : (State.tstBreak s).fixed = s.fixed := by
  unfold State.tstBreak
  simp

@[simp] theorem State.creditBack_fixed (s : State) (n1 : Option (BitVec 2 × BitVec 2)) : (State.creditBack s n1).fixed = s.fixed := by
  unfold State.creditBack
  (try simp only)
  (repeat' split) <;> simp <;> done

theorem sendOne_fixed (n : Nat) (acc : State × Port × List Waiting) (w : Waiting) : (sendOne n acc w).1.fixed = acc.1.fixed := by
  obtain ⟨s, p, left⟩ := acc
  simp only [sendOne]
  split <;> simp

@[simp] theorem State.pump_fixed (s : State) (n : Nat) : (s.pump n).fixed = s.fixed := by
  simp only [State.pump, State.setPort_fixed]
  exact accFold_fixed (fun x => x.1) _ (sendOne_fixed n) _ (s, _, [])

@[simp] theorem State.sendOn_fixed (s : State) (n : Nat) (w : Waiting) : (State.sendOn s n w).fixed = s.fixed := by
  unfold State.sendOn
  simp

@[simp] theorem State.sendFrom_fixed (s : State) (f : Flit) (k : Nat) (holds : Option (BitVec 2 × BitVec 2)) : (State.sendFrom s f k holds).fixed = s.fixed := by
  unfold State.sendFrom
  (try simp only)
  (repeat' split) <;> simp <;> done

@[simp] theorem State.sendTo_fixed (s : State) (f : Flit) (k : Nat) : (State.sendTo s f k).fixed = s.fixed := by
  unfold State.sendTo
  simp

@[simp] theorem State.forward_fixed (s : State) (n : Nat) (f : Flit) (k : Nat) : (State.forward s n f k).fixed = s.fixed := by
  unfold State.forward
  simp

@[simp] theorem State.withdraw_fixed (s : State) (key : Nat) : (State.withdraw s key).fixed = s.fixed := by
  unfold State.withdraw
  simp

@[simp] theorem State.note_fixed (s : State) (n : Nat) (own : Bool) (rs : List (Nat × Nat)) : (State.note s n own rs).fixed = s.fixed := by
  unfold State.note
  simp

@[simp] theorem State.leaveChannels_fixed (s : State) (gone : List Nat) : (State.leaveChannels s gone).fixed = s.fixed := by
  unfold State.leaveChannels
  simp

@[simp] theorem State.peerStopCore_fixed (s : State) (n : Nat) : (State.peerStopCore s n).fixed = s.fixed := by
  unfold State.peerStopCore
  simp

@[simp] theorem State.peerStop_fixed (s : State) (r : CmdRef) (skip : List Nat) : (State.peerStop s r skip).fixed = s.fixed := by
  unfold State.peerStop
  simp

@[simp] theorem State.raiseOwn_fixed (s : State) (n : Nat) (status : Nat) (opcode : Nat) (pc : Nat) : (State.raiseOwn s n status opcode pc).fixed = s.fixed := by
  unfold State.raiseOwn
  simp

@[simp] theorem State.stopOthers_fixed (s : State) (n : Nat) : (State.stopOthers s n).fixed = s.fixed := by
  unfold State.stopOthers
  (try simp only)
  (repeat' split) <;> simp <;> done

@[simp] theorem State.exception_fixed (s : State) (n : Nat) (status : Nat) (opcode : Nat) (pc : Nat) : (State.exception s n status opcode pc).fixed = s.fixed := by
  unfold State.exception
  simp

@[simp] theorem State.excDisp_fixed (s : State) (n : Nat) (status : Nat) (d : Disp) : (State.excDisp s n status d).fixed = s.fixed := by
  unfold State.excDisp
  simp

@[simp] theorem State.colFenced_fixed (s : State) (n : Nat) : (State.colFenced s n).fixed = s.fixed := by
  unfold State.colFenced
  (try simp only)
  (repeat' split) <;> simp <;> done

@[simp] theorem State.colRaise_fixed (s : State) (code n : Nat) : (State.colRaise s code n).fixed = s.fixed := by
  unfold State.colRaise
  (try simp only)
  (repeat' split) <;> simp <;> done

@[simp] theorem State.endWaits_fixed (s : State) (keys : List Nat) (code : Nat) (f : Chan → Chan) :
    (State.endWaits s keys code f).fixed = s.fixed := by
  unfold State.endWaits
  simp

@[simp] theorem State.cancelChannels_fixed (s : State) (keys : List Nat) : (State.cancelChannels s keys).fixed = s.fixed := by
  unfold State.cancelChannels
  simp

@[simp] theorem recordFaultReg_fixed (s : State) (n : Nat) (check : CoreCheck) : (recordFaultReg s n check).fixed = s.fixed := by
  unfold recordFaultReg
  (try simp only)
  (repeat' split) <;> simp <;> done

@[simp] theorem State.retireCore_fixed (s : State) (n : Nat) : (State.retireCore s n).fixed = s.fixed := by
  unfold State.retireCore
  simp

@[simp] theorem State.orphanTags_fixed (s : State) (n : Nat) : (State.orphanTags s n).fixed = s.fixed := by
  unfold State.orphanTags
  simp

@[simp] theorem State.countFault_fixed (s : State) (n : Nat) : (State.countFault s n).fixed = s.fixed := by
  unfold State.countFault
  simp

@[simp] theorem State.beginCoreFault_fixed (s : State) (n : Nat) (check : CoreCheck) : (State.beginCoreFault s n check).fixed = s.fixed := by
  unfold State.beginCoreFault
  simp

@[simp] theorem State.stopPeers_fixed (s : State) (n : Nat) : (State.stopPeers s n).fixed = s.fixed := by
  unfold State.stopPeers
  simp

@[simp] theorem State.flushLog_fixed (s : State) : (State.flushLog s).fixed = s.fixed := by
  unfold State.flushLog
  simp

@[simp] theorem State.coreFault_fixed (s : State) (n : Nat) (check : CoreCheck) : (State.coreFault s n check).fixed = s.fixed := by
  unfold State.coreFault
  simp

@[simp] theorem State.setRam_fixed (s : State) (m : MemSel) (r : Ram) : (State.setRam s m r).fixed = s.fixed := by
  unfold State.setRam
  (try simp only)
  (repeat' split) <;> simp <;> done

@[simp] theorem State.countCe_fixed (s : State) (m : MemSel) : (State.countCe s m).fixed = s.fixed := by
  unfold State.countCe
  (try simp only)
  (repeat' split) <;> simp <;> done

@[simp] theorem State.noteUe_fixed (s : State) (m : MemSel) (g : Nat) (patrol : Bool) : (State.noteUe s m g patrol).fixed = s.fixed := by
  unfold State.noteUe
  (try simp only)
  (repeat' split) <;> simp <;> done

@[simp] theorem State.fixCe_fixed (s : State) (m : MemSel) (g : Nat) : (State.fixCe s m g).fixed = s.fixed := by
  unfold State.fixCe
  simp

@[simp] theorem State.checkGranule_fixed (s : State) (m : MemSel) (patrol : Bool) (g : Nat) : (State.checkGranule s m patrol g).fixed = s.fixed := by
  unfold State.checkGranule
  (try simp only)
  (repeat' split) <;> simp <;> done

@[simp] theorem State.touch_fixed (s : State) (m : MemSel) (a : Nat) (len : Nat) : (State.touch s m a len).1.fixed = s.fixed := by
  unfold State.touch
  simp

@[simp] theorem State.touchAll_fixed (s : State) (rs : List (MemSel × Nat × Nat)) : (s.touchAll rs).1.fixed = s.fixed := by
  unfold State.touchAll
  refine (pairFold_fixed _ ?_ rs (s, Taint.clean)).trans rfl
  intro a r
  simp

@[simp] theorem State.mergeCheck_fixed (s : State) (m : MemSel) (a : Nat) (len : Nat) : (State.mergeCheck s m a len).fixed = s.fixed := by
  unfold State.mergeCheck
  simp

@[simp] theorem State.mergeAll_fixed (s : State) (m : MemSel) (rs : List (Nat × Nat)) : (State.mergeAll s m rs).fixed = s.fixed := by
  unfold State.mergeAll
  simp

@[simp] theorem State.putRam_fixed (s : State) (m : MemSel) (a : Nat) (bs : List Byte) (flags : List Bool) : (State.putRam s m a bs flags).fixed = s.fixed := by
  unfold State.putRam
  simp

@[simp] theorem State.writeRam_fixed (s : State) (m : MemSel) (a : Nat) (bs : List Byte) : (State.writeRam s m a bs).fixed = s.fixed := by
  unfold State.writeRam
  simp

@[simp] theorem State.scramble_fixed (s : State) (m : MemSel) (a : Nat) (len : Nat) : (State.scramble s m a len).fixed = s.fixed := by
  unfold State.scramble
  simp

@[simp] theorem State.modDram_fixed (s : State) (f : Dram → Dram) : (State.modDram s f).fixed = s.fixed := by
  unfold State.modDram
  simp

@[simp] theorem State.mergePoison_fixed (s : State) (l : Nat) : (State.mergePoison s l).fixed = s.fixed := by
  unfold State.mergePoison
  simp

@[simp] theorem State.dramPutLine_fixed (s : State) (l : Nat) (off : Nat) (bs : List Byte) (bad : Bool) (tag : Nat) : (State.dramPutLine s l off bs bad tag).fixed = s.fixed := by
  unfold State.dramPutLine
  simp

@[simp] theorem State.dramPut_fixed (s : State) (off : Nat) (bs : List Byte) (flags : List Bool) (tag : Nat) : (State.dramPut s off bs flags tag).fixed = s.fixed := by
  unfold State.dramPut
  simp

@[simp] theorem State.dramUse_fixed (s : State) (off : Nat) (len : Nat) : (State.dramUse s off len).fixed = s.fixed := by
  unfold State.dramUse
  simp

@[simp] theorem State.dramRead_fixed (s : State) (ctx off len : Nat) : (s.dramRead ctx off len).2.2.fixed = s.fixed := by
  unfold State.dramRead
  refine (accFold_fixed (fun (x : List Byte × List Bool × State) => x.2.2) _ ?_ _ ([], [], s.dramUse off len)).trans (State.dramUse_fixed s off len)
  intro a r
  simp

@[simp] theorem State.dramWrite_fixed (s : State) (ctx : Nat) (off : Nat) (bs : List Byte) (flags : List Bool) : (State.dramWrite s ctx off bs flags).fixed = s.fixed := by
  unfold State.dramWrite
  simp

@[simp] theorem State.setPage_fixed (s : State) (key : Nat) (p : PageInfo) : (State.setPage s key p).fixed = s.fixed := by
  unfold State.setPage
  simp

@[simp] theorem State.charge_fixed (s : State) (c : Nat) (n : Nat) : (State.charge s c n).fixed = s.fixed := by
  unfold State.charge
  simp

@[simp] theorem State.discharge_fixed (s : State) (c : Nat) (n : Nat) : (State.discharge s c n).fixed = s.fixed := by
  unfold State.discharge
  simp

theorem State.allocPages_fixed (pool z c n : Nat) :
    ∀ (s : State) (r : List Nat × State), s.allocPages pool z c n = some r → r.2.fixed = s.fixed := by
  induction n with
  | zero => intro s r h; simp only [State.allocPages, Option.some.injEq] at h; subst h; rfl
  | succ n ih =>
    intro s r h
    simp only [State.allocPages] at h
    split at h
    · cases h
    · split at h
      · cases h
      · next u _ _ t ht => cases h; simpa using ih _ _ ht

theorem State.allocRow_fixed (s : State) (pool z c n : Nat) (r : List Nat × State)
    (h : s.allocRow pool z c n = some r) : r.2.fixed = s.fixed := by
  unfold State.allocRow at h
  split at h
  · exact State.allocPages_fixed pool z c n s r h
  · cases h

@[simp] theorem State.releaseIf_fixed (s : State) (key : Nat) : (State.releaseIf s key).fixed = s.fixed := by
  unfold State.releaseIf
  simp

@[simp] theorem State.addRef_fixed (s : State) (key : Nat) : (State.addRef s key).fixed = s.fixed := by
  unfold State.addRef
  simp

@[simp] theorem State.dropRef_fixed (s : State) (key : Nat) : (State.dropRef s key).fixed = s.fixed := by
  unfold State.dropRef
  simp

@[simp] theorem State.addPin_fixed (s : State) (r : CmdRef) (key : Nat) : (State.addPin s r key).fixed = s.fixed := by
  unfold State.addPin
  simp

@[simp] theorem State.dropPin_fixed (s : State) (r : CmdRef) (key : Nat) : (State.dropPin s r key).fixed = s.fixed := by
  unfold State.dropPin
  simp

@[simp] theorem State.writeTable_fixed (s : State) (q : Seq) : (State.writeTable s q).fixed = s.fixed := by
  unfold State.writeTable
  simp

@[simp] theorem State.storeSeq_fixed (s : State) (n : Nat) (q : Seq) : (State.storeSeq s n q).fixed = s.fixed := by
  unfold State.storeSeq
  simp

theorem State.newRow_fixed (s : State) (q : Seq) (r : Row × State) (h : s.newRow q = some r) : r.2.fixed = s.fixed := by
  simp only [State.newRow] at h
  split at h
  · next r1 h1 =>
    cases h
    obtain ⟨a, ha, rfl⟩ := Option.map_eq_some_iff.1 h1
    exact State.allocRow_fixed _ _ _ _ _ _ ha
  · obtain ⟨a, ha, rfl⟩ := Option.map_eq_some_iff.1 h
    exact State.allocRow_fixed _ _ _ _ _ _ ha

@[simp] theorem State.copyPage_fixed (s : State) (pool : Nat) (c : Nat) (z : Nat) (n : Nat) (src : Nat) (dst : Nat) : (State.copyPage s pool c z n src dst).fixed = s.fixed := by
  unfold State.copyPage
  simp

theorem State.cowSeq_fixed (s : State) (n : Nat) (t : State) (h : s.cowSeq n = some t) : t.fixed = s.fixed := by
  simp only [State.cowSeq] at h
  split at h
  · cases h; rfl
  · split at h
    · cases h; rfl
    · split at h
      · cases h
      · next us s1 h1 => cases h; simpa using State.allocRow_fixed _ _ _ _ _ _ h1

@[simp] theorem State.growSeq_fixed (s : State) (n upto f : Nat) : (s.growSeq n upto f).2.fixed = s.fixed := by
  induction f generalizing s with
  | zero => rfl
  | succ f ih =>
    simp only [State.growSeq]
    split
    · rfl
    · split
      · rfl
      · split
        · rfl
        · next r s1 h => simpa [ih] using State.newRow_fixed _ _ _ h

@[simp] theorem State.kvGrow_fixed (s : State) (names : List (BitVec 10 × Nat)) : (s.kvGrow names).2.fixed = s.fixed := by
  unfold State.kvGrow
  refine (accFold_fixed (fun (x : Bool × State) => x.2) _ ?_ _ _).trans (accFold_fixed (fun (x : Bool × State) => x.2) _ ?_ _ (true, s))
  · intro a e; split <;> simp
  · intro a e
    split
    · split
      · next s1 h => exact State.cowSeq_fixed _ _ _ h
      · rfl
    · rfl

@[simp] theorem State.kvStart_fixed (s : State) (r : CmdRef) (names : List (BitVec 10 × Nat)) : (State.kvStart s r names).2.2.2.fixed = s.fixed := by
  unfold State.kvStart
  (try simp only)
  (repeat' split) <;> simp <;> done

@[simp] theorem State.kvCommit_fixed (s : State) (c : BitVec 6) (e : BitVec 10 × Nat × Nat) : (State.kvCommit s c e).fixed = s.fixed := by
  unfold State.kvCommit
  simp

@[simp] theorem State.startCmd_fixed (s : State) (r : CmdRef) : (State.startCmd s r).fixed = s.fixed := by
  unfold State.startCmd
  simp

@[simp] theorem State.letGo_fixed (s : State) (r : CmdRef) : (State.letGo s r).fixed = s.fixed := by
  unfold State.letGo
  simp

@[simp] theorem State.recordOthers_fixed (s : State) (r : CmdRef) (st : Nat) (codes : List Nat) : (State.recordOthers s r st codes).fixed = s.fixed := by
  unfold State.recordOthers
  simp

@[simp] theorem State.endCmd_fixed (s : State) (r : CmdRef) (status : Nat) : (State.endCmd s r status).fixed = s.fixed := by
  unfold State.endCmd
  simp

@[simp] theorem State.endWith_fixed (s : State) (r : CmdRef) (codes : List Nat) : (State.endWith s r codes).fixed = s.fixed := by
  unfold State.endWith
  simp

@[simp] theorem State.writeRecord_fixed (s : State) (k : Cmd) : (State.writeRecord s k).fixed = s.fixed := by
  unfold State.writeRecord
  simp

@[simp] theorem State.recordAlso_fixed (s : State) (codes : List Nat) : (State.recordAlso s codes).fixed = s.fixed := by
  unfold State.recordAlso
  simp

@[simp] theorem State.hostCmd_fixed (s : State) (r : CmdRef) (op : Nat) (conds : Cmd → List Nat) (ordered : State → Cmd → Bool) (act : Cmd → State) (h_act : ∀ x0, (act x0).fixed = s.fixed) : (State.hostCmd s r op conds ordered act).fixed = s.fixed := by
  unfold State.hostCmd
  (try simp only)
  (repeat' split) <;> simp_all

@[simp] theorem State.withHost_fixed (s : State) (k : Cmd) (addr : Nat) (len : Nat) (go : List Byte → State) (h_go : ∀ x0, (go x0).fixed = s.fixed) : (State.withHost s k addr len go).fixed = s.fixed := by
  unfold State.withHost
  (try simp only)
  (repeat' split) <;> simp_all

@[simp] theorem State.atOnce_fixed (s : State) (r : CmdRef) (status : Nat) : (State.atOnce s r status).fixed = s.fixed := by
  unfold State.atOnce
  simp

@[simp] theorem State.answer_fixed (s : State) (status : Nat) (rsp : List Byte) : (State.answer s status rsp).fixed = s.fixed := by
  unfold State.answer
  simp

@[simp] theorem State.answerWith_fixed (s : State) (codes : List Nat) : (State.answerWith s codes).fixed = s.fixed := by
  unfold State.answerWith
  simp

@[simp] theorem State.mailbox_fixed (s : State) (op : Nat) (len : Nat) (act : State) (h_act : act.fixed = s.fixed) : (State.mailbox s op len act).fixed = s.fixed := by
  unfold State.mailbox
  (try simp only)
  (repeat' split) <;> simp_all

@[simp] theorem State.setExtent_fixed (s : State) (h : Nat) (e : Extent) : (State.setExtent s h e).fixed = s.fixed := by
  unfold State.setExtent
  simp

@[simp] theorem State.setCodeword_fixed (s : State) (h : Nat) (o : Nat) (c : Codeword) : (State.setCodeword s h o c).fixed = s.fixed := by
  unfold State.setCodeword
  simp

theorem State.mirFill_fixed (l : List (Nat × Nat × Nat)) : ∀ (s t : State), s.mirFill l = some t → t.fixed = s.fixed := by
  induction l with
  | nil => intro s t h; simp only [State.mirFill, Option.some.injEq] at h; subst h; rfl
  | cons x l ih =>
    intro s t h
    obtain ⟨a, b, c⟩ := x
    simp only [State.mirFill] at h
    split at h
    · cases h
    · simpa using ih _ _ h

@[simp] theorem State.mirUndefine_fixed (s : State) (ls : List (List Byte)) (mir : List Nat) : (State.mirUndefine s ls mir).fixed = s.fixed := by
  unfold State.mirUndefine
  simp

@[simp] theorem State.noteChecked_fixed (s : State) (slot : Nat) (m : Nat) (sched : Nat) : (State.noteChecked s slot m sched).fixed = s.fixed := by
  unfold State.noteChecked
  simp

@[simp] theorem State.setBlk_fixed (s : State) (key : Nat) (b : Blk) : (State.setBlk s key b).fixed = s.fixed := by
  unfold State.setBlk
  simp

@[simp] theorem State.setFRow_fixed (s : State) (r : Nat) (x : FRow) : (State.setFRow s r x).fixed = s.fixed := by
  unfold State.setFRow
  simp

@[simp] theorem State.mapSlot_fixed (s : State) (row : Nat) (u : Nat) : (State.mapSlot s row u).fixed = s.fixed := by
  unfold State.mapSlot
  (try simp only)
  (repeat' split) <;> simp <;> done

@[simp] theorem State.mapRow_fixed (s : State) (row : Nat) : (State.mapRow s row).fixed = s.fixed := by
  unfold State.mapRow
  simp

theorem State.openRow_fixed (s : State) (r : Nat × State) (h : s.openRow = some r) : r.2.fixed = s.fixed := by
  unfold State.openRow at h
  generalize List.find? _ _ = o at h
  cases o with
  | none => cases h
  | some x =>
    have e := Option.some.inj h
    subst e
    dsimp only
    split <;> simp

theorem State.openComp_fixed (s : State) (r : Nat × State) (h : s.openComp = some r) : r.2.fixed = s.fixed := by
  unfold State.openComp at h
  generalize List.find? _ _ = o at h
  cases o with
  | none => cases h
  | some x =>
    have e := Option.some.inj h
    subst e
    simp

@[simp] theorem State.takeFrom_fixed (s : State) (r : Nat) : (State.takeFrom s r).2.fixed = s.fixed := by
  unfold State.takeFrom
  simp

theorem State.takeData_fixed (s : State) (r : (Nat × Nat) × State) (h : s.takeData = some r) : r.2.fixed = s.fixed := by
  simp only [State.takeData] at h
  split at h
  · cases h
  · next x s1 h1 =>
    cases h
    have h2 : s1.fixed = s.fixed := by
      split at h1
      · cases h1; rfl
      · exact State.openRow_fixed _ _ h1
    simpa using h2

theorem State.takeStripes_fixed (n : Nat) :
    ∀ (s : State) (r : List (Nat × Nat) × State), s.takeStripes n = some r → r.2.fixed = s.fixed := by
  induction n with
  | zero => intro s r h; simp only [State.takeStripes, Option.some.injEq] at h; subst h; rfl
  | succ n ih =>
    intro s r h
    simp only [State.takeStripes] at h
    split at h
    · cases h
    · next x s1 h1 =>
      obtain ⟨a, ha, rfl⟩ := Option.map_eq_some_iff.1 h
      exact (ih _ _ ha).trans (State.takeData_fixed _ _ h1)

theorem State.freshHandle_fixed (s : State) (r : Nat × State) (h : s.freshHandle = some r) : r.2.fixed = s.fixed := by
  simp only [State.freshHandle] at h
  obtain ⟨a, ha, rfl⟩ := Option.map_eq_some_iff.1 h
  simp

@[simp] theorem State.sealTry_fixed (s : State) (h : Nat) : (State.sealTry s h).fixed = s.fixed := by
  unfold State.sealTry
  simp

@[simp] theorem State.startErase_fixed (s : State) (key : Nat) : (State.startErase s key).fixed = s.fixed := by
  unfold State.startErase
  simp

@[simp] theorem State.unmark_fixed (s : State) (key : Nat) : (State.unmark s key).fixed = s.fixed := by
  unfold State.unmark
  simp

@[simp] theorem State.renameRow_fixed (s : State) (r : Nat) (q : Nat) : (State.renameRow s r q).fixed = s.fixed := by
  unfold State.renameRow
  simp

@[simp] theorem State.mapWaitingRow_fixed (s : State) (r : Nat) : (State.mapWaitingRow s r).fixed = s.fixed := by
  unfold State.mapWaitingRow
  (try simp only)
  (repeat' split) <;> simp <;> done

@[simp] theorem State.mapWaiting_fixed (s : State) : (State.mapWaiting s).fixed = s.fixed := by
  unfold State.mapWaiting
  simp

@[simp] theorem State.shrinkEnd_fixed (s : State) : (State.shrinkEnd s).fixed = s.fixed := by
  unfold State.shrinkEnd
  simp

@[simp] theorem State.emptyRow_fixed (s : State) (r : Nat) : (State.emptyRow s r).fixed = s.fixed := by
  unfold State.emptyRow
  simp

@[simp] theorem State.compactTry_fixed (s : State) : (State.compactTry s).fixed = s.fixed := by
  unfold State.compactTry
  (try simp only)
  (repeat' split) <;> simp <;> done

@[simp] theorem State.freeExtent_fixed (s : State) (h : Nat) : (State.freeExtent s h).fixed = s.fixed := by
  unfold State.freeExtent
  simp

@[simp] theorem State.freeModelExtents_fixed (s : State) (m : Nat) : (State.freeModelExtents s m).fixed = s.fixed := by
  unfold State.freeModelExtents
  simp

@[simp] theorem State.mark_fixed (s : State) (c : Mark) (key : Nat) : (State.mark s c key).fixed = s.fixed := by
  unfold State.mark
  simp

@[simp] theorem State.markUrgent_fixed (s : State) (key : Nat) : (State.markUrgent s key).fixed = s.fixed := by
  unfold State.markUrgent
  simp

@[simp] theorem State.emptySlot_fixed (s : State) (n : Nat) : (State.emptySlot s n).fixed = s.fixed := by
  unfold State.emptySlot
  simp

@[simp] theorem State.fillSlot_fixed (s : State) (n : Nat) (k : KeySlot) : (State.fillSlot s n k).fixed = s.fixed := by
  unfold State.fillSlot
  simp

@[simp] theorem State.setBlob_fixed (s : State) (n : Nat) (b : Option Blob) : (State.setBlob s n b).fixed = s.fixed := by
  unfold State.setBlob
  simp

@[simp] theorem State.unbindWeight_fixed (s : State) (m : Nat) : (State.unbindWeight s m).fixed = s.fixed := by
  unfold State.unbindWeight
  simp

@[simp] theorem State.stopLoad_fixed (s : State) (m : Nat) : (State.stopLoad s m).fixed = s.fixed := by
  unfold State.stopLoad
  (try simp only)
  (repeat' split) <;> simp <;> done

@[simp] theorem State.dropPatch_fixed (s : State) (m : Nat) (status : Nat) : (State.dropPatch s m status).fixed = s.fixed := by
  unfold State.dropPatch
  (try simp only)
  (repeat' split) <;> simp <;> done

@[simp] theorem State.evictOne_fixed (s : State) (m : Nat) (forced : Bool) : (State.evictOne s m forced).fixed = s.fixed := by
  unfold State.evictOne
  simp

@[simp] theorem State.evictModel_fixed (s : State) (m : Nat) (forced : Bool) : (State.evictModel s m forced).fixed = s.fixed := by
  unfold State.evictModel
  simp

@[simp] theorem State.shrinkGo_fixed (s : State) : (State.shrinkGo s).fixed = s.fixed := by
  unfold State.shrinkGo
  simp

@[simp] theorem State.recordShrink_fixed (s : State) : (State.recordShrink s).fixed = s.fixed := by
  unfold State.recordShrink
  simp

@[simp] theorem State.shrinkStart_fixed (s : State) : (State.shrinkStart s).fixed = s.fixed := by
  unfold State.shrinkStart
  simp

@[simp] theorem State.shrinkForce_fixed (s : State) (die : Nat) : (State.shrinkForce s die).fixed = s.fixed := by
  unfold State.shrinkForce
  simp

@[simp] theorem State.replaceSystem_fixed (s : State) (key : Nat) : (State.replaceSystem s key).fixed = s.fixed := by
  unfold State.replaceSystem
  (try simp only)
  (repeat' split) <;> simp <;> done

@[simp] theorem State.retireBlock_fixed (s : State) (key : Nat) (cause : Nat) (recorded : Bool) : (State.retireBlock s key cause recorded).fixed = s.fixed := by
  unfold State.retireBlock
  simp

@[simp] theorem State.retireLater_fixed (s : State) (key : Nat) (cause : Nat) (recorded : Bool) : (State.retireLater s key cause recorded).fixed = s.fixed := by
  unfold State.retireLater
  (try simp only)
  (repeat' split) <;> simp <;> done

@[simp] theorem State.flagHold_fixed (s : State) : (State.flagHold s).fixed = s.fixed := by
  unfold State.flagHold
  simp

@[simp] theorem State.frontStep_fixed (s : State) (n : Nat) (act : Core → CoreInstr → Option State)
    (h : ∀ k i, ((act k i).getD s).fixed = s.fixed) : (s.frontStep n act).fixed = s.fixed := by
  unfold State.frontStep; (try simp only); (repeat' split) <;> simp [h]

@[simp] theorem opNop_fixed (s : State) (n : Nat) (k : Core) (i : CoreInstr) : ((opNop s n k i).getD s).fixed = s.fixed := by
  unfold opNop
  (repeat' split) <;> simp

@[simp] theorem opEnd_fixed (s : State) (n : Nat) (k : Core) (i : CoreInstr) : ((opEnd s n k i).getD s).fixed = s.fixed := by
  unfold opEnd
  (repeat' split) <;> simp

@[simp] theorem opJmp_fixed (s : State) (n : Nat) (k : Core) (i : CoreInstr) : ((opJmp s n k i).getD s).fixed = s.fixed := by
  unfold opJmp
  (repeat' split) <;> simp

@[simp] theorem opBr_fixed (s : State) (n : Nat) (k : Core) (i : CoreInstr) : ((opBr s n k i).getD s).fixed = s.fixed := by
  unfold opBr
  (repeat' split) <;> simp

@[simp] theorem opLoop_fixed (s : State) (n : Nat) (k : Core) (i : CoreInstr) : ((opLoop s n k i).getD s).fixed = s.fixed := by
  unfold opLoop
  (repeat' split) <;> simp

@[simp] theorem opCall_fixed (s : State) (n : Nat) (k : Core) (i : CoreInstr) : ((opCall s n k i).getD s).fixed = s.fixed := by
  unfold opCall
  (repeat' split) <;> simp

@[simp] theorem opRet_fixed (s : State) (n : Nat) (k : Core) (i : CoreInstr) : ((opRet s n k i).getD s).fixed = s.fixed := by
  unfold opRet
  (repeat' split) <;> simp

@[simp] theorem opAlu_fixed (s : State) (n : Nat) (k : Core) (i : CoreInstr) : ((opAlu s n k i).getD s).fixed = s.fixed := by
  unfold opAlu
  (repeat' split) <;> simp

@[simp] theorem opAlui_fixed (s : State) (n : Nat) (k : Core) (i : CoreInstr) : ((opAlui s n k i).getD s).fixed = s.fixed := by
  unfold opAlui
  (repeat' split) <;> simp

@[simp] theorem opLi_fixed (s : State) (n : Nat) (k : Core) (i : CoreInstr) : ((opLi s n k i).getD s).fixed = s.fixed := by
  unfold opLi
  (repeat' split) <;> simp

@[simp] theorem opSld_fixed (s : State) (n : Nat) (k : Core) (i : CoreInstr) : ((opSld s n k i).getD s).fixed = s.fixed := by
  unfold opSld
  (repeat' split) <;> simp

@[simp] theorem opSst_fixed (s : State) (n : Nat) (k : Core) (i : CoreInstr) : ((opSst s n k i).getD s).fixed = s.fixed := by
  unfold opSst
  (repeat' split) <;> simp

@[simp] theorem State.takeTag_fixed (s : State) (n : Nat) : (State.takeTag s n).fixed = s.fixed := by
  unfold State.takeTag
  simp

@[simp] theorem State.giveTag_fixed (s : State) (n : Nat) : (State.giveTag s n).fixed = s.fixed := by
  unfold State.giveTag
  simp

@[simp] theorem opSlds_fixed (s : State) (n : Nat) (k : Core) (i : CoreInstr) : ((opSlds s n k i).getD s).fixed = s.fixed := by
  unfold opSlds
  (repeat' split) <;> simp

@[simp] theorem opSsts_fixed (s : State) (n : Nat) (k : Core) (i : CoreInstr) : ((opSsts s n k i).getD s).fixed = s.fixed := by
  unfold opSsts
  (repeat' split) <;> simp

@[simp] theorem opCsrr_fixed (s : State) (n : Nat) (k : Core) (i : CoreInstr) : ((opCsrr s n k i).getD s).fixed = s.fixed := by
  unfold opCsrr
  (repeat' split) <;> simp

@[simp] theorem opTset_fixed (s : State) (n : Nat) (k : Core) (i : CoreInstr) : ((opTset s n k i).getD s).fixed = s.fixed := by
  unfold opTset
  (repeat' split) <;> simp

@[simp] theorem opTclr_fixed (s : State) (n : Nat) (k : Core) (i : CoreInstr) : ((opTclr s n k i).getD s).fixed = s.fixed := by
  unfold opTclr
  (repeat' split) <;> simp

@[simp] theorem opTwait_fixed (s : State) (n : Nat) (k : Core) (i : CoreInstr) : ((opTwait s n k i).getD s).fixed = s.fixed := by
  unfold opTwait
  (repeat' split) <;> simp

@[simp] theorem opCol_fixed (s : State) (n : Nat) (k : Core) (i : CoreInstr) : ((opCol s n k i).getD s).fixed = s.fixed := by
  unfold opCol
  split <;> simp <;> (repeat' split) <;> simp <;> grind

@[simp] theorem opUsig_fixed (s : State) (n : Nat) (k : Core) (i : CoreInstr) : ((opUsig s n k i).getD s).fixed = s.fixed := by
  unfold opUsig
  (repeat' split) <;> simp

@[simp] theorem vldEffect_fixed (s : State) (n : Nat) (d : Disp) (vr : BitVec 6) (fmt : BitVec 4) (sp : BitVec 2) (lm1 : BitVec 6) : (vldEffect s n d vr fmt sp lm1).fixed = s.fixed := by
  unfold vldEffect
  simp

@[simp] theorem vstEffect_fixed (s : State) (n : Nat) (d : Disp) (vr : BitVec 6) (fmt : BitVec 4) (sp : BitVec 2) (lm1 : BitVec 6) : (vstEffect s n d vr fmt sp lm1).fixed = s.fixed := by
  unfold vstEffect
  simp

@[simp] theorem gateEffect_fixed (s : State) (n : Nat) (d : Disp) (vd : BitVec 6) (vg : BitVec 6) (vu : BitVec 6) (vp : BitVec 6) (act : BitVec 7) : (gateEffect s n d vd vg vu vp act).fixed = s.fixed := by
  unfold gateEffect
  simp

@[simp] theorem vsfEffect_fixed (s : State) (n : Nat) (d : Disp) (vd : BitVec 6) (va : BitVec 6) (vb : BitVec 6) (func : BitVec 7) (lm1 : BitVec 6) : (vsfEffect s n d vd va vb func lm1).fixed = s.fixed := by
  unfold vsfEffect
  simp

@[simp] theorem normEffect_fixed (s : State) (n : Nat) (d : Disp) : (normEffect s n d).fixed = s.fixed := by
  unfold normEffect
  simp

@[simp] theorem streamIssue_fixed (s : State) (n : Nat) (d : Disp) : (streamIssue s n d).fixed = s.fixed := by
  unfold streamIssue
  simp

@[simp] theorem vecIssue_fixed (s : State) (n : Nat) (d : Disp) : (vecIssue s n d).fixed = s.fixed := by
  unfold vecIssue
  (try simp only)
  (repeat' split) <;> simp <;> done

@[simp] theorem vecTry_fixed (s : State) (n : Nat) : (vecTry s n).fixed = s.fixed := by
  unfold vecTry
  (try simp only)
  (repeat' split) <;> simp <;> done

@[simp] theorem vecWord_fixed (s : State) (n : Nat) (k : Core) (i : CoreInstr) : (vecWord s n k i).fixed = s.fixed := by
  unfold vecWord
  simp

@[simp] theorem opVop_fixed (s : State) (n : Nat) (k : Core) (i : CoreInstr) : ((opVop s n k i).getD s).fixed = s.fixed := by
  unfold opVop
  (repeat' split) <;> simp

@[simp] theorem opVld_fixed (s : State) (n : Nat) (k : Core) (i : CoreInstr) : ((opVld s n k i).getD s).fixed = s.fixed := by
  unfold opVld
  (repeat' split) <;> simp

@[simp] theorem opVst_fixed (s : State) (n : Nat) (k : Core) (i : CoreInstr) : ((opVst s n k i).getD s).fixed = s.fixed := by
  unfold opVst
  (repeat' split) <;> simp

@[simp] theorem opGate_fixed (s : State) (n : Nat) (k : Core) (i : CoreInstr) : ((opGate s n k i).getD s).fixed = s.fixed := by
  unfold opGate
  (repeat' split) <;> simp

@[simp] theorem opVsf_fixed (s : State) (n : Nat) (k : Core) (i : CoreInstr) : ((opVsf s n k i).getD s).fixed = s.fixed := by
  unfold opVsf
  (repeat' split) <;> simp

@[simp] theorem opNorm_fixed (s : State) (n : Nat) (k : Core) (i : CoreInstr) : ((opNorm s n k i).getD s).fixed = s.fixed := by
  unfold opNorm
  (repeat' split) <;> simp

@[simp] theorem opRed_fixed (s : State) (n : Nat) (k : Core) (i : CoreInstr) : ((opRed s n k i).getD s).fixed = s.fixed := by
  unfold opRed
  (repeat' split) <;> simp

@[simp] theorem opTopk_fixed (s : State) (n : Nat) (k : Core) (i : CoreInstr) : ((opTopk s n k i).getD s).fixed = s.fixed := by
  unfold opTopk
  (repeat' split) <;> simp

@[simp] theorem opMma_fixed (s : State) (n : Nat) (k : Core) (i : CoreInstr) : ((opMma s n k i).getD s).fixed = s.fixed := by
  unfold opMma
  (repeat' split) <;> simp

@[simp] theorem mmaIssue_fixed (s : State) (n : Nat) (m : MmaF) (d : Disp) : (mmaIssue s n m d).fixed = s.fixed := by
  unfold mmaIssue
  simp

@[simp] theorem opWcmp_fixed (s : State) (n : Nat) (k : Core) (i : CoreInstr) : ((opWcmp s n k i).getD s).fixed = s.fixed := by
  unfold opWcmp
  (repeat' split) <;> simp

@[simp] theorem opWexp_fixed (s : State) (n : Nat) (k : Core) (i : CoreInstr) : ((opWexp s n k i).getD s).fixed = s.fixed := by
  unfold opWexp
  (repeat' split) <;> simp

@[simp] theorem State.wrgErr_fixed (s : State) (kind : Nat) (stream : Bool) (core : Nat) (index : Nat) (status : Nat) : (State.wrgErr s kind stream core index status).fixed = s.fixed := by
  unfold State.wrgErr
  simp

@[simp] theorem State.wrgFail_fixed (s : State) (n : Nat) (kind : Nat) (status : Nat) (j : Nat) (d : Disp) : (State.wrgFail s n kind status j d).fixed = s.fixed := by
  unfold State.wrgFail
  simp

@[simp] theorem State.wrgAdvance_fixed (s : State) (n : Nat) (f : WrgF) (d : Disp) (j : Nat) : (State.wrgAdvance s n f d j).fixed = s.fixed := by
  unfold State.wrgAdvance
  simp

@[simp] theorem wcmpBlock_fixed (s : State) (n : Nat) (f : WrgF) (d : Disp) (j : Nat) : (wcmpBlock s n f d j).fixed = s.fixed := by
  unfold wcmpBlock
  simp

@[simp] theorem wexpBlock_fixed (s : State) (n : Nat) (f : WrgF) (d : Disp) (j : Nat) : (wexpBlock s n f d j).fixed = s.fixed := by
  unfold wexpBlock
  (try simp only)
  (repeat' split) <;> simp <;> done

@[simp] theorem State.releaseUnit_fixed (s : State) (job : WrgJob) : (State.releaseUnit s job).fixed = s.fixed := by
  unfold State.releaseUnit
  simp

@[simp] theorem State.scrambleAll_fixed (s : State) (rs : List (MemSel × Nat × Nat)) : (State.scrambleAll s rs).fixed = s.fixed := by
  unfold State.scrambleAll
  simp

@[simp] theorem wrgStep_fixed (s : State) (n : Nat) (f : WrgF) (fl : Flight) : (wrgStep s n f fl).fixed = s.fixed := by
  unfold wrgStep
  simp

@[simp] theorem opDma_fixed (s : State) (n : Nat) (k : Core) (i : CoreInstr) : ((opDma s n k i).getD s).fixed = s.fixed := by
  unfold opDma
  (repeat' split) <;> simp

@[simp] theorem dmaIssue_fixed (s : State) (n : Nat) (f : DmaF) (d : Disp) : (dmaIssue s n f d).fixed = s.fixed := by
  unfold dmaIssue
  simp

@[simp] theorem State.readRow_fixed (s : State) (n : Nat) (r : Nat × Nat) : (State.readRow s n r).2.2.2.fixed = s.fixed := by
  unfold State.readRow
  (try simp only)
  (repeat' split) <;> simp <;> done

@[simp] theorem State.loseBelow_fixed (s : State) (k : Cmd) (off : Nat) (len : Nat) : (State.loseBelow s k off len).fixed = s.fixed := by
  unfold State.loseBelow
  simp

@[simp] theorem State.writeRow_fixed (s : State) (n : Nat) (a : Nat) (bs : List Byte) (flags : List Bool) : (State.writeRow s n a bs flags).fixed = s.fixed := by
  unfold State.writeRow
  (try simp only)
  (repeat' split) <;> simp <;> done

@[simp] theorem State.copyRows_fixed (n : Nat) (l : List ((Nat × Nat) × (Nat × Nat))) :
    ∀ (s : State), (s.copyRows n l).1.fixed = s.fixed := by
  induction l with
  | nil => exact fun _ => rfl
  | cons x l ih => intro s; simp [State.copyRows, ih]

@[simp] theorem State.fillRows_fixed (s : State) (n : Nat) (d : DDesc) : (State.fillRows s n d).fixed = s.fixed := by
  unfold State.fillRows
  simp

@[simp] theorem State.pieceRows_fixed (n : Nat) (l : List (Nat × Nat)) :
    ∀ (s : State) (data : List Byte) (flags : List Bool), (s.pieceRows n data flags l).fixed = s.fixed := by
  induction l with
  | nil => exact fun _ _ _ => rfl
  | cons x l ih => intro s data flags; simp [State.pieceRows, ih]

@[simp] theorem State.dmaDrop_fixed (s : State) (n : Nat) (sn : Nat) : (State.dmaDrop s n sn).fixed = s.fixed := by
  unfold State.dmaDrop
  simp

@[simp] theorem dmaRelease_fixed (s : State) (n : Nat) (f : Flight) (ts : BitVec 6) : (dmaRelease s n f ts).fixed = s.fixed := by
  unfold dmaRelease
  simp

@[simp] theorem State.setRingQ_fixed (s : State) (slot : Nat) (ring : Nat) (ps : List Piece) : (State.setRingQ s slot ring ps).fixed = s.fixed := by
  unfold State.setRingQ
  simp

@[simp] theorem State.pieceRead_fixed (s : State) (slot : Nat) (ring : Nat) (p : Piece) : (State.pieceRead s slot ring p).2.2.2.fixed = s.fixed := by
  unfold State.pieceRead
  (try simp only)
  (repeat' split) <;> simp <;> done

@[simp] theorem State.putPiece_fixed (s : State) (slot ring : Nat) (pass : Word) (core : BitVec 4) (data : List Byte) :
    (s.putPiece slot ring pass core data).fixed = s.fixed := by
  simp only [State.putPiece]
  split
  · rfl
  · simp only [State.setRingQ_fixed]
    exact accFold_fixed (fun (x : List Byte × State) => x.2) _ (fun b a => State.writeRam_fixed _ _ _ _) _ (data, s)

@[simp] theorem ringTake_fixed (s : State) (n : Nat) (f : Flight) : (ringTake s n f).fixed = s.fixed := by
  simp only [ringTake]
  split
  · rfl
  · (repeat' split) <;> simp

@[simp] theorem State.scramblePlace_fixed (s : State) (n : Nat) (r : Nat × Nat) : (State.scramblePlace s n r).fixed = s.fixed := by
  unfold State.scramblePlace
  (try simp only)
  (repeat' split) <;> simp <;> done

@[simp] theorem State.scrambleMap_fixed (s : State) (n : Nat) (rs : List (Nat × Nat)) : (State.scrambleMap s n rs).fixed = s.fixed := by
  unfold State.scrambleMap
  simp

@[simp] theorem State.undefine_fixed (s : State) (n : Nat) : (State.undefine s n).fixed = s.fixed := by
  unfold State.undefine
  simp

@[simp] theorem State.take_fixed (s : State) (k : Cmd) : (State.take s k).fixed = s.fixed := by
  unfold State.take
  simp

@[simp] theorem State.clearPart_fixed (s : State) (n : Nat) (ctx : BitVec 6) : (State.clearPart s n ctx).fixed = s.fixed := by
  unfold State.clearPart
  simp

@[simp] theorem State.clearCodec_fixed (s : State) (n : Nat) : (State.clearCodec s n).fixed = s.fixed := by
  unfold State.clearCodec
  simp

@[simp] theorem State.clearParts_fixed (s : State) (slot : Nat) (ctx : BitVec 6) : (State.clearParts s slot ctx).fixed = s.fixed := by
  unfold State.clearParts
  simp

@[simp] theorem State.dropPieces_fixed (s : State) (slot : BitVec 3) (no : Word) : (State.dropPieces s slot no).fixed = s.fixed := by
  unfold State.dropPieces
  simp

@[simp] theorem State.dropPass_fixed (s : State) (p : Pass) : (State.dropPass s p).fixed = s.fixed := by
  unfold State.dropPass
  simp

@[simp] theorem State.startPass_fixed (s : State) (r : CmdRef) (slot : Nat) (sched : Nat) (m : Nat) : (State.startPass s r slot sched m).2.fixed = s.fixed := by
  unfold State.startPass
  (try simp only)
  (repeat' split) <;> simp <;> done

@[simp] theorem State.freeUnnamed_fixed (s : State) (m : Nat) (hs : List Nat) : (State.freeUnnamed s m hs).fixed = s.fixed := by
  unfold State.freeUnnamed
  simp

@[simp] theorem State.dropOld_fixed (s : State) (m : Nat) : (State.dropOld s m).fixed = s.fixed := by
  unfold State.dropOld
  simp

@[simp] theorem State.runAhead_fixed (s : State) (p : Pass) : (State.runAhead s p).fixed = s.fixed := by
  unfold State.runAhead
  simp

@[simp] theorem State.endPass_fixed (s : State) (r : CmdRef) (ok : Bool) : (State.endPass s r ok).fixed = s.fixed := by
  unfold State.endPass
  (try simp only)
  (repeat' split) <;> simp <;> done

@[simp] theorem State.startCore_fixed (s : State) (k : Cmd) (b : List Byte) (arg : Nat) (n : Nat) : (State.startCore s k b arg n).fixed = s.fixed := by
  unfold State.startCore
  simp

@[simp] theorem State.placeAndStart_fixed (s : State) (k : Cmd) (args : List Byte) : (State.placeAndStart s k args).fixed = s.fixed := by
  unfold State.placeAndStart
  simp

@[simp] theorem State.endBefore_fixed (s : State) (r : CmdRef) (status : Nat) : (State.endBefore s r status).fixed = s.fixed := by
  unfold State.endBefore
  simp

@[simp] theorem State.endBeforeWith_fixed (s : State) (r : CmdRef) (codes : List Nat) : (State.endBeforeWith s r codes).fixed = s.fixed := by
  unfold State.endBeforeWith
  simp

@[simp] theorem State.runBegin_fixed (s : State) (k : Cmd) : (State.runBegin s k).fixed = s.fixed := by
  unfold State.runBegin
  (try simp only)
  (repeat' split) <;> simp <;> done

@[simp] theorem State.runWaiting_fixed (s : State) (k : Cmd) : (State.runWaiting s k).fixed = s.fixed := by
  unfold State.runWaiting
  simp

@[simp] theorem State.runPlacing_fixed (s : State) (k : Cmd) : (State.runPlacing s k).fixed = s.fixed := by
  unfold State.runPlacing
  (try simp only)
  (repeat' split) <;> simp <;> done

@[simp] theorem State.endRun_fixed (s : State) (k : Cmd) (conds : List Nat) : (State.endRun s k conds).fixed = s.fixed := by
  unfold State.endRun
  simp

@[simp] theorem State.keyDestroyTry_fixed (s : State) : (State.keyDestroyTry s).fixed = s.fixed := by
  unfold State.keyDestroyTry
  (try simp only)
  (repeat' split) <;> simp <;> done

@[simp] theorem State.finishRecord_fixed (s : State) (r : CmdRef) : (State.finishRecord s r).fixed = s.fixed := by
  unfold State.finishRecord
  (try simp only)
  (repeat' split) <;> simp <;> done

@[simp] theorem State.byHost_fixed (s : State) (t : State) (h_t : t.fixed = s.fixed) : (State.byHost s t).fixed = s.fixed := by
  unfold State.byHost
  (try simp only)
  (repeat' split) <;> simp_all

@[simp] theorem State.hifErr_fixed (s : State) (kind : Nat) (ctx : Nat) (spool : Nat) (idx : Nat) : (State.hifErr s kind ctx spool idx).fixed = s.fixed := by
  unfold State.hifErr
  simp

@[simp] theorem State.newTail_fixed (s : State) (c : Nat) (p : Nat) (tail : Nat) : (State.newTail s c p tail).fixed = s.fixed := by
  unfold State.newTail
  simp

@[simp] theorem State.askEntry_fixed (s : State) (c : Nat) (p : Nat) : (State.askEntry s c p).fixed = s.fixed := by
  unfold State.askEntry
  simp

@[simp] theorem State.fetchFails_fixed (s : State) (c : Nat) (p : Nat) : (State.fetchFails s c p).fixed = s.fixed := by
  unfold State.fetchFails
  simp

@[simp] theorem State.stopRun_fixed (s : State) (r : CmdRef) (status : Nat) : (State.stopRun s r status).fixed = s.fixed := by
  unfold State.stopRun
  simp

@[simp] theorem State.abortCmd_fixed (s : State) (k : Cmd) : (State.abortCmd s k).fixed = s.fixed := by
  unfold State.abortCmd
  simp

@[simp] theorem State.abortUnstarted_fixed (s : State) (of : Cmd → Bool) : (State.abortUnstarted s of).fixed = s.fixed := by
  unfold State.abortUnstarted
  simp

@[simp] theorem State.sameCycleFetch_fixed (s : State) (data : RegData) : (State.sameCycleFetch s data).fixed = s.fixed := by
  unfold State.sameCycleFetch
  simp

@[simp] theorem State.openKey_fixed (s : State) (c : Nat) : (State.openKey s c).fixed = s.fixed := by
  unfold State.openKey
  simp

@[simp] theorem State.markWaiting_fixed (s : State) (r : CmdRef) : (State.markWaiting s r).fixed = s.fixed := by
  unfold State.markWaiting
  simp

@[simp] theorem State.seqOp_fixed (s : State) (k : Cmd) (more : List Nat) (go : State) (h_go : go.fixed = s.fixed) : (State.seqOp s k more go).fixed = s.fixed := by
  unfold State.seqOp
  (try simp only)
  (repeat' split) <;> simp_all

@[simp] theorem State.okOr_fixed (s : State) (k : Cmd) (ok : Bool) (t : State) (h_t : t.fixed = s.fixed) : (State.okOr s k ok t).fixed = s.fixed := by
  unfold State.okOr
  (try simp only)
  (repeat' split) <;> simp_all

@[simp] theorem State.doCreate_fixed (s : State) (k : Cmd) : (State.doCreate s k).fixed = s.fixed := by
  unfold State.doCreate
  simp

@[simp] theorem State.addRefs_fixed (s : State) (ps : List PageId) : (State.addRefs s ps).fixed = s.fixed := by
  unfold State.addRefs
  simp

@[simp] theorem State.dropRefs_fixed (s : State) (ps : List PageId) : (State.dropRefs s ps).fixed = s.fixed := by
  unfold State.dropRefs
  simp

@[simp] theorem State.doFork_fixed (s : State) (k : Cmd) : (State.doFork s k).fixed = s.fixed := by
  unfold State.doFork
  simp

@[simp] theorem State.hitRun_fixed (s : State) (n : Nat) : (State.hitRun s n).fixed = s.fixed := by
  unfold State.hitRun
  (try simp only)
  (repeat' split) <;> simp <;> done

@[simp] theorem State.cutOp_fixed (s : State) (k : Cmd) (go : State) (h_go : go.fixed = s.fixed) : (State.cutOp s k go).fixed = s.fixed := by
  unfold State.cutOp
  (try simp only)
  (repeat' split) <;> simp_all

@[simp] theorem State.truncated_fixed (s : State) (n : Nat) (to_ : Nat) : (State.truncated s n to_).fixed = s.fixed := by
  unfold State.truncated
  simp

@[simp] theorem State.doTruncate_fixed (s : State) (k : Cmd) : (State.doTruncate s k).fixed = s.fixed := by
  unfold State.doTruncate
  simp

@[simp] theorem State.dropped_fixed (s : State) (n : Nat) : (State.dropped s n).fixed = s.fixed := by
  unfold State.dropped
  simp

@[simp] theorem State.doDrop_fixed (s : State) (k : Cmd) : (State.doDrop s k).fixed = s.fixed := by
  unfold State.doDrop
  simp

theorem State.sendPages_fixed (slot : Nat) (q : Seq) (host : Nat) (full : Bool) (l : List (Nat × Nat × Page)) :
    ∀ (s t : State), s.sendPages slot q host full l = some t → t.fixed = s.fixed := by
  induction l with
  | nil => intro s t h; simp only [State.sendPages, Option.some.injEq] at h; subst h; rfl
  | cons x l ih =>
    intro s t h
    obtain ⟨z, off, pg⟩ := x
    simp only [State.sendPages] at h
    split at h
    · exact ih _ _ h
    · split at h
      · cases h
      · simpa using ih _ _ h

theorem State.writeBack_fixed (s : State) (n host : Nat) (full : Bool) (r : Nat × State)
    (h : s.writeBack n host full = some r) : r.2.fixed = s.fixed := by
  simp only [State.writeBack] at h
  split at h
  · cases h
  · next s1 h1 => cases h; simpa using State.sendPages_fixed _ _ _ _ _ _ _ h1

@[simp] theorem State.endResult_fixed (s : State) (r : CmdRef) (result : Nat) : (State.endResult s r result).fixed = s.fixed := by
  unfold State.endResult
  simp

@[simp] theorem State.doWriteback_fixed (s : State) (k : Cmd) (full : Bool) (after : State → Nat → State)
    (ha : ∀ t n, (after t n).fixed = t.fixed) : (s.doWriteback k full after).fixed = s.fixed := by
  simp only [State.doWriteback]
  split
  · simp
  · split
    · simp
    · next b s1 h => simpa [ha] using State.writeBack_fixed _ _ _ _ _ h

@[simp] theorem State.evicted_fixed (s : State) (n : Nat) (host : Nat) (bytes : Nat) : (State.evicted s n host bytes).fixed = s.fixed := by
  unfold State.evicted
  simp

@[simp] theorem State.imageShape_fixed (s : State) (q : Seq) (plain : List Byte) : (State.imageShape s q plain).2.2.fixed = s.fixed := by
  unfold State.imageShape
  (try simp only)
  (repeat' split) <;> simp <;> done

@[simp] theorem State.fillPages_fixed (s : State) (q : Seq) (units : List Nat) (bytesOf : Nat → List Byte) : (State.fillPages s q units bytesOf).fixed = s.fixed := by
  unfold State.fillPages
  simp

theorem State.splitRow_fixed (q : Seq) (start z : Nat) (pageOf : Nat → List Byte) (n : Nat) :
    ∀ (s : State) (j : Nat) (r : List Row × State), s.splitRow q start z pageOf n j = some r → r.2.fixed = s.fixed := by
  induction n with
  | zero => intro s j r h; simp only [State.splitRow, Option.some.injEq] at h; subst h; rfl
  | succ n ih =>
    intro s j r h
    simp only [State.splitRow] at h
    split at h
    · cases h
    · next us s1 h1 =>
      split at h
      · cases h
      · next rs s3 h3 =>
        cases h
        have := ih _ _ _ h3
        simp only [State.fillPages_fixed] at this
        exact this.trans (State.allocRow_fixed _ _ _ _ _ _ h1)

theorem State.restoreRows_fixed (q : Seq) (img : List Byte) (l : List (Nat × Nat)) :
    ∀ (s : State) (off : Nat) (r : List Row × Bool × State), s.restoreRows q img l off = some r → r.2.2.fixed = s.fixed := by
  induction l with
  | nil => intro s off r h; simp only [State.restoreRows, Option.some.injEq] at h; subst h; rfl
  | cons x l ih =>
    intro s off r h
    obtain ⟨start, z⟩ := x
    simp only [State.restoreRows] at h
    split at h
    · cases h
    · next rs sp s1 h1 =>
      have h2 : s1.fixed = s.fixed := by
        split at h1
        · next us s2 hs => cases h1; simpa using State.allocRow_fixed _ _ _ _ _ _ hs
        · obtain ⟨a, ha, hb⟩ := Option.map_eq_some_iff.1 h1
          cases hb
          exact State.splitRow_fixed _ _ _ _ _ _ _ _ ha
      split at h
      · cases h
      · next h3 => cases h; exact (ih _ _ _ h3).trans h2

@[simp] theorem State.doRestore_fixed (s : State) (k : Cmd) (data : List Byte) : (s.doRestore k data).fixed = s.fixed := by
  simp only [State.doRestore]
  split
  · simp
  · split
    · simp
    · next rows sp s1 h =>
      have h2 := State.restoreRows_fixed _ _ _ _ _ _ h
      simp only [State.imageShape_fixed] at h2
      split <;> simp [h2]

@[simp] theorem State.restoreLost_fixed (s : State) (k : Cmd) : (State.restoreLost s k).fixed = s.fixed := by
  unfold State.restoreLost
  simp

@[simp] theorem State.restoreStep_fixed (s : State) (k : Cmd) : (State.restoreStep s k).fixed = s.fixed := by
  unfold State.restoreStep
  simp

@[simp] theorem State.cfgErr_fixed (s : State) : (State.cfgErr s).fixed = s.fixed := by
  unfold State.cfgErr
  simp

@[simp] theorem State.modelCmd_fixed (s : State) (r : CmdRef) (op : Nat) (ok : Cmd → Bool) (act : Cmd → State) (h_act : ∀ x0, (act x0).fixed = s.fixed) : (State.modelCmd s r op ok act).fixed = s.fixed := by
  unfold State.modelCmd
  (try simp only)
  (repeat' split) <;> simp_all

@[simp] theorem State.dropAhead_fixed (s : State) (m : Nat) : (State.dropAhead s m).fixed = s.fixed := by
  unfold State.dropAhead
  simp

@[simp] theorem State.forgetModel_fixed (s : State) (m : Nat) : (State.forgetModel s m).fixed = s.fixed := by
  unfold State.forgetModel
  simp

@[simp] theorem State.doMcreate_fixed (s : State) (k : Cmd) : (State.doMcreate s k).fixed = s.fixed := by
  unfold State.doMcreate
  simp

theorem State.alloc_fixed (s : State) (m n : Nat) (r : Nat × State) (h : s.alloc m n = some r) : r.2.fixed = s.fixed := by
  unfold State.alloc at h
  have e := State.freshHandle_fixed s
  generalize s.freshHandle = o at h e
  cases o with
  | none => cases h
  | some x =>
    obtain ⟨a, ha, rfl⟩ := Option.map_eq_some_iff.1 h
    exact (State.setExtent_fixed _ _ _).trans ((State.takeStripes_fixed _ _ _ ha).trans (e x rfl))

@[simp] theorem State.doMextent_fixed (s : State) (k : Cmd) : (s.doMextent k).fixed = s.fixed := by
  simp only [State.doMextent]
  split
  · simp
  · split
    · simp
    · next a h => simpa using State.alloc_fixed _ _ _ _ h

@[simp] theorem State.accept_fixed (s : State) (h : Nat) (o : Nat) (data : List Byte) (pad : Bool) : (State.accept s h o data pad).fixed = s.fixed := by
  unfold State.accept
  simp

@[simp] theorem State.programRun_fixed (h first lowest : Nat) (data : List Byte) (n : Nat) :
    ∀ (s : State) (i : Nat), (s.programRun h first lowest data n i).1.fixed = s.fixed := by
  induction n with
  | zero => exact fun _ _ => rfl
  | succ n ih =>
    intro s i
    simp only [State.programRun]
    split
    · rfl
    · split
      · rfl
      · split
        · rfl
        · simp [ih]

@[simp] theorem State.mwriteGo_fixed (s : State) (k : Cmd) (data : List Byte) : (State.mwriteGo s k data).fixed = s.fixed := by
  unfold State.mwriteGo
  (try simp only)
  (repeat' split) <;> simp <;> done

@[simp] theorem State.doMwrite_fixed (s : State) (k : Cmd) : (State.doMwrite s k).fixed = s.fixed := by
  unfold State.doMwrite
  simp

@[simp] theorem State.seal_fixed (s : State) (h : Nat) : (State.seal s h).fixed = s.fixed := by
  unfold State.seal
  simp

@[simp] theorem State.msealEnd_fixed (s : State) (k : Cmd) : (State.msealEnd s k).fixed = s.fixed := by
  unfold State.msealEnd
  (try simp only)
  (repeat' split) <;> simp <;> done

@[simp] theorem State.doMseal_fixed (s : State) (k : Cmd) : (State.doMseal s k).fixed = s.fixed := by
  unfold State.doMseal
  simp

@[simp] theorem State.mtableGo_fixed (s : State) (k : Cmd) (data : List Byte) : (State.mtableGo s k data).fixed = s.fixed := by
  unfold State.mtableGo
  (try simp only)
  (repeat' split) <;> simp <;> done

@[simp] theorem State.doMtable_fixed (s : State) (k : Cmd) : (State.doMtable s k).fixed = s.fixed := by
  unfold State.doMtable
  simp

theorem State.loadStart_fixed (s : State) (m : Nat) (r : Option CmdRef) (t : State) (h : s.loadStart m r = some t) :
    t.fixed = s.fixed := by
  simp only [State.loadStart] at h
  split at h
  · cases h; simp
  · obtain ⟨a, -, rfl⟩ := Option.map_eq_some_iff.1 h
    simp

@[simp] theorem State.doMload_fixed (s : State) (k : Cmd) : (s.doMload k).fixed = s.fixed := by
  simp only [State.doMload]
  split
  · rfl
  · split
    · simp
    · split
      · simp
      · split
        · simp
        · next t h =>
          have h2 := State.loadStart_fixed _ _ _ _ h
          simp only [State.startCmd_fixed] at h2
          split <;> simp [h2]

@[simp] theorem State.loadEnd_fixed (s : State) (r : Option CmdRef) (status : Nat) : (State.loadEnd s r status).fixed = s.fixed := by
  unfold State.loadEnd
  (try simp only)
  (repeat' split) <;> simp <;> done

@[simp] theorem State.unload_fixed (s : State) (m : Nat) : (State.unload s m).fixed = s.fixed := by
  unfold State.unload
  simp

@[simp] theorem State.doMunload_fixed (s : State) (k : Cmd) : (State.doMunload s k).fixed = s.fixed := by
  unfold State.doMunload
  simp

@[simp] theorem State.doMfree_fixed (s : State) (k : Cmd) : (State.doMfree s k).fixed = s.fixed := by
  unfold State.doMfree
  simp

@[simp] theorem State.doMxfree_fixed (s : State) (k : Cmd) : (State.doMxfree s k).fixed = s.fixed := by
  unfold State.doMxfree
  simp

theorem State.patchLoad_ok_fixed (s : State) (m : Nat) (ls : List (List Byte)) (r : List Nat × State)
    (h : s.patchLoad m ls = .ok r) : r.2.fixed = s.fixed := by
  simp only [State.patchLoad] at h
  split at h
  · cases h; rfl
  · split at h
    · cases h
    · split at h
      · cases h
      · next t ht => cases h; exact State.mirFill_fixed _ _ _ ht

theorem State.patchLoad_fixed (s : State) (m : Nat) (ls : List (List Byte)) (r : Nat × State)
    (h : s.patchLoad m ls = .error r) : r.2.fixed = s.fixed := by
  simp only [State.patchLoad] at h
  split at h
  · cases h
  · split at h
    · cases h; rfl
    · split at h
      · cases h; simp
      · cases h

@[simp] theorem State.patchGo_fixed (s : State) (k : Cmd) (data : List Byte) : (s.patchGo k data).fixed = s.fixed := by
  simp only [State.patchGo]
  split
  · simp
  · split
    · rfl
    · split
      · simp
      · split
        · next c t h => simpa using State.patchLoad_fixed _ _ _ _ h
        · next mir t h => simpa using State.patchLoad_ok_fixed _ _ _ _ h

@[simp] theorem State.doPatch_fixed (s : State) (k : Cmd) : (State.doPatch s k).fixed = s.fixed := by
  unfold State.doPatch
  simp

@[simp] theorem State.bsFailed_fixed (s : State) (k : Cmd) (status : Nat) : (State.bsFailed s k status).fixed = s.fixed := by
  unfold State.bsFailed
  simp

@[simp] theorem State.bsErr_fixed (s : State) (slot : Nat) (sec : Nat) (off : Nat) : (State.bsErr s slot sec off).fixed = s.fixed := by
  unfold State.bsErr
  simp

@[simp] theorem State.copyBs_fixed (s : State) (slot : Nat) (image : List Byte) : (State.copyBs s slot image).fixed = s.fixed := by
  unfold State.copyBs
  (try simp only)
  (repeat' split) <;> simp <;> done

@[simp] theorem State.bsloadGo_fixed (s0 : State) (k : Cmd) (image : List Byte) : (State.bsloadGo s0 k image).fixed = s0.fixed := by
  unfold State.bsloadGo
  (try simp only)
  (repeat' split) <;> simp <;> done

@[simp] theorem State.doBsload_fixed (s : State) (k : Cmd) : (State.doBsload s k).fixed = s.fixed := by
  unfold State.doBsload
  (try simp only)
  (repeat' split) <;> simp <;> done

@[simp] theorem State.releaseParts_fixed (s : State) (slot : Nat) : (State.releaseParts s slot).fixed = s.fixed := by
  unfold State.releaseParts
  simp

@[simp] theorem State.releaseChans_fixed (s : State) (slot : Nat) : (State.releaseChans s slot).fixed = s.fixed := by
  unfold State.releaseChans
  simp

@[simp] theorem State.releasePasses_fixed (s : State) (slot : Nat) : (State.releasePasses s slot).fixed = s.fixed := by
  unfold State.releasePasses
  simp

@[simp] theorem State.deactivate_fixed (s : State) (slot : Nat) : (State.deactivate s slot).fixed = s.fixed := by
  unfold State.deactivate
  simp

@[simp] theorem State.assignPart_fixed (s : State) (slot : Nat) (p : PartRec) : (State.assignPart s slot p).fixed = s.fixed := by
  unfold State.assignPart
  (try simp only)
  (repeat' split) <;> simp <;> done

@[simp] theorem State.assignChan_fixed (s : State) (slot : Nat) (c : ChanRec) : (State.assignChan s slot c).fixed = s.fixed := by
  unfold State.assignChan
  simp

@[simp] theorem State.activate_fixed (s : State) (slot : Nat) : (State.activate s slot).fixed = s.fixed := by
  unfold State.activate
  simp

@[simp] theorem State.disown_fixed (s : State) : (State.disown s).fixed = s.fixed := by
  unfold State.disown
  simp

@[simp] theorem State.backgroundOff_fixed (before : State) (s : State) (h_s : s.fixed = before.fixed) : (State.backgroundOff before s).fixed = before.fixed := by
  unfold State.backgroundOff
  (try simp only)
  (repeat' split) <;> simp_all

@[simp] theorem State.ulkErr_fixed (s : State) (kind : Nat) (port : Nat) : (State.ulkErr s kind port).fixed = s.fixed := by
  unfold State.ulkErr
  simp

@[simp] theorem State.checkQueue_fixed (s : State) (slot : Nat) : (State.checkQueue s slot).fixed = s.fixed := by
  unfold State.checkQueue
  simp

@[simp] theorem State.beginSwitch_fixed (s : State) (k : Cmd) : (State.beginSwitch s k).fixed = s.fixed := by
  unfold State.beginSwitch
  simp

@[simp] theorem State.endSwitch_fixed (s : State) (slot : Nat) (mask : BitVec 8) : (State.endSwitch s slot mask).fixed = s.fixed := by
  unfold State.endSwitch
  simp

@[simp] theorem State.abandonSwitches_fixed (s : State) (n : Nat) : (s.abandonSwitches n).fixed = s.fixed := by
  unfold State.abandonSwitches
  refine foldl_fixed _ (fun s i => ?_) _ s
  dsimp only
  split
  · rfl
  · split <;> simp

@[simp] theorem State.doBsact_fixed (s : State) (k : Cmd) : (State.doBsact s k).fixed = s.fixed := by
  unfold State.doBsact
  simp

@[simp] theorem State.doBsfree_fixed (s : State) (k : Cmd) : (State.doBsfree s k).fixed = s.fixed := by
  unfold State.doBsfree
  (try simp only)
  (repeat' split) <;> simp <;> done

@[simp] theorem State.bsReload_fixed (s : State) (slot : Nat) : (State.bsReload s slot).fixed = s.fixed := by
  unfold State.bsReload
  simp

@[simp] theorem State.touchExtent_fixed (s : State) (h : Nat) : (State.touchExtent s h).fixed = s.fixed := by
  unfold State.touchExtent
  simp

@[simp] theorem State.setHostGranule_fixed (s : State) (no : Nat) (m : Nat) (g : Nat) (d : Option (List Byte)) : (State.setHostGranule s no m g d).fixed = s.fixed := by
  unfold State.setHostGranule
  simp

@[simp] theorem State.modPass_fixed (s : State) (no : Word) (f : Pass → Pass) : (State.modPass s no f).fixed = s.fixed := by
  unfold State.modPass
  simp

@[simp] theorem State.dropWaitingRings_fixed (s : State) (r : CmdRef) : (State.dropWaitingRings s r).fixed = s.fixed := by
  unfold State.dropWaitingRings
  simp

@[simp] theorem State.failPass_fixed (s : State) (p : Pass) (code : Nat) : (State.failPass s p code).fixed = s.fixed := by
  unfold State.failPass
  (try simp only)
  (repeat' split) <;> simp <;> done

@[simp] theorem State.countReads_fixed (s : State) (rd : Reads) : (s.countReads rd).fixed = s.fixed := by
  unfold State.countReads
  exact (foldl_fixed _ (fun s m => State.bump_fixed s _ _ _ _) _ _).trans (by simp)

/-- The state that a granule or a piece leaves. -/
def Got.st : Got → State
  | .ok _ _ t => t
  | .fail _ t => t
  | .wait t => t

theorem State.flashGot_fixed (s : State) (owner h o n : Nat) : (s.flashGot owner h o n).st.fixed = s.fixed := by
  simp only [State.flashGot]
  (repeat' split) <;> simp [Got.st]

theorem State.flashGot_ok {s : State} {owner h o n : Nat} {d : List Byte} {rd : Reads} {t : State} (e : s.flashGot owner h o n = .ok d rd t) :
    t.fixed = s.fixed := by have := s.flashGot_fixed owner h o n; rwa [e] at this

theorem State.mirrorRepair_fixed (s : State) (owner h cw off : Nat) : (s.mirrorRepair owner h cw off).st.fixed = s.fixed := by
  have := s.flashGot_fixed owner h cw 1
  simp only [State.mirrorRepair]
  split <;> rename_i e <;> rw [e] at this <;> simpa [Got.st] using this

theorem State.mirrorGot_fixed (s : State) (g : SegRef) (k cw : Nat) : (s.mirrorGot g k cw).st.fixed = s.fixed := by
  simp only [State.mirrorGot]
  split
  · exact s.mirrorRepair_fixed _ _ _ _
  · split <;> simp [Got.st]

theorem State.hostGot_fixed (s : State) (no m g : Nat) : (s.hostGot no m g).st.fixed = s.fixed := by
  simp only [State.hostGot]
  split <;> simp [Got.st]

theorem State.plainGot_fixed (s : State) (no : Nat) (g : SegRef) (i : Nat) : (s.plainGot no g i).st.fixed = s.fixed := by
  simp only [State.plainGot]
  split
  · exact s.flashGot_fixed _ _ _ _
  · exact s.mirrorGot_fixed _ _ _
  · exact s.hostGot_fixed _ _ _

theorem State.frameGot_fixed (s : State) (g : SegRef) (e : Word) : (s.frameGot g e).st.fixed = s.fixed := by
  simp only [State.frameGot]
  split
  · rfl
  · split
    · next h => exact State.flashGot_ok h
    · exact s.flashGot_fixed _ _ _ _

theorem State.diffGot_fixed (s : State) (no : Nat) (g base : SegRef) (i : Nat) : (s.diffGot no g base i).st.fixed = s.fixed := by
  simp only [State.diffGot]
  split
  · next idx r1 s1 h1 =>
    have e1 := State.flashGot_ok h1
    have e2 := s1.frameGot_fixed g (w32 (leAt idx (4 * i % 4096) 4))
    split
    · next s2 h2 =>
      rw [h2] at e2
      have e3 := s2.plainGot_fixed no base i
      split
      · next s3 h3 =>
        rw [h3] at e3
        simp only [Got.st] at e2 e3
        split <;> simp [Got.st, e1, e2, e3]
      · exact e3.trans (e2.trans e1)
    · exact e2.trans e1
  · exact s.flashGot_fixed _ _ _ _

theorem State.granuleGot_fixed (s : State) (p : Pass) (layer seg i : Nat) : (s.granuleGot p layer seg i).st.fixed = s.fixed := by
  simp only [State.granuleGot]
  split
  · rfl
  · split
    · exact s.plainGot_fixed _ _ _
    · split
      · rfl
      · exact s.diffGot_fixed _ _ _ _

theorem State.granulesGot_fixed (p : Pass) (layer seg n : Nat) :
    ∀ (s : State) (i : Nat), (s.granulesGot p layer seg n i).st.fixed = s.fixed := by
  induction n with
  | zero => exact fun _ _ => rfl
  | succ n ih =>
    intro s i
    simp only [State.granulesGot]
    have e1 := s.granuleGot_fixed p layer seg i
    split
    · next s1 h1 =>
      rw [h1] at e1
      have e2 := ih s1 (i + 1)
      split
      · next h2 => rw [h2] at e2; exact e2.trans e1
      · exact e2.trans e1
    · exact e1

theorem State.bytesGot_fixed (s : State) (p : Pass) (layer seg off len : Nat) : (s.bytesGot p layer seg off len).st.fixed = s.fixed := by
  simp only [State.bytesGot]
  have e1 := s.granulesGot_fixed p layer seg ((off + len - 1) / 4096 - off / 4096 + 1) (i := off / 4096)
  split
  · next h => rw [h] at e1; exact e1
  · exact e1

@[simp] theorem State.stage_fixed (s : State) (p : Pass) (ring i : Nat) (e : SEntry) (x k : Nat) :
    (s.stage p ring i e x k).fixed = s.fixed := by
  simp only [State.stage]
  split
  · rfl
  · have e1 := s.bytesGot_fixed p e.layer e.seg (s.pieceOff p i e x k) e.piece
    split <;> rename_i h <;> rw [h] at e1 <;> simp only [Got.st] at e1
    · simp only [State.modPass_fixed, State.putPiece_fixed, State.countReads_fixed]
      exact (foldl_fixed _ (fun s g => State.setHostGranule_fixed s _ _ _ _) _ _).trans e1
    · simp [e1]
    · simp

theorem State.newAhead_fixed (s : State) (slot : Nat) (r : Pass × State) (h : s.newAhead slot = some r) : r.2.fixed = s.fixed := by
  simp only [State.newAhead] at h
  split at h
  · cases h
  · split at h
    · cases h
    · cases h; rfl

@[simp] theorem State.stageNext_fixed (s : State) (p : Pass) (ring : Nat) : (State.stageNext s p ring).fixed = s.fixed := by
  unfold State.stageNext
  (try simp only)
  (repeat' split) <;> simp <;> done

@[simp] theorem State.takeRoute_fixed (s : State) (p : Pass) (i : Nat) (e : SEntry) (off : Nat) : (State.takeRoute s p i e off).fixed = s.fixed := by
  unfold State.takeRoute
  simp

@[simp] theorem State.hostFailed_fixed (s : State) (no : Nat) (m : Nat) (g : Nat) : (State.hostFailed s no m g).fixed = s.fixed := by
  unfold State.hostFailed
  simp

@[simp] theorem State.wrgTake_fixed (s : State) : (State.wrgTake s).fixed = s.fixed := by
  unfold State.wrgTake
  (try simp only)
  (repeat' split) <;> simp <;> done

@[simp] theorem State.wrgFill_fixed (s : State) : (State.wrgFill s).fixed = s.fixed := by
  unfold State.wrgFill
  simp

@[simp] theorem State.releaseRing_fixed (s : State) (slot : BitVec 3) (ring : BitVec 4) : (State.releaseRing s slot ring).fixed = s.fixed := by
  unfold State.releaseRing
  simp

@[simp] theorem State.stageUnit_fixed (s : State) (p : Pass) (slot : BitVec 3) (ring : BitVec 4) : (State.stageUnit s p slot ring).fixed = s.fixed := by
  unfold State.stageUnit
  simp

@[simp] theorem opMgl_fixed (s : State) (n : Nat) (k : Core) (i : CoreInstr) : ((opMgl s n k i).getD s).fixed = s.fixed := by
  unfold opMgl
  (repeat' split) <;> simp

@[simp] theorem State.scrambleDest_fixed (s : State) (n : Nat) (rs : List (Nat × Nat)) : (State.scrambleDest s n rs).fixed = s.fixed := by
  unfold State.scrambleDest
  simp

@[simp] theorem mglIssue_fixed (s : State) (n : Nat) (f : MglF) (d : Disp) : (mglIssue s n f d).fixed = s.fixed := by
  unfold mglIssue
  simp

@[simp] theorem State.writeEach_fixed (s : State) (m : MemSel) (ws : List (Nat × List Byte)) : (State.writeEach s m ws).fixed = s.fixed := by
  unfold State.writeEach
  simp

@[simp] theorem State.setGated_fixed (s : State) (i : Island) (b : Bool) : (State.setGated s i b).fixed = s.fixed := by
  unfold State.setGated
  (try simp only)
  (repeat' split) <;> simp <;> done

@[simp] theorem State.gatePoint_fixed (s : State) (n1 : Island) : (State.gatePoint s n1).fixed = s.fixed := by
  unfold State.gatePoint
  (try simp only)
  (repeat' split) <;> simp <;> done

@[simp] theorem State.setPatrol_fixed (s : State) (m : MemSel) (p : Nat) : (State.setPatrol s m p).fixed = s.fixed := by
  unfold State.setPatrol
  (try simp only)
  (repeat' split) <;> simp <;> done

@[simp] theorem State.patrolOn_fixed (s : State) (m : MemSel) : (State.patrolOn s m).fixed = s.fixed := by
  unfold State.patrolOn
  (try simp only)
  (repeat' split) <;> simp <;> done

@[simp] theorem State.dropFrames_fixed (s : State) (n : Nat) : (State.dropFrames s n).fixed = s.fixed := by
  unfold State.dropFrames
  simp

@[simp] theorem State.holdTags_fixed (s : State) (n : Nat) : (State.holdTags s n).fixed = s.fixed := by
  unfold State.holdTags
  simp

@[simp] theorem State.abandon_fixed (s : State) (n : Nat) : (State.abandon s n).fixed = s.fixed := by
  unfold State.abandon
  simp

@[simp] theorem State.dropLatches_fixed (s : State) (n : Nat) : (State.dropLatches s n).fixed = s.fixed := by
  unfold State.dropLatches
  simp

@[simp] theorem State.dropReads_fixed (s : State) (n : Nat) : (State.dropReads s n).fixed = s.fixed := by
  unfold State.dropReads
  simp

theorem State.tst_fixed (t : State) (x : Tst) : State.fixed { t with tst := x } = t.fixed := rfl

theorem foldRegs_fixed (n : Nat) (l : List Nat) (t : State) :
    (l.foldl (fun s off => s.setReg (coreOff n off) 0) t).fixed = t.fixed :=
  foldl_fixed _ (fun s _ => State.setReg_fixed s _ _) l t

@[simp] theorem State.endReads_fixed (s : State) : (State.endReads s).fixed = s.fixed := by
  unfold State.endReads
  simp

@[simp] theorem State.coreReset_fixed (s : State) (n : Nat) : (s.coreReset n).fixed = s.fixed := by
  simp only [State.coreReset]
  split <;> simp only [State.tstEnd_fixed, State.dropLatches_fixed] <;>
    exact (foldRegs_fixed _ _ _).trans (by simp only [State.setReg_fixed, State.setCore_fixed, State.endReads_fixed, State.dropReads_fixed])

@[simp] theorem State.discardCmd_fixed (s : State) (k : Cmd) (codes : List Nat) : (State.discardCmd s k codes).fixed = s.fixed := by
  unfold State.discardCmd
  (try simp only)
  (repeat' split) <;> simp <;> done

@[simp] theorem State.fence_fixed (s : State) (n : Nat) : (State.fence s n).fixed = s.fixed := by
  unfold State.fence
  simp

@[simp] theorem State.restoreChannels_fixed (s : State) (n : Nat) : (State.restoreChannels s n).fixed = s.fixed := by
  unfold State.restoreChannels
  simp

@[simp] theorem State.returnCore_fixed (s : State) (n : Nat) : (State.returnCore s n).fixed = s.fixed := by
  unfold State.returnCore
  simp

@[simp] theorem State.stopAll_fixed (s : State) : (State.stopAll s).fixed = s.fixed := by
  unfold State.stopAll
  simp

@[simp] theorem State.mcRollback_fixed (s : State) : (State.mcRollback s).fixed = s.fixed := by
  unfold State.mcRollback
  (try simp only)
  (repeat' split) <;> simp <;> done

@[simp] theorem State.endRetest_fixed (s : State) (n : Nat) : (State.endRetest s n).fixed = s.fixed := by
  unfold State.endRetest
  simp

@[simp] theorem State.collCtrl_fixed (s : State) (c : Coll) : (State.collCtrl s c).fixed = s.fixed := by
  unfold State.collCtrl
  simp

@[simp] theorem State.dropColl_fixed (s : State) (c : Coll) : (State.dropColl s c).fixed = s.fixed := by
  unfold State.dropColl
  (try simp only)
  (repeat' split) <;> simp <;> done

@[simp] theorem State.collStatus_fixed (s : State) (slot : Nat) (idx : Nat) (status : Nat) : (State.collStatus s slot idx status).fixed = s.fixed := by
  unfold State.collStatus
  simp

@[simp] theorem State.endColl_fixed (s : State) (c : Coll) (status : Nat) : (State.endColl s c status).fixed = s.fixed := by
  unfold State.endColl
  simp

@[simp] theorem State.cancelSys_fixed (s : State) (keys : List Nat) : (State.cancelSys s keys).fixed = s.fixed := by
  unfold State.cancelSys
  simp

@[simp] theorem State.dropQueue_fixed (s : State) (n : Nat) : (State.dropQueue s n).fixed = s.fixed := by
  unfold State.dropQueue
  simp

@[simp] theorem State.portDown_fixed (s : State) (n : Nat) : (State.portDown s n).fixed = s.fixed := by
  unfold State.portDown
  simp

@[simp] theorem State.trainPort_fixed (s : State) (n : Nat) (retrain : Bool) : (State.trainPort s n retrain).fixed = s.fixed := by
  unfold State.trainPort
  simp

@[simp] theorem State.byEither_fixed (s : State) (t : State) (h_t : t.fixed = s.fixed) : (State.byEither s t).fixed = s.fixed := by
  unfold State.byEither
  (try simp only)
  (repeat' split) <;> simp_all

@[simp] theorem State.replayAll_fixed (s : State) (n : Nat) : (State.replayAll s n).fixed = s.fixed := by
  unfold State.replayAll
  simp

@[simp] theorem State.linkWord_fixed (s : State) (n : Nat) (f : Flit) : (State.linkWord s n f).fixed = s.fixed := by
  unfold State.linkWord
  simp

@[simp] theorem State.discardFlit_fixed (s : State) (n : Nat) : (State.discardFlit s n).fixed = s.fixed := by
  unfold State.discardFlit
  simp

@[simp] theorem State.takeFlit_fixed (s : State) (n : Nat) (f : Flit) (vcOk : Bool) (fwd : Bool) (act : State → State) (h_act : ∀ t , (act t ).fixed = t.fixed) : (State.takeFlit s n f vcOk fwd act).fixed = s.fixed := by
  unfold State.takeFlit
  (try simp only)
  (repeat' split) <;> simp_all

@[simp] theorem State.sendRelease_fixed (s : State) (key : Nat) (data : List Byte) : (s.sendRelease key data).fixed = s.fixed := by
  unfold State.sendRelease
  refine foldl_fixed _ (fun s e => ?_) _ s
  split <;> simp

@[simp] theorem State.snapshot_fixed (s : State) (n : Nat) (sel : BitVec 8) : (State.snapshot s n sel).2.fixed = s.fixed := by
  unfold State.snapshot
  simp

@[simp] theorem State.releaseCore_fixed (s : State) (c : Chan) (n : Nat) : (State.releaseCore s c n).fixed = s.fixed := by
  unfold State.releaseCore
  (try simp only)
  (repeat' split) <;> simp <;> done

@[simp] theorem State.releaseAll_fixed (s : State) (key : Nat) : (State.releaseAll s key).fixed = s.fixed := by
  unfold State.releaseAll
  simp

@[simp] theorem State.rootRelease_fixed (s : State) (key : Nat) : (State.rootRelease s key).fixed = s.fixed := by
  unfold State.rootRelease
  simp

@[simp] theorem State.colGather_fixed (s : State) (key : Nat) : (State.colGather s key).fixed = s.fixed := by
  unfold State.colGather
  simp

@[simp] theorem State.colReleased_fixed (s : State) (key : Nat) (data : List Byte) : (State.colReleased s key data).fixed = s.fixed := by
  unfold State.colReleased
  simp

@[simp] theorem State.colWithdrawn_fixed (s : State) (key : Nat) (f : Flit) : (State.colWithdrawn s key f).fixed = s.fixed := by
  unfold State.colWithdrawn
  simp

@[simp] theorem State.colArrive_fixed (s : State) (p : BitVec 2) (f : Flit) : (State.colArrive s p f).fixed = s.fixed := by
  unfold State.colArrive
  simp

@[simp] theorem State.colPass_fixed (s : State) (p : BitVec 2) (f : Flit) : (State.colPass s p f).fixed = s.fixed := by
  unfold State.colPass
  (try simp only)
  (repeat' split) <;> simp <;> done

@[simp] theorem State.leaveSystem_fixed (s : State) : (State.leaveSystem s).fixed = s.fixed := by
  unfold State.leaveSystem
  simp

@[simp] theorem State.collTake_fixed (s : State) (c : Coll) : (State.collTake s c).fixed = s.fixed := by
  unfold State.collTake
  simp

@[simp] theorem State.collSend_fixed (s : State) (c : Coll) (dst : Nat) (k : Nat) (bs : List Byte) (flags : List Bool) : (State.collSend s c dst k bs flags).fixed = s.fixed := by
  unfold State.collSend
  simp

@[simp] theorem State.setColl_fixed (s : State) (c : Coll) : (State.setColl s c).fixed = s.fixed := by
  unfold State.setColl
  simp

@[simp] theorem State.collAdvance_fixed (s : State) (c : Coll) : (State.collAdvance s c).fixed = s.fixed := by
  unfold State.collAdvance
  (try simp only)
  (repeat' split) <;> simp <;> done

@[simp] theorem State.collStart_fixed (s : State) (c : Coll) : (State.collStart s c).fixed = s.fixed := by
  unfold State.collStart
  simp

@[simp] theorem State.collData_fixed (s : State) (f : Flit) : (State.collData s f).fixed = s.fixed := by
  unfold State.collData
  (try simp only)
  (repeat' split) <;> simp <;> done

@[simp] theorem State.modSec_fixed (s : State) (f : Sec → Sec) : (State.modSec s f).fixed = s.fixed := by
  unfold State.modSec
  simp

@[simp] theorem State.spdmErr_fixed (s : State) (e : Nat) : (State.spdmErr s e).fixed = s.fixed := by
  unfold State.spdmErr
  simp

@[simp] theorem State.spdmReq_fixed (s : State) (ready : Bool) (act : State) (h_act : act.fixed = s.fixed) : (State.spdmReq s ready act).fixed = s.fixed := by
  unfold State.spdmReq
  (try simp only)
  (repeat' split) <;> simp_all

@[simp] theorem State.modSpdm_fixed (s : State) (f : Spdm → Spdm) : (State.modSpdm s f).fixed = s.fixed := by
  unfold State.modSpdm
  simp

@[simp] theorem State.spdmFree_fixed (s : State) (code : Nat) (fixed : List Byte) (n : Nat) : (State.spdmFree s code fixed n).fixed = s.fixed := by
  unfold State.spdmFree
  simp

@[simp] theorem State.spdmSigned_fixed (s : State) (code : Nat) (fixed : List Byte) : (State.spdmSigned s code fixed).fixed = s.fixed := by
  unfold State.spdmSigned
  simp

@[simp] theorem State.setSess_fixed (s : State) (i : Nat) (x : SessSt) : (State.setSess s i x).fixed = s.fixed := by
  unfold State.setSess
  simp

@[simp] theorem State.endSess_fixed (s : State) (i : Nat) : (State.endSess s i).fixed = s.fixed := by
  unfold State.endSess
  simp

@[simp] theorem State.endSessions_fixed (s : State) : (State.endSessions s).fixed = s.fixed := by
  unfold State.endSessions
  simp

@[simp] theorem State.genKey_fixed (s : State) (slot : Nat) (kind : KeyKind) (session : BitVec 3) : (State.genKey s slot kind session).fixed = s.fixed := by
  unfold State.genKey
  simp

@[simp] theorem State.keyAnswer_fixed (s : State) (payload : List Byte) (status : Nat) (handle : Nat) : (State.keyAnswer s payload status handle).fixed = s.fixed := by
  unfold State.keyAnswer
  simp

@[simp] theorem State.keyRefused_fixed (s : State) (payload : List Byte) (codes : List Nat) : (State.keyRefused s payload codes).fixed = s.fixed := by
  unfold State.keyRefused
  simp

@[simp] theorem State.keyFilled_fixed (s : State) (payload : List Byte) (slot : Nat) : (State.keyFilled s payload slot).fixed = s.fixed := by
  unfold State.keyFilled
  simp

@[simp] theorem State.keyMsg_fixed (s : State) (sess : BitVec 2) (payload : List Byte) (op : Nat) (len : Nat) (go : State) (h_go : go.fixed = s.fixed) : (State.keyMsg s sess payload op len go).fixed = s.fixed := by
  unfold State.keyMsg
  (try simp only)
  (repeat' split) <;> simp_all

@[simp] theorem State.fillSealed_fixed (s : State) (slot : Nat) (k : KeySlot) : (State.fillSealed s slot k).fixed = s.fixed := by
  unfold State.fillSealed
  simp

@[simp] theorem State.endRunsOf_fixed (s : State) (m : Nat) : (State.endRunsOf s m).fixed = s.fixed := by
  unfold State.endRunsOf
  simp

@[simp] theorem State.destroyWeight_fixed (s : State) (payload : List Byte) (slot : Nat) : (State.destroyWeight s payload slot).fixed = s.fixed := by
  unfold State.destroyWeight
  simp

@[simp] theorem State.policyWrite_fixed (s : State) (val : Word) : (State.policyWrite s val).fixed = s.fixed := by
  unfold State.policyWrite
  simp

@[simp] theorem State.windowWrite_fixed (s : State) (c : Nat) (w : Nat) (r : Nat) (val : Word) : (State.windowWrite s c w r val).fixed = s.fixed := by
  unfold State.windowWrite
  simp

@[simp] theorem State.zeroise_fixed (s : State) : (State.zeroise s).fixed = s.fixed := by
  unfold State.zeroise
  simp

@[simp] theorem State.zeroised_fixed (s : State) : (State.zeroised s).fixed = s.fixed := by
  unfold State.zeroised
  simp

@[simp] theorem State.stopCmd_fixed (st : Nat) (s : State) (k : Cmd) : (State.stopCmd st s k).fixed = s.fixed := by
  unfold State.stopCmd
  simp

@[simp] theorem State.disablePort_fixed (s : State) (n : Nat) : (State.disablePort s n).fixed = s.fixed := by
  unfold State.disablePort
  simp

@[simp] theorem State.quarantine_fixed (s : State) : (State.quarantine s).fixed = s.fixed := by
  unfold State.quarantine
  simp

@[simp] theorem State.latchAlarm_fixed (s : State) (sensor : BitVec 3) (kind : BitVec 3) : (State.latchAlarm s sensor kind).fixed = s.fixed := by
  unfold State.latchAlarm
  simp

@[simp] theorem State.wakeTamper_fixed (s : State) : (State.wakeTamper s).fixed = s.fixed := by
  unfold State.wakeTamper
  simp

@[simp] theorem State.internalKey_fixed (s : State) (slot : Nat) (key : List Byte) : (State.internalKey s slot key).fixed = s.fixed := by
  unfold State.internalKey
  simp

@[simp] theorem State.deriveKey_fixed (s : State) (slot : Nat) (seed : List Byte) : (State.deriveKey s slot seed).fixed = s.fixed := by
  unfold State.deriveKey
  simp

@[simp] theorem State.deriveOwn_fixed (s : State) : (State.deriveOwn s).fixed = s.fixed := by
  unfold State.deriveOwn
  simp

@[simp] theorem State.deriveKeys_fixed (s : State) : (State.deriveKeys s).fixed = s.fixed := by
  unfold State.deriveKeys
  simp

@[simp] theorem State.reseal_fixed (s : State) (n : Nat) (b : Blob) (k : KeySlot) : (State.reseal s n b k).fixed = s.fixed := by
  unfold State.reseal
  simp

@[simp] theorem State.unsealBlob_fixed (bad : List (BitVec 7 × Bool)) (s : State) (n : Nat) : (State.unsealBlob bad s n).fixed = s.fixed := by
  unfold State.unsealBlob
  (try simp only)
  (repeat' split) <;> simp <;> done

@[simp] theorem State.resealAll_fixed (s : State) : (State.resealAll s).fixed = s.fixed := by
  unfold State.resealAll
  exact foldl_fixed _ (fun t n => by split <;> simp) _ _

@[simp] theorem State.unseal_fixed (bad : List (BitVec 7 × Bool)) (s : State) : (State.unseal bad s).fixed = s.fixed := by
  unfold State.unseal
  simp

@[simp] theorem State.unitDone_fixed (s : State) (h : Nat) (stripe : Nat) (u : Nat) : (State.unitDone s h stripe u).fixed = s.fixed := by
  unfold State.unitDone
  simp

@[simp] theorem State.programWl_fixed (s : State) (key : Nat) (w : Nat) : (State.programWl s key w).fixed = s.fixed := by
  unfold State.programWl
  simp

@[simp] theorem State.wearMark_fixed (s : State) (die : Nat) : (State.wearMark s die).fixed = s.fixed := by
  unfold State.wearMark
  (try simp only)
  (repeat' split) <;> simp <;> done

@[simp] theorem State.readSegment_fixed (s : State) (key : Nat) (seg : Nat) (n : Nat) : (State.readSegment s key seg n).fixed = s.fixed := by
  unfold State.readSegment
  simp

@[simp] theorem State.countGap_fixed (s : State) (bank : Nat) (n : Nat) : (State.countGap s bank n).fixed = s.fixed := by
  unfold State.countGap
  simp

@[simp] theorem State.beginRead_fixed (s : State) (key : Nat) (wl : Nat) : (State.beginRead s key wl).fixed = s.fixed := by
  unfold State.beginRead
  simp

@[simp] theorem State.cwFails_fixed (s : State) (h : Nat) (o : Nat) (key : Nat) (w : Nat) : (State.cwFails s h o key w).fixed = s.fixed := by
  unfold State.cwFails
  simp

theorem State.readPlace_fixed (s : State) (h o : Nat) (t : Nat × Nat × Bool × State) (e : s.readPlace h o = some t) :
    t.2.2.2.fixed = s.fixed := by
  simp only [State.readPlace] at e
  split at e
  · cases e; rfl
  · cases h : s.cwPlace h o with
    | none => simp [h] at e
    | some x => simp [h] at e; subst e; rfl

@[simp] theorem State.setCands_fixed (s : State) (bk : Nat) (cs : List (Nat × List Nat)) : (State.setCands s bk cs).fixed = s.fixed := by
  unfold State.setCands
  simp

@[simp] theorem State.mapColumn_fixed (s : State) (bk : Nat) (col : Nat) : (State.mapColumn s bk col).fixed = s.fixed := by
  unfold State.mapColumn
  simp

@[simp] theorem State.refColumn_fixed (s : State) (key : Nat) (c : RefColumn) : (State.refColumn s key c).fixed = s.fixed := by
  unfold State.refColumn
  (try simp only)
  (repeat' split) <;> simp <;> done

@[simp] theorem State.flip_fixed (s : State) (key : Nat) (dst : Nat) : (State.flip s key dst).fixed = s.fixed := by
  unfold State.flip
  (try simp only)
  (repeat' split) <;> simp <;> done

@[simp] theorem State.checkpoint_fixed (s : State) : (State.checkpoint s).fixed = s.fixed := by
  unfold State.checkpoint
  simp

@[simp] theorem State.bootBlocks_fixed (s : State) (clean : Bool) : (State.bootBlocks s clean).fixed = s.fixed := by
  unfold State.bootBlocks
  simp

@[simp] theorem State.chargeMarks_fixed (s : State) : (State.chargeMarks s).fixed = s.fixed := by
  unfold State.chargeMarks
  simp

@[simp] theorem State.lostPrograms_fixed (s : State) : (State.lostPrograms s).fixed = s.fixed := by
  unfold State.lostPrograms
  simp

@[simp] theorem State.lostAccepted_fixed (s : State) : (State.lostAccepted s).fixed = s.fixed := by
  unfold State.lostAccepted
  simp

@[simp] theorem State.readEach_fixed (s : State) (key : Nat) : (State.readEach s key).fixed = s.fixed := by
  unfold State.readEach
  simp

@[simp] theorem State.calendarLost_fixed (s : State) : (State.calendarLost s).fixed = s.fixed := by
  unfold State.calendarLost
  simp

@[simp] theorem State.storeLoad_fixed (s : State) (clean : Bool) : (State.storeLoad s clean).fixed = s.fixed := by
  unfold State.storeLoad
  simp

theorem State.takeComp_fixed (s : State) (r : (Nat × Nat) × State) (h : s.takeComp = some r) : r.2.fixed = s.fixed := by
  simp only [State.takeComp] at h
  split at h
  · cases h
  · next x s1 h1 =>
    cases h
    have h2 : s1.fixed = s.fixed := by
      split at h1
      · cases h1; rfl
      · exact State.openComp_fixed _ _ h1
    simpa using h2

@[simp] theorem State.moveStripe_fixed (s : State) (h i : Nat) : (s.moveStripe h i).fixed = s.fixed := by
  simp only [State.moveStripe]
  split
  · rfl
  · next r w s1 h1 => simpa using State.takeComp_fixed _ _ h1

@[simp] theorem State.bandCheck_fixed (s : State) : (State.bandCheck s).fixed = s.fixed := by
  unfold State.bandCheck
  simp

@[simp] theorem State.setFlashRate_fixed (s : State) (rate : BitVec 2) : (State.setFlashRate s rate).fixed = s.fixed := by
  unfold State.setFlashRate
  simp

@[simp] theorem State.flsCfgErr_fixed (s : State) : (State.flsCfgErr s).fixed = s.fixed := by
  unfold State.flsCfgErr
  simp

@[simp] theorem State.drmCfgErr_fixed (s : State) : (State.drmCfgErr s).fixed = s.fixed := by
  unfold State.drmCfgErr
  simp

@[simp] theorem State.lineWrite_fixed (s : State) (l : Nat) (wr : List (BitVec 6 × Byte)) (tag : Nat) : (State.lineWrite s l wr tag).fixed = s.fixed := by
  unfold State.lineWrite
  simp

@[simp] theorem State.acceptRead_fixed (s : State) (ch : Nat) (req : Requester) (line : Nat) (key : BitVec 7) (tag : Nat) : (State.acceptRead s ch req line key tag).fixed = s.fixed := by
  unfold State.acceptRead
  simp

@[simp] theorem State.acceptWrite_fixed (s : State) (ch : Nat) (q : DReq) (wr : List (BitVec 6 × Byte)) (tag : Nat) : (State.acceptWrite s ch q wr tag).fixed = s.fixed := by
  unfold State.acceptWrite
  simp

@[simp] theorem State.rfm_fixed (s : State) (b : Nat) : (State.rfm s b).fixed = s.fixed := by
  unfold State.rfm
  simp

@[simp] theorem State.hammered_fixed (s : State) (a : DAddr) (req : Requester) : (State.hammered s a req).fixed = s.fixed := by
  unfold State.hammered
  simp

@[simp] theorem State.activateRow_fixed (s : State) (a : DAddr) (req : Requester) : (State.activateRow s a req).fixed = s.fixed := by
  unfold State.activateRow
  simp

@[simp] theorem State.laneAlarm_fixed (s : State) (ch : Nat) (lane : Nat) : (State.laneAlarm s ch lane).fixed = s.fixed := by
  unfold State.laneAlarm
  simp

@[simp] theorem State.laneError_fixed (s : State) (ch : Nat) (lane : Nat) : (State.laneError s ch lane).fixed = s.fixed := by
  unfold State.laneError
  simp

@[simp] theorem State.linkErrors_fixed (s : State) (ch : Nat) (symbols : List (BitVec 7)) : (State.linkErrors s ch symbols).fixed = s.fixed := by
  unfold State.linkErrors
  simp

@[simp] theorem State.checkLine_fixed (s : State) (l : Nat) (symbols : List (BitVec 7)) (patrol : Bool) : (State.checkLine s l symbols patrol).fixed = s.fixed := by
  unfold State.checkLine
  simp

@[simp] theorem State.dmaFails_fixed (s : State) (req : Requester) (l : Nat) : (State.dmaFails s req l).fixed = s.fixed := by
  unfold State.dmaFails
  simp

@[simp] theorem State.serveRead_fixed (s : State) (ch : Nat) (q : DReq) (symbols : List (BitVec 7)) : (State.serveRead s ch q symbols).fixed = s.fixed := by
  unfold State.serveRead
  simp

@[simp] theorem State.serveWrite_fixed (s : State) (ch : Nat) (q : DReq) (symbols : List (BitVec 7)) : (State.serveWrite s ch q symbols).fixed = s.fixed := by
  unfold State.serveWrite
  simp

@[simp] theorem State.resetRegs_fixed (s : State) (level : Nat) : (State.resetRegs s level).fixed = s.fixed := by
  unfold State.resetRegs
  simp

@[simp] theorem State.hubTest_fixed (s : State) : (State.hubTest s).fixed = s.fixed := by
  unfold State.hubTest
  simp

@[simp] theorem State.secFlr_fixed (s : State) : (State.secFlr s).fixed = s.fixed := by
  unfold State.secFlr
  simp

@[simp] theorem State.dropAllOld_fixed (s : State) : (State.dropAllOld s).fixed = s.fixed := by
  unfold State.dropAllOld
  simp

@[simp] theorem State.dropBegun_fixed (s : State) (n : Nat) : (State.dropBegun s n).fixed = s.fixed := by
  unfold State.dropBegun
  simp

@[simp] theorem State.flrReset_fixed (s : State) : (State.flrReset s).fixed = s.fixed := by
  unfold State.flrReset
  simp

@[simp] theorem State.flrUp_fixed (s : State) : (State.flrUp s).fixed = s.fixed := by
  unfold State.flrUp
  simp

@[simp] theorem State.runPendingSi_fixed (s : State) : (State.runPendingSi s).fixed = s.fixed := by
  unfold State.runPendingSi
  (try simp only)
  (repeat' split) <;> simp <;> done

@[simp] theorem State.reloadMarks_fixed (s : State) : (State.reloadMarks s).fixed = s.fixed := by
  unfold State.reloadMarks
  simp

@[simp] theorem State.reloadModel_fixed (s : State) (m : Nat) : (State.reloadModel s m).fixed = s.fixed := by
  unfold State.reloadModel
  (try simp only)
  (repeat' split) <;> (try simp) <;> exact State.loadStart_fixed _ _ _ _ ‹_›

@[simp] theorem State.reloadModels_fixed (s : State) : (State.reloadModels s).fixed = s.fixed := by
  unfold State.reloadModels
  simp

@[simp] theorem State.reloadAll_fixed (s : State) : (State.reloadAll s).fixed = s.fixed := by
  unfold State.reloadAll
  simp

@[simp] theorem State.secPerst_fixed (s : State) : (State.secPerst s).fixed = s.fixed := by
  unfold State.secPerst
  simp

@[simp] theorem State.perstBase_fixed (s : State) : (State.perstBase s).fixed = s.fixed := by
  unfold State.perstBase
  simp

@[simp] theorem State.perstReset_fixed (s : State) : (State.perstReset s).fixed = s.fixed := by
  unfold State.perstReset
  simp

@[simp] theorem State.secPor_fixed (s : State) : (State.secPor s).fixed = s.fixed := by
  unfold State.secPor
  simp

@[simp] theorem State.porReset_fixed (s : State) : (State.porReset s).fixed = s.fixed := by
  unfold State.porReset
  simp

@[simp] theorem State.resetCores_fixed (s0 : State) : (State.resetCores s0).fixed = s0.fixed := by
  unfold State.resetCores
  simp

@[simp] theorem State.applyGreset_fixed (s : State) (flr : Bool) : (State.applyGreset s flr).fixed = s.fixed := by
  unfold State.applyGreset
  simp

@[simp] theorem State.modPwr_fixed (s : State) (f : Pwr → Pwr) : (State.modPwr s f).fixed = s.fixed := by
  unfold State.modPwr
  simp

@[simp] theorem State.modAon_fixed (s : State) (f : Aon → Aon) : (State.modAon s f).fixed = s.fixed := by
  unfold State.modAon
  simp

@[simp] theorem State.pwrEvent_fixed (s : State) (bit : Nat) : (State.pwrEvent s bit).fixed = s.fixed := by
  unfold State.pwrEvent
  simp

@[simp] theorem State.setPoints_fixed (s : State) (r : Nat) (f : Nat → Nat → Nat) : (State.setPoints s r f).fixed = s.fixed := by
  unfold State.setPoints
  simp

@[simp] theorem State.settle_fixed (s : State) (r : Nat) : (State.settle s r).fixed = s.fixed := by
  unfold State.settle
  simp

@[simp] theorem State.lowerRidge_fixed (s : State) (r : Nat) : (State.lowerRidge s r).fixed = s.fixed := by
  unfold State.lowerRidge
  simp

@[simp] theorem State.raiseRidge_fixed (s : State) (r : Nat) : (State.raiseRidge s r).fixed = s.fixed := by
  unfold State.raiseRidge
  simp

@[simp] theorem State.lowerOne_fixed (s : State) : (State.lowerOne s).fixed = s.fixed := by
  unfold State.lowerOne
  (try simp only)
  (repeat' split) <;> simp <;> done

@[simp] theorem State.raiseOne_fixed (s : State) : (State.raiseOne s).fixed = s.fixed := by
  unfold State.raiseOne
  (try simp only)
  (repeat' split) <;> simp <;> done

@[simp] theorem State.clipPoints_fixed (s : State) : (State.clipPoints s).fixed = s.fixed := by
  unfold State.clipPoints
  simp

@[simp] theorem State.takeSample_fixed (s : State) (mw : Nat) (ridges : List Nat) : (State.takeSample s mw ridges).fixed = s.fixed := by
  unfold State.takeSample
  simp

@[simp] theorem State.leaveFixed_fixed (s : State) : (State.leaveFixed s).fixed = s.fixed := by
  unfold State.leaveFixed
  simp

@[simp] theorem State.limits_fixed (s : State) : (State.limits s).fixed = s.fixed := by
  unfold State.limits
  simp

@[simp] theorem State.fixedStep_fixed (s : State) : (State.fixedStep s).fixed = s.fixed := by
  unfold State.fixedStep
  simp

@[simp] theorem State.fixedWrite_fixed (s : State) (val : Word) : (State.fixedWrite s val).fixed = s.fixed := by
  unfold State.fixedWrite
  simp

@[simp] theorem State.lowerCores_fixed (s : State) (ns : List Nat) : (State.lowerCores s ns).fixed = s.fixed := by
  unfold State.lowerCores
  simp

@[simp] theorem State.neighbourRule_fixed (s : State) : (State.neighbourRule s).fixed = s.fixed := by
  unfold State.neighbourRule
  simp

@[simp] theorem State.allP0_fixed (s : State) : (State.allP0 s).fixed = s.fixed := by
  unfold State.allP0
  simp

@[simp] theorem State.thermal_fixed (s : State) : (State.thermal s).fixed = s.fixed := by
  unfold State.thermal
  simp

@[simp] theorem State.stretchCycles_fixed (s : State) (off : Nat) : (State.stretchCycles s off).fixed = s.fixed := by
  unfold State.stretchCycles
  simp

@[simp] theorem State.goIdle_fixed (s : State) : (State.goIdle s).fixed = s.fixed := by
  unfold State.goIdle
  simp

@[simp] theorem State.wake_fixed (s : State) : (State.wake s).fixed = s.fixed := by
  unfold State.wake
  simp

@[simp] theorem State.seqEvent_fixed (s : State) (group : Nat) (what : Nat) : (State.seqEvent s group what).fixed = s.fixed := by
  unfold State.seqEvent
  simp

@[simp] theorem State.closeSwitch_fixed (s : State) (g : Nat) : (State.closeSwitch s g).fixed = s.fixed := by
  unfold State.closeSwitch
  simp

@[simp] theorem State.groupOff_fixed (s : State) (g : Nat) : (State.groupOff s g).fixed = s.fixed := by
  unfold State.groupOff
  simp

@[simp] theorem State.railsOff_fixed (s : State) : (State.railsOff s).fixed = s.fixed := by
  unfold State.railsOff
  simp

@[simp] theorem State.rampFails_fixed (s : State) (group : Nat) : (State.rampFails s group).fixed = s.fixed := by
  unfold State.rampFails
  simp

@[simp] theorem State.enableGroup_fixed (s : State) (g : Nat) : (State.enableGroup s g).fixed = s.fixed := by
  unfold State.enableGroup
  simp

@[simp] theorem State.startRamp_fixed (s : State) : (State.startRamp s).fixed = s.fixed := by
  unfold State.startRamp
  simp

@[simp] theorem State.onRequest_fixed (s : State) : (State.onRequest s).fixed = s.fixed := by
  unfold State.onRequest
  (try simp only)
  (repeat' split) <;> simp <;> done

@[simp] theorem State.startDown_fixed (s : State) : (State.startDown s).fixed = s.fixed := by
  unfold State.startDown
  simp

@[simp] theorem State.lateOff_fixed (s : State) : (State.lateOff s).fixed = s.fixed := by
  unfold State.lateOff
  simp

@[simp] theorem State.offRequest_fixed (s : State) : (State.offRequest s).fixed = s.fixed := by
  unfold State.offRequest
  (try simp only)
  (repeat' split) <;> simp <;> done

@[simp] theorem State.emergency_fixed (s : State) : (State.emergency s).fixed = s.fixed := by
  unfold State.emergency
  simp

@[simp] theorem State.powerFails_fixed (s : State) : (State.powerFails s).fixed = s.fixed := by
  unfold State.powerFails
  (try simp only)
  (repeat' split) <;> simp <;> done

@[simp] theorem State.supplied_fixed (s : State) (t : State) (h_t : t.fixed = s.fixed) : (State.supplied s t).fixed = s.fixed := by
  unfold State.supplied
  (try simp only)
  (repeat' split) <;> simp_all

@[simp] theorem State.ctrlWrite_fixed (s : State) (val : Word) : (State.ctrlWrite s val).fixed = s.fixed := by
  unfold State.ctrlWrite
  simp

@[simp] theorem State.powerGood_fixed (s : State) : (State.powerGood s).fixed = s.fixed := by
  unfold State.powerGood
  simp

@[simp] theorem State.shadowNow_fixed (s : State) : (State.shadowNow s).fixed = s.fixed := by
  unfold State.shadowNow
  simp

@[simp] theorem State.groupGood_fixed (s : State) (g : Nat) : (State.groupGood s g).fixed = s.fixed := by
  unfold State.groupGood
  simp

@[simp] theorem State.savedStore_fixed (s : State) : (State.savedStore s).fixed = s.fixed := by
  unfold State.savedStore
  simp

@[simp] theorem State.downWork_fixed (s : State) : (State.downWork s).fixed = s.fixed := by
  unfold State.downWork
  (try simp only)
  (repeat' split) <;> simp <;> done

@[simp] theorem State.aonCtrl_fixed (s : State) (val : Word) : (State.aonCtrl s val).fixed = s.fixed := by
  unfold State.aonCtrl
  simp

@[simp] theorem State.postAon_fixed (s : State) (off : Nat) (v : Word) : (State.postAon s off v).fixed = s.fixed := by
  unfold State.postAon
  simp

@[simp] theorem State.i3cTj_fixed (s : State) : (State.i3cTj s).2.fixed = s.fixed := by
  unfold State.i3cTj
  (try simp only)
  (repeat' split) <;> simp <;> done

@[simp] theorem State.storeUp_fixed (s : State) (bad : List (BitVec 7 × Bool)) : (State.storeUp s bad).fixed = s.fixed := by
  unfold State.storeUp
  simp

@[simp] theorem State.modeFlash_fixed (s : State) : (State.modeFlash s).fixed = s.fixed := by
  unfold State.modeFlash
  (try simp only)
  (repeat' split) <;> simp <;> done

@[simp] theorem State.modeAnswer_fixed (s : State) : (State.modeAnswer s).fixed = s.fixed := by
  unfold State.modeAnswer
  simp

@[simp] theorem State.enterBackground_fixed (s : State) : (State.enterBackground s).fixed = s.fixed := by
  unfold State.enterBackground
  simp

@[simp] theorem State.leaveBackground_fixed (s : State) : (State.leaveBackground s).fixed = s.fixed := by
  unfold State.leaveBackground
  simp

@[simp] theorem State.shiftTimes_fixed (s : State) (d : Int) : (State.shiftTimes s d).fixed = s.fixed := by
  unfold State.shiftTimes
  simp

@[simp] theorem State.setTime_fixed (s : State) (sec : Nat) (ns : Nat) : (State.setTime s sec ns).fixed = s.fixed := by
  unfold State.setTime
  simp

@[simp] theorem State.fwStaged_fixed (s : State) (b : List Byte) : (State.fwStaged s b).fixed = s.fixed := by
  unfold State.fwStaged
  simp

@[simp] theorem State.fwGot_fixed (s : State) (len : Nat) (r : HostRead) : (State.fwGot s len r).fixed = s.fixed := by
  unfold State.fwGot
  (try simp only)
  (repeat' split) <;> simp <;> done

@[simp] theorem State.fwSwap_fixed (s : State) (f : Fw) (selfCheck : Bool) : (State.fwSwap s f selfCheck).fixed = s.fixed := by
  unfold State.fwSwap
  simp

@[simp] theorem State.recover_fixed (s : State) (keep : Bool) : (State.recover s keep).fixed = s.fixed := by
  unfold State.recover
  simp

@[simp] theorem State.acked_fixed (s : State) (val : Word) : (State.acked s val).fixed = s.fixed := by
  unfold State.acked
  simp

@[simp] theorem State.ackEvents_fixed (s : State) (val : Word) : (State.ackEvents s val).fixed = s.fixed := by
  unfold State.ackEvents
  simp

@[simp] theorem State.i3cSay_fixed (s : State) (data : List Byte) : (State.i3cSay s data).fixed = s.fixed := by
  unfold State.i3cSay
  simp

@[simp] theorem State.i3cDirect_fixed (s : State) (act : State) (h_act : act.fixed = s.fixed) : (State.i3cDirect s act).fixed = s.fixed := by
  unfold State.i3cDirect
  (try simp only)
  (repeat' split) <;> simp_all

@[simp] theorem State.tstFields_fixed (s : State) (val : Word) : (State.tstFields s val).fixed = s.fixed := by
  unfold State.tstFields
  simp

@[simp] theorem State.tstSend_fixed (s : State) : (State.tstSend s).fixed = s.fixed := by
  unfold State.tstSend
  simp

@[simp] theorem State.tstStart_fixed (s : State) : (State.tstStart s).fixed = s.fixed := by
  unfold State.tstStart
  simp

@[simp] theorem State.tstCtrlWrite_fixed (s : State) (val : Word) : (State.tstCtrlWrite s val).fixed = s.fixed := by
  unfold State.tstCtrlWrite
  simp

@[simp] theorem State.tstWrite_fixed (s : State) (off : Nat) (val : Word) : (State.tstWrite s off val).fixed = s.fixed := by
  unfold State.tstWrite
  simp

@[simp] theorem State.tstLatch_fixed (s : State) (off : Nat) : (State.tstLatch s off).fixed = s.fixed := by
  unfold State.tstLatch
  simp

@[simp] theorem State.tapOn_fixed (s : State) (act : State) (h_act : act.fixed = s.fixed) : (State.tapOn s act).fixed = s.fixed := by
  unfold State.tapOn
  (try simp only)
  (repeat' split) <;> simp_all

@[simp] theorem State.tapLoad_fixed (s : State) (code : BitVec 8) (testOnly : Bool) (act : State → State) (h_act : ∀ t , (act t ).fixed = t.fixed) : (State.tapLoad s code testOnly act).fixed = s.fixed := by
  unfold State.tapLoad
  (try simp only)
  (repeat' split) <;> simp_all

@[simp] theorem State.boundaryScan_fixed (s : State) (tdi : List Bool) : (State.boundaryScan s tdi).fixed = s.fixed := by
  unfold State.boundaryScan
  simp

@[simp] theorem State.tstAccess_fixed (s : State) (dr : BitVec 64) : (State.tstAccess s dr).fixed = s.fixed := by
  unfold State.tstAccess
  simp

@[simp] theorem State.baseWrite_fixed (s : State) (off : Nat) (val : Word) : (State.baseWrite s off val).fixed = s.fixed := by
  unfold State.baseWrite
  simp

@[simp] theorem State.mgtWrite_fixed (s : State) (val : Word) : (State.mgtWrite s val).fixed = s.fixed := by
  unfold State.mgtWrite
  simp

@[simp] theorem State.poolWrite_fixed (s : State) (off : Nat) (val : Word) : (State.poolWrite s off val).fixed = s.fixed := by
  unfold State.poolWrite
  simp

@[simp] theorem State.budgetWrite_fixed (s : State) (c : Nat) (val : Word) : (State.budgetWrite s c val).fixed = s.fixed := by
  unfold State.budgetWrite
  simp

@[simp] theorem State.tsetWrite_fixed (s : State) (off : Nat) (val : Word) : (State.tsetWrite s off val).fixed = s.fixed := by
  unfold State.tsetWrite
  simp

@[simp] theorem State.laneWrite_fixed (s : State) (val : Word) : (State.laneWrite s val).fixed = s.fixed := by
  unfold State.laneWrite
  simp

@[simp] theorem State.vectorCtl_fixed (s : State) (v : Nat) (mask : Bool) : (State.vectorCtl s v mask).fixed = s.fixed := by
  unfold State.vectorCtl
  simp

@[simp] theorem State.plainWrite_fixed (s : State) (who : Agent) (off : Nat) (val : Word) : (State.plainWrite s who off val).fixed = s.fixed := by
  unfold State.plainWrite
  (try simp only)
  (repeat' split) <;> simp <;> done

@[simp] theorem State.mgmtOnly_fixed (s : State) (who : Agent) (act : State) (h_act : act.fixed = s.fixed) : (State.mgmtOnly s who act).fixed = s.fixed := by
  unfold State.mgmtOnly
  (try simp only)
  (repeat' split) <;> simp_all

@[simp] theorem State.aonCtrlWrite_fixed (s : State) (who : Agent) (val : Word) : (State.aonCtrlWrite s who val).fixed = s.fixed := by
  unfold State.aonCtrlWrite
  (try simp only)
  (repeat' split) <;> simp <;> done

@[simp] theorem State.pageWrite_fixed (s : State) (who : Agent) (off : Nat) : (State.pageWrite s who off).fixed = s.fixed := by
  unfold State.pageWrite
  simp

@[simp] theorem State.bar0Write_fixed (s : State) (who : Agent) (off : Nat) (val : Word) : (State.bar0Write s who off val).fixed = s.fixed := by
  unfold State.bar0Write
  (try simp only)
  (repeat' split) <;> simp <;> done

@[simp] theorem State.sameCycle_fixed (s : State) (off : Nat) (set : Word) : (State.sameCycle s off set).fixed = s.fixed := by
  unfold State.sameCycle
  (try simp only)
  (repeat' split) <;> simp <;> done

@[simp] theorem State.rcClear_fixed (s : State) (off : Nat) (inc : Word) : (State.rcClear s off inc).fixed = s.fixed := by
  unfold State.rcClear
  simp

@[simp] theorem State.say_fixed (s : State) (v : Word) : (State.say s v).fixed = s.fixed := by
  unfold State.say
  simp

@[simp] theorem State.readClear_fixed (s : State) (off : Nat) (inc : Word) : (State.readClear s off inc).fixed = s.fixed := by
  unfold State.readClear
  simp

@[simp] theorem State.latchAt_fixed (s : State) (off : Nat) : (State.latchAt s off).fixed = s.fixed := by
  unfold State.latchAt
  simp

@[simp] theorem State.latchEvent_fixed (s : State) : (State.latchEvent s).fixed = s.fixed := by
  unfold State.latchEvent
  simp

@[simp] theorem State.bar2Refused_fixed (s : State) (off : Nat) (write : Bool) : (State.bar2Refused s off write).fixed = s.fixed := by
  unfold State.bar2Refused
  simp

@[simp] theorem State.bar2Get_fixed (s : State) (off : Nat) (len : Nat) (ide : Bool) : (State.bar2Get s off len ide).fixed = s.fixed := by
  unfold State.bar2Get
  (try simp only)
  (repeat' split) <;> simp <;> done

@[simp] theorem State.bar2Put_fixed (s : State) (off : Nat) (data : List Byte) (ide : Bool) : (State.bar2Put s off data ide).fixed = s.fixed := by
  unfold State.bar2Put
  (try simp only)
  (repeat' split) <;> simp <;> done

end Sys2Proof.Machine
end

