-- ==== Sys2Proof/WellFormed.lean ====
section
/-! DEFINITION. Checks on a command's operands that their types do not make: the sizes of byte strings and the ranges
of numbers that stand for fields of bounded width. -/

namespace Sys2Proof

/-- A completed read of host memory returns the bytes asked for. -/
def HostRead.wf (len : Nat → Bool) : HostRead → Bool
  | .ok d => len d.length
  | .error => true
  | .poisoned => true

/-- A flit carries at most 112 payload bytes, and LEN counts them (R382). -/
def Flit.wf (f : Flit) : Bool := decide (f.len.toNat ≤ 112) && decide (f.payload.length = 112)

/-- A lane is named by the value that TST_SEL selects it with, nineteen bits (R503). -/
def laneWf (lane : Nat) : Bool := decide (lane < 524288)

/-- The command is one that the outside world can form. -/
def Instr.wf : Instr → Bool
  | .bar0BadAccess _ off size => !(decide (size = 4) && decide (off.toNat % 4 = 0))
  | .bar2Read _ len _ => decide (1 ≤ len) && decide (len ≤ 4096)
  | .bar2Write _ data _ => decide (1 ≤ data.length) && decide (data.length ≤ 512)
  | .commandFetch _ _ e => e.wf (fun n => decide (n = 64))
  | .hostReadCompletion _ r => r.wf (fun n => decide (n ≤ 1073741824))
  | .regWrite _ off _ => decide (off.toNat % 4 = 0)
  | .regReadClear off _ => decide (off.toNat % 4 = 0)
  | .latchingRead off => decide (off.toNat % 4 = 0)
  | .patrolScrub mem g _ =>
    (match mem with
    | .cmem _ => decide (g < 524288)
    | .bufA _ => decide (g < 8192)
    | .bufB _ => decide (g < 16384)
    | .bufD _ => decide (g < 8192)
    | .shm => decide (g < 4194304))
  | .dramRequest _ line _ _ => decide (line < 754974720)
  | .dramPatrol line _ => decide (line < 754974720)
  | .mr4Poll m => decide (1 ≤ m)
  | .flitIdle _ f => f.wf
  | .flitData _ f => f.wf
  | .flitCol _ f => f.wf
  | .flitCtrl _ f => f.wf
  | .flitNak _ f => f.wf
  | .flitGreset _ f => f.wf
  | .challenge _ nonce => decide (nonce.length = 32)
  | .getMeasurements _ _ nonce => decide (nonce.length = 32)
  | .checkerLock rx => laneWf rx.lane
  | .checkerSlip lane bits errs => laneWf lane && decide (errs ≤ bits)
  | _ => true

end Sys2Proof
end

