-- ==== Sys2Proof/Laws/PerInstr.lean ====
section
/-! SUPPORT. One law for each command: its operands are well formed exactly when they lie within the sizes and ranges that the manual
gives their fields, and no word of the table spells it. -/

namespace Sys2Proof.Laws.Fields

/-- A payload counts its bytes and fills the flit (R382). -/
def flitFits (f : Flit) : Prop := f.len.toNat ≤ 112 ∧ f.payload.length = 112

/-- The granules of a memory of 8-byte granules (Table 1 of R172). -/
def granuleCount : MemSel → Nat
  | .cmem _ => 4 * 1024 * 1024 / 8
  | .bufA _ => 64 * 1024 / 8
  | .bufB _ => 128 * 1024 / 8
  | .bufD _ => 64 * 1024 / 8
  | .shm => 32 * 1024 * 1024 / 8

/-- What the operands of a command lie within. -/
def fits : Instr → Prop
  | .bar0BadAccess _ off size => size ≠ 4 ∨ off.toNat % 4 ≠ 0
  | .bar2Read _ len _ => 1 ≤ len ∧ len ≤ 4096
  | .bar2Write _ data _ => 1 ≤ data.length ∧ data.length ≤ 512
  | .commandFetch _ _ e => ∀ d, e = .ok d → d.length = 64
  | .hostReadCompletion _ r => ∀ d, r = .ok d → d.length ≤ 1024 * 1024 * 1024
  | .regWrite _ off _ => off.toNat % 4 = 0
  | .regReadClear off _ => off.toNat % 4 = 0
  | .latchingRead off => off.toNat % 4 = 0
  | .patrolScrub mem g _ => g < granuleCount mem
  | .dramRequest _ line _ _ => line < 45 * 1024 * 1024 * 1024 / 64
  | .dramPatrol line _ => line < 45 * 1024 * 1024 * 1024 / 64
  | .mr4Poll m => m ≠ 0
  | .flitIdle _ f => flitFits f
  | .flitData _ f => flitFits f
  | .flitCol _ f => flitFits f
  | .flitCtrl _ f => flitFits f
  | .flitNak _ f => flitFits f
  | .flitGreset _ f => flitFits f
  | .challenge _ nonce => nonce.length = 32
  | .getMeasurements _ _ nonce => nonce.length = 32
  | .checkerLock rx => rx.lane < 2 ^ 19
  | .checkerSlip lane bits errs => lane < 2 ^ 19 ∧ errs ≤ bits
  | _ => True

/-- A command is well formed exactly when its operands fit, and no word spells it. -/
def Statement (i : Instr) : Prop := (i.wf = true ↔ fits i) ∧ ∀ nbits w, decodeTableWord nbits w ≠ some i

/-- No word spells any command. -/
theorem no_word (i : Instr) (nbits w : Nat) : decodeTableWord nbits w ≠ some i := by
  simp [decodeTableWord]

/-- A command whose operands the types bound already. -/
theorem unbounded (i : Instr) (h : i.wf = true) (f : fits i) : Statement i := ⟨⟨fun _ => f, fun _ => h⟩, no_word i⟩

theorem flit_wf (f : Flit) : f.wf = true ↔ flitFits f := by
  simp [Flit.wf, flitFits]

theorem aonSupplyLoss : Statement (.aonSupplyLoss) := unbounded _ rfl trivial
theorem aonSupplyUp : Statement (.aonSupplyUp) := unbounded _ rfl trivial
theorem perstAssert : Statement (.perstAssert) := unbounded _ rfl trivial
theorem perstRelease (refclkOk : Bool) : Statement (.perstRelease refclkOk) := unbounded _ rfl trivial
theorem flr : Statement (.flr) := unbounded _ rfl trivial
theorem linkDlDown : Statement (.linkDlDown) := unbounded _ rfl trivial
theorem regWrite (who : Agent) (off : BitVec 24) (data : RegData) : Statement (.regWrite who off data) := ⟨by simp [Instr.wf, fits], no_word _⟩
theorem regReadClear (off : BitVec 24) (inc : Word) : Statement (.regReadClear off inc) := ⟨by simp [Instr.wf, fits], no_word _⟩
theorem latchingRead (off : BitVec 24) : Statement (.latchingRead off) := ⟨by simp [Instr.wf, fits], no_word _⟩
theorem evtData0Read : Statement (.evtData0Read) := unbounded _ rfl trivial
theorem bar0BadAccess (write : Bool) (off : BitVec 24) (size : Nat) : Statement (.bar0BadAccess write off size) := ⟨by by_cases h : size = 4 <;> simp [Instr.wf, fits, h], no_word _⟩
theorem bar2Read (off : BitVec 36) (len : Nat) (ide : Bool) : Statement (.bar2Read off len ide) := ⟨by simp [Instr.wf, fits], no_word _⟩
theorem bar2Write (off : BitVec 36) (data : List Byte) (ide : Bool) : Statement (.bar2Write off data ide) := ⟨by simp [Instr.wf, fits], no_word _⟩
theorem msixUnmask (vec : BitVec 7) : Statement (.msixUnmask vec) := unbounded _ rfl trivial
theorem doorbell (ctx : BitVec 6) (spool : BitVec 3) (val : Word) : Statement (.doorbell ctx spool val) := unbounded _ rfl trivial
theorem commandFetch (ctx : BitVec 6) (spool : BitVec 3) (entry : HostRead) : Statement (.commandFetch ctx spool entry) := ⟨by cases entry <;> simp [Instr.wf, HostRead.wf, fits], no_word _⟩
theorem dbAbort (ctx : BitVec 6) (val : Word) : Statement (.dbAbort ctx val) := unbounded _ rfl trivial
theorem spoolEnable (data : RegData) : Statement (.spoolEnable data) := unbounded _ rfl trivial
theorem spoolDisable (data : RegData) : Statement (.spoolDisable data) := unbounded _ rfl trivial
theorem contextEnable (val : Word) : Statement (.contextEnable val) := unbounded _ rfl trivial
theorem contextDisable (val : Word) : Statement (.contextDisable val) := unbounded _ rfl trivial
theorem cmdNop (r : CmdRef) : Statement (.cmdNop r) := unbounded _ rfl trivial
theorem run (r : CmdRef) : Statement (.run r) := unbounded _ rfl trivial
theorem runStart (r : CmdRef) : Statement (.runStart r) := unbounded _ rfl trivial
theorem create (r : CmdRef) : Statement (.create r) := unbounded _ rfl trivial
theorem fork (r : CmdRef) : Statement (.fork r) := unbounded _ rfl trivial
theorem truncate (r : CmdRef) : Statement (.truncate r) := unbounded _ rfl trivial
theorem drop (r : CmdRef) : Statement (.drop r) := unbounded _ rfl trivial
theorem writeback (r : CmdRef) : Statement (.writeback r) := unbounded _ rfl trivial
theorem evict (r : CmdRef) : Statement (.evict r) := unbounded _ rfl trivial
theorem restore (r : CmdRef) : Statement (.restore r) := unbounded _ rfl trivial
theorem mcreate (r : CmdRef) : Statement (.mcreate r) := unbounded _ rfl trivial
theorem mextent (r : CmdRef) : Statement (.mextent r) := unbounded _ rfl trivial
theorem mwrite (r : CmdRef) : Statement (.mwrite r) := unbounded _ rfl trivial
theorem mseal (r : CmdRef) : Statement (.mseal r) := unbounded _ rfl trivial
theorem mtable (r : CmdRef) : Statement (.mtable r) := unbounded _ rfl trivial
theorem mload (r : CmdRef) : Statement (.mload r) := unbounded _ rfl trivial
theorem munload (r : CmdRef) : Statement (.munload r) := unbounded _ rfl trivial
theorem mfree (r : CmdRef) : Statement (.mfree r) := unbounded _ rfl trivial
theorem mxfree (r : CmdRef) : Statement (.mxfree r) := unbounded _ rfl trivial
theorem patch (r : CmdRef) : Statement (.patch r) := unbounded _ rfl trivial
theorem patchFlip (m : BitVec 5) : Statement (.patchFlip m) := unbounded _ rfl trivial
theorem bsload (r : CmdRef) : Statement (.bsload r) := unbounded _ rfl trivial
theorem bsPersistDone (slot : BitVec 3) : Statement (.bsPersistDone slot) := unbounded _ rfl trivial
theorem bsact (r : CmdRef) : Statement (.bsact r) := unbounded _ rfl trivial
theorem bsfree (r : CmdRef) : Statement (.bsfree r) := unbounded _ rfl trivial
theorem bsSwitch (r : CmdRef) : Statement (.bsSwitch r) := unbounded _ rfl trivial
theorem bsAreaWrite (who : Agent) (val : Word) : Statement (.bsAreaWrite who val) := unbounded _ rfl trivial
theorem commandEnd (r : CmdRef) : Statement (.commandEnd r) := unbounded _ rfl trivial
theorem nop (c : BitVec 4) : Statement (.nop c) := unbounded _ rfl trivial
theorem end_ (c : BitVec 4) : Statement (.end_ c) := unbounded _ rfl trivial
theorem jmp (c : BitVec 4) : Statement (.jmp c) := unbounded _ rfl trivial
theorem br (c : BitVec 4) : Statement (.br c) := unbounded _ rfl trivial
theorem loop (c : BitVec 4) : Statement (.loop c) := unbounded _ rfl trivial
theorem call (c : BitVec 4) : Statement (.call c) := unbounded _ rfl trivial
theorem ret (c : BitVec 4) : Statement (.ret c) := unbounded _ rfl trivial
theorem alu (c : BitVec 4) : Statement (.alu c) := unbounded _ rfl trivial
theorem alui (c : BitVec 4) : Statement (.alui c) := unbounded _ rfl trivial
theorem li (c : BitVec 4) : Statement (.li c) := unbounded _ rfl trivial
theorem sld (c : BitVec 4) : Statement (.sld c) := unbounded _ rfl trivial
theorem sst (c : BitVec 4) : Statement (.sst c) := unbounded _ rfl trivial
theorem slds (c : BitVec 4) : Statement (.slds c) := unbounded _ rfl trivial
theorem sldsReturn (c : BitVec 4) (gd : BitVec 5) : Statement (.sldsReturn c gd) := unbounded _ rfl trivial
theorem ssts (c : BitVec 4) : Statement (.ssts c) := unbounded _ rfl trivial
theorem csrr (c : BitVec 4) : Statement (.csrr c) := unbounded _ rfl trivial
theorem tset (c : BitVec 4) : Statement (.tset c) := unbounded _ rfl trivial
theorem tclr (c : BitVec 4) : Statement (.tclr c) := unbounded _ rfl trivial
theorem twait (c : BitVec 4) : Statement (.twait c) := unbounded _ rfl trivial
theorem twaitWake (c : BitVec 4) : Statement (.twaitWake c) := unbounded _ rfl trivial
theorem col (c : BitVec 4) : Statement (.col c) := unbounded _ rfl trivial
theorem colRelease (node : BitVec 3) (ch : BitVec 4) : Statement (.colRelease node ch) := unbounded _ rfl trivial
theorem usig (c : BitVec 4) : Statement (.usig c) := unbounded _ rfl trivial
theorem usigSignal (c : BitVec 4) (u : CoreUnit) : Statement (.usigSignal c u) := unbounded _ rfl trivial
theorem dma (c : BitVec 4) : Statement (.dma c) := unbounded _ rfl trivial
theorem dmaIssue (c : BitVec 4) : Statement (.dmaIssue c) := unbounded _ rfl trivial
theorem ringPieceTake (c : BitVec 4) (flight : Nat) : Statement (.ringPieceTake c flight) := unbounded _ rfl trivial
theorem mma (c : BitVec 4) : Statement (.mma c) := unbounded _ rfl trivial
theorem mmaIssue (c : BitVec 4) : Statement (.mmaIssue c) := unbounded _ rfl trivial
theorem tileClose (c : BitVec 4) (flight : Nat) : Statement (.tileClose c flight) := unbounded _ rfl trivial
theorem drainDone (c : BitVec 4) (flight : Nat) : Statement (.drainDone c flight) := unbounded _ rfl trivial
theorem protectedWaitEnd (c : BitVec 4) (u : CoreUnit) : Statement (.protectedWaitEnd c u) := unbounded _ rfl trivial
theorem mgl (c : BitVec 4) : Statement (.mgl c) := unbounded _ rfl trivial
theorem mglIssue (c : BitVec 4) : Statement (.mglIssue c) := unbounded _ rfl trivial
theorem mglDone (c : BitVec 4) : Statement (.mglDone c) := unbounded _ rfl trivial
theorem vop (c : BitVec 4) : Statement (.vop c) := unbounded _ rfl trivial
theorem vld (c : BitVec 4) : Statement (.vld c) := unbounded _ rfl trivial
theorem vst (c : BitVec 4) : Statement (.vst c) := unbounded _ rfl trivial
theorem gate (c : BitVec 4) : Statement (.gate c) := unbounded _ rfl trivial
theorem vsf (c : BitVec 4) : Statement (.vsf c) := unbounded _ rfl trivial
theorem norm (c : BitVec 4) : Statement (.norm c) := unbounded _ rfl trivial
theorem red (c : BitVec 4) : Statement (.red c) := unbounded _ rfl trivial
theorem topk (c : BitVec 4) : Statement (.topk c) := unbounded _ rfl trivial
theorem vectorIssue (c : BitVec 4) : Statement (.vectorIssue c) := unbounded _ rfl trivial
theorem streamReductionDone (c : BitVec 4) : Statement (.streamReductionDone c) := unbounded _ rfl trivial
theorem wcmp (c : BitVec 4) : Statement (.wcmp c) := unbounded _ rfl trivial
theorem wexp (c : BitVec 4) : Statement (.wexp c) := unbounded _ rfl trivial
theorem wringerIssue (c : BitVec 4) : Statement (.wringerIssue c) := unbounded _ rfl trivial
theorem wringerBlockDone (c : BitVec 4) : Statement (.wringerBlockDone c) := unbounded _ rfl trivial
theorem releasePoint (c : BitVec 4) (u : CoreUnit) (flight : Nat) : Statement (.releasePoint c u flight) := unbounded _ rfl trivial
theorem waitTimeout (c : BitVec 4) (w : Waiter) : Statement (.waitTimeout c w) := unbounded _ rfl trivial
theorem corePartEnd (c : BitVec 4) : Statement (.corePartEnd c) := unbounded _ rfl trivial
theorem islandGate (island : Island) : Statement (.islandGate island) := unbounded _ rfl trivial
theorem islandWake (island : Island) : Statement (.islandWake island) := unbounded _ rfl trivial
theorem patrolScrub (mem : MemSel) (granule : Nat) (found : Ecc) : Statement (.patrolScrub mem granule found) := ⟨by cases mem <;> simp [Instr.wf, fits, granuleCount], no_word _⟩
theorem ceWindow : Statement (.ceWindow) := unbounded _ rfl trivial
theorem coreFault (c : BitVec 4) (check : CoreCheck) : Statement (.coreFault c check) := unbounded _ rfl trivial
theorem fenceDeadline (c : BitVec 4) : Statement (.fenceDeadline c) := unbounded _ rfl trivial
theorem orphanResponse (tag : BitVec 16) : Statement (.orphanResponse tag) := unbounded _ rfl trivial
theorem orphanTagTimeout (tag : BitVec 16) : Statement (.orphanTagTimeout tag) := unbounded _ rfl trivial
theorem coreSelfTestEnd (c : BitVec 4) (passed : Bool) : Statement (.coreSelfTestEnd c passed) := unbounded _ rfl trivial
theorem deviceFault (unit : BitVec 8) (check : BitVec 8) : Statement (.deviceFault unit check) := unbounded _ rfl trivial
theorem mcWatchdog : Statement (.mcWatchdog) := unbounded _ rfl trivial
theorem info : Statement (.info) := unbounded _ rfl trivial
theorem powerMode : Statement (.powerMode) := unbounded _ rfl trivial
theorem setTime : Statement (.setTime) := unbounded _ rfl trivial
theorem fwStage : Statement (.fwStage) := unbounded _ rfl trivial
theorem fwActivate (selfCheck : Bool) : Statement (.fwActivate selfCheck) := unbounded _ rfl trivial
theorem tamperRecover : Statement (.tamperRecover) := unbounded _ rfl trivial
theorem background : Statement (.background) := unbounded _ rfl trivial
theorem coreRetest : Statement (.coreRetest) := unbounded _ rfl trivial
theorem evtAckWrite (val : Word) : Statement (.evtAckWrite val) := unbounded _ rfl trivial
theorem evtFlush (val : Word) : Statement (.evtFlush val) := unbounded _ rfl trivial
theorem evtFlushPeriodic : Statement (.evtFlushPeriodic) := unbounded _ rfl trivial
theorem unitProgramStart (handle : BitVec 16) (stripe : Nat) (unit : BitVec 8) : Statement (.unitProgramStart handle stripe unit) := unbounded _ rfl trivial
theorem unitProgramDone (handle : BitVec 16) (stripe : Nat) (unit : BitVec 8) (ok : Bool) : Statement (.unitProgramDone handle stripe unit ok) := unbounded _ rfl trivial
theorem flsConsent (val : Word) : Statement (.flsConsent val) := unbounded _ rfl trivial
theorem erasePulseDone (die : BitVec 3) (bank : BitVec 5) (block : BitVec 8) : Statement (.erasePulseDone die bank block) := unbounded _ rfl trivial
theorem blockEraseDone (die : BitVec 3) (bank : BitVec 5) (block : BitVec 8) (ok : Bool) : Statement (.blockEraseDone die bank block ok) := unbounded _ rfl trivial
theorem flashPageRead (die : BitVec 3) (bank : BitVec 5) (block : BitVec 8) (wl : BitVec 7) : Statement (.flashPageRead die bank block wl) := unbounded _ rfl trivial
theorem flashCodewordDecoded (handle : BitVec 16) (offset : Word) (d : Decode) : Statement (.flashCodewordDecoded handle offset d) := unbounded _ rfl trivial
theorem referenceCheck (die : BitVec 3) (bank : BitVec 5) (block : BitVec 8) (cols : List RefColumn) : Statement (.referenceCheck die bank block cols) := unbounded _ rfl trivial
theorem darnerCopyStart (die : BitVec 3) : Statement (.darnerCopyStart die) := unbounded _ rfl trivial
theorem darnerCopyFlip (die : BitVec 3) (bank : BitVec 5) (block : BitVec 8) : Statement (.darnerCopyFlip die bank block) := unbounded _ rfl trivial
theorem retentionDue (die : BitVec 3) (bank : BitVec 5) (block : BitVec 8) : Statement (.retentionDue die bank block) := unbounded _ rfl trivial
theorem counterCheckpoint : Statement (.counterCheckpoint) := unbounded _ rfl trivial
theorem compactionStart : Statement (.compactionStart) := unbounded _ rfl trivial
theorem stripeMoveDone (handle : BitVec 16) (stripe : Nat) : Statement (.stripeMoveDone handle stripe) := unbounded _ rfl trivial
theorem flashRateChange (rate : BitVec 2) : Statement (.flashRateChange rate) := unbounded _ rfl trivial
theorem storeReady (start : StoreStart) : Statement (.storeReady start) := unbounded _ rfl trivial
theorem flsAsmWrite (who : Agent) (val : Word) : Statement (.flsAsmWrite who val) := unbounded _ rfl trivial
theorem strMirrorWrite (size : Bool) (val : Word) : Statement (.strMirrorWrite size val) := unbounded _ rfl trivial
theorem mirrorLoadDone (m : BitVec 5) (ok : Bool) : Statement (.mirrorLoadDone m ok) := unbounded _ rfl trivial
theorem pieceStaged (slot : BitVec 3) (ring : BitVec 4) : Statement (.pieceStaged slot ring) := unbounded _ rfl trivial
theorem routeRecord (slot : BitVec 3) (off : Nat) : Statement (.routeRecord slot off) := unbounded _ rfl trivial
theorem kvpEnable (val : Word) : Statement (.kvpEnable val) := unbounded _ rfl trivial
theorem poolEnable (pool : BitVec 2) (val : Word) : Statement (.poolEnable pool val) := unbounded _ rfl trivial
theorem poolDisable (pool : BitVec 2) (val : Word) : Statement (.poolDisable pool val) := unbounded _ rfl trivial
theorem dramRequest (req : Requester) (line : Nat) (key : BitVec 7) (wr : List (BitVec 6 × Byte)) : Statement (.dramRequest req line key wr) := ⟨by simp [Instr.wf, fits], no_word _⟩
theorem dramReadReturn (ch : BitVec 4) (symbols : List (BitVec 7)) : Statement (.dramReadReturn ch symbols) := unbounded _ rfl trivial
theorem dramRefresh (ch : BitVec 4) (bank : BitVec 4) (issue : Bool) : Statement (.dramRefresh ch bank issue) := unbounded _ rfl trivial
theorem mr4Poll (mult : Nat) : Statement (.mr4Poll mult) := ⟨by simp [Instr.wf, fits, Nat.one_le_iff_ne_zero], no_word _⟩
theorem hammerWindow : Statement (.hammerWindow) := unbounded _ rfl trivial
theorem laneWindow : Statement (.laneWindow) := unbounded _ rfl trivial
theorem selfRefreshEntry (ch : BitVec 4) : Statement (.selfRefreshEntry ch) := unbounded _ rfl trivial
theorem selfRefreshExit (ch : BitVec 4) : Statement (.selfRefreshExit ch) := unbounded _ rfl trivial
theorem dramTempSample (temp : BitVec 8) : Statement (.dramTempSample temp) := unbounded _ rfl trivial
theorem dramPatrol (line : Nat) (symbols : List (BitVec 7)) : Statement (.dramPatrol line symbols) := ⟨by simp [Instr.wf, fits], no_word _⟩
theorem dramClearUnit (unit : Nat) : Statement (.dramClearUnit unit) := unbounded _ rfl trivial
theorem shadowFreeze (val : Word) : Statement (.shadowFreeze val) := unbounded _ rfl trivial
theorem shadowOpen (val : Word) : Statement (.shadowOpen val) := unbounded _ rfl trivial
theorem mrwDone : Statement (.mrwDone) := unbounded _ rfl trivial
theorem dramSwitch (val : Word) : Statement (.dramSwitch val) := unbounded _ rfl trivial
theorem dramSwitchDone : Statement (.dramSwitchDone) := unbounded _ rfl trivial
theorem dramInitDone : Statement (.dramInitDone) := unbounded _ rfl trivial
theorem drmProbe (val : Word) : Statement (.drmProbe val) := unbounded _ rfl trivial
theorem probeDone (errors : BitVec 11) : Statement (.probeDone errors) := unbounded _ rfl trivial
theorem portEnable (p : BitVec 2) (val : Word) : Statement (.portEnable p val) := unbounded _ rfl trivial
theorem portDisable (p : BitVec 2) (val : Word) : Statement (.portDisable p val) := unbounded _ rfl trivial
theorem portRetrain (p : BitVec 2) (val : Word) : Statement (.portRetrain p val) := unbounded _ rfl trivial
theorem portTrainingDone (p : BitVec 2) (t : Training) : Statement (.portTrainingDone p t) := unbounded _ rfl trivial
theorem portRetry (p : BitVec 2) : Statement (.portRetry p) := unbounded _ rfl trivial
theorem peerSilence (p : BitVec 2) : Statement (.peerSilence p) := unbounded _ rfl trivial
theorem replayTimeout (p : BitVec 2) : Statement (.replayTimeout p) := unbounded _ rfl trivial
theorem flitIdle (p : BitVec 2) (f : Flit) : Statement (.flitIdle p f) := ⟨flit_wf f, no_word _⟩
theorem flitData (p : BitVec 2) (f : Flit) : Statement (.flitData p f) := ⟨flit_wf f, no_word _⟩
theorem flitCol (p : BitVec 2) (f : Flit) : Statement (.flitCol p f) := ⟨flit_wf f, no_word _⟩
theorem flitCtrl (p : BitVec 2) (f : Flit) : Statement (.flitCtrl p f) := ⟨flit_wf f, no_word _⟩
theorem flitNak (p : BitVec 2) (f : Flit) : Statement (.flitNak p f) := ⟨flit_wf f, no_word _⟩
theorem flitGreset (p : BitVec 2) (f : Flit) : Statement (.flitGreset p f) := ⟨flit_wf f, no_word _⟩
theorem flitCrcFail (p : BitVec 2) : Statement (.flitCrcFail p) := unbounded _ rfl trivial
theorem collectiveRequest (slot : BitVec 3) (idx : BitVec 4) : Statement (.collectiveRequest slot idx) := unbounded _ rfl trivial
theorem collectiveMatch (slot : BitVec 3) (idx : BitVec 4) (records : List MemberRec) : Statement (.collectiveMatch slot idx records) := unbounded _ rfl trivial
theorem collectiveDone (slot : BitVec 3) (idx : BitVec 4) : Statement (.collectiveDone slot idx) := unbounded _ rfl trivial
theorem collectiveTimeout (slot : BitVec 3) (idx : BitVec 4) : Statement (.collectiveTimeout slot idx) := unbounded _ rfl trivial
theorem ulkGreset (val : Word) : Statement (.ulkGreset val) := unbounded _ rfl trivial
theorem getVersion : Statement (.getVersion) := unbounded _ rfl trivial
theorem getCapabilities : Statement (.getCapabilities) := unbounded _ rfl trivial
theorem negotiateAlgorithms : Statement (.negotiateAlgorithms) := unbounded _ rfl trivial
theorem getDigests : Statement (.getDigests) := unbounded _ rfl trivial
theorem getCertificate (slot : BitVec 4) (off len : BitVec 16) : Statement (.getCertificate slot off len) := unbounded _ rfl trivial
theorem challenge (slot : BitVec 4) (nonce : List Byte) : Statement (.challenge slot nonce) := ⟨by simp [Instr.wf, fits], no_word _⟩
theorem getMeasurements (index : BitVec 8) (sign : Bool) (nonce : List Byte) : Statement (.getMeasurements index sign nonce) := ⟨by simp [Instr.wf, fits], no_word _⟩
theorem keyExchange (req : List Byte) : Statement (.keyExchange req) := unbounded _ rfl trivial
theorem finish (sess : BitVec 2) (ok : Bool) : Statement (.finish sess ok) := unbounded _ rfl trivial
theorem heartbeat (sess : BitVec 2) : Statement (.heartbeat sess) := unbounded _ rfl trivial
theorem keyUpdate (sess : BitVec 2) : Statement (.keyUpdate sess) := unbounded _ rfl trivial
theorem endSession (sess : BitVec 2) : Statement (.endSession sess) := unbounded _ rfl trivial
theorem keyWeight (sess : BitVec 2) (payload : List Byte) : Statement (.keyWeight sess payload) := unbounded _ rfl trivial
theorem keyContext (sess : BitVec 2) (payload : List Byte) : Statement (.keyContext sess payload) := unbounded _ rfl trivial
theorem keyVerify (sess : BitVec 2) (payload : List Byte) : Statement (.keyVerify sess payload) := unbounded _ rfl trivial
theorem keyDestroy (sess : BitVec 2) (payload : List Byte) : Statement (.keyDestroy sess payload) := unbounded _ rfl trivial
theorem keyProg (sess : BitVec 2) (set : Bool) (sub : BitVec 2) (tx : Bool) (key : List Byte) : Statement (.keyProg sess set sub tx key) := unbounded _ rfl trivial
theorem kSetGo (sess : BitVec 2) (set : Bool) : Statement (.kSetGo sess set) := unbounded _ rfl trivial
theorem kSetStop (sess : BitVec 2) (set : Bool) : Statement (.kSetStop sess set) := unbounded _ rfl trivial
theorem ideKmQuery (sess : BitVec 2) : Statement (.ideKmQuery sess) := unbounded _ rfl trivial
theorem contextZero (val : Word) : Statement (.contextZero val) := unbounded _ rfl trivial
theorem windowWrite (w : BitVec 2) (r : WinReg) (val : Word) : Statement (.windowWrite w r val) := unbounded _ rfl trivial
theorem tamperAlarm (sensor : BitVec 3) (when_ : TamperWhen) : Statement (.tamperAlarm sensor when_) := unbounded _ rfl trivial
theorem powerSample (cores others : List (List Nat)) : Statement (.powerSample cores others) := unbounded _ rfl trivial
theorem pointRampDone (ridge : BitVec 2) : Statement (.pointRampDone ridge) := unbounded _ rfl trivial
theorem tempSample (readings : List (BitVec 5 × Int)) : Statement (.tempSample readings) := unbounded _ rfl trivial
theorem flashTempSample (hottest : Nat) : Statement (.flashTempSample hottest) := unbounded _ rfl trivial
theorem droopDetect (island : Island) : Statement (.droopDetect island) := unbounded _ rfl trivial
theorem stretchEnd (island : Island) : Statement (.stretchEnd island) := unbounded _ rfl trivial
theorem thermalTrip : Statement (.thermalTrip) := unbounded _ rfl trivial
theorem clearTrip (val : Word) : Statement (.clearTrip val) := unbounded _ rfl trivial
theorem clkFixedWrite (val : Word) : Statement (.clkFixedWrite val) := unbounded _ rfl trivial
theorem idleEntry : Statement (.idleEntry) := unbounded _ rfl trivial
theorem idleEntered : Statement (.idleEntered) := unbounded _ rfl trivial
theorem idleExit : Statement (.idleExit) := unbounded _ rfl trivial
theorem powerOnRequest : Statement (.powerOnRequest) := unbounded _ rfl trivial
theorem pwrfailDeassert : Statement (.pwrfailDeassert) := unbounded _ rfl trivial
theorem i3cOn (val : Word) : Statement (.i3cOn val) := unbounded _ rfl trivial
theorem i3cOff (val : Word) : Statement (.i3cOff val) := unbounded _ rfl trivial
theorem i3cClearTrip (val : Word) : Statement (.i3cClearTrip val) := unbounded _ rfl trivial
theorem pwrCtrlOff (val : Word) : Statement (.pwrCtrlOff val) := unbounded _ rfl trivial
theorem railGroupGood (group : BitVec 3) : Statement (.railGroupGood group) := unbounded _ rfl trivial
theorem railGroupTimeout (group : BitVec 3) : Statement (.railGroupTimeout group) := unbounded _ rfl trivial
theorem railGroupFail (group : BitVec 3) : Statement (.railGroupFail group) := unbounded _ rfl trivial
theorem safePoint : Statement (.safePoint) := unbounded _ rfl trivial
theorem pwrfail : Statement (.pwrfail) := unbounded _ rfl trivial
theorem emergencyRailsOff : Statement (.emergencyRailsOff) := unbounded _ rfl trivial
theorem powerDownRailsOff : Statement (.powerDownRailsOff) := unbounded _ rfl trivial
theorem minOffExpire : Statement (.minOffExpire) := unbounded _ rfl trivial
theorem wakeAlarm : Statement (.wakeAlarm) := unbounded _ rfl trivial
theorem aonPostedWrite : Statement (.aonPostedWrite) := unbounded _ rfl trivial
theorem aonShadowRefresh : Statement (.aonShadowRefresh) := unbounded _ rfl trivial
theorem clk32kLock : Statement (.clk32kLock) := unbounded _ rfl trivial
theorem clk32kLoss : Statement (.clk32kLoss) := unbounded _ rfl trivial
theorem entdaa (addr : BitVec 7) : Statement (.entdaa addr) := unbounded _ rfl trivial
theorem setdasa (addr : BitVec 7) : Statement (.setdasa addr) := unbounded _ rfl trivial
theorem rstdaa : Statement (.rstdaa) := unbounded _ rfl trivial
theorem getpid : Statement (.getpid) := unbounded _ rfl trivial
theorem getbcr : Statement (.getbcr) := unbounded _ rfl trivial
theorem getdcr : Statement (.getdcr) := unbounded _ rfl trivial
theorem getstatus : Statement (.getstatus) := unbounded _ rfl trivial
theorem tapReset : Statement (.tapReset) := unbounded _ rfl trivial
theorem bypass : Statement (.bypass) := unbounded _ rfl trivial
theorem idcode : Statement (.idcode) := unbounded _ rfl trivial
theorem samplePreload (cells : List Bool) : Statement (.samplePreload cells) := unbounded _ rfl trivial
theorem extest : Statement (.extest) := unbounded _ rfl trivial
theorem clamp : Statement (.clamp) := unbounded _ rfl trivial
theorem highz : Statement (.highz) := unbounded _ rfl trivial
theorem tstAccess (dr : BitVec 64) : Statement (.tstAccess dr) := unbounded _ rfl trivial
theorem tstGo (data : RegData) : Statement (.tstGo data) := unbounded _ rfl trivial
theorem tstStop (data : RegData) : Statement (.tstStop data) := unbounded _ rfl trivial
theorem tstRunEnd : Statement (.tstRunEnd) := unbounded _ rfl trivial
theorem tstAbort : Statement (.tstAbort) := unbounded _ rfl trivial
theorem hostReadCompletion (p : HostPurpose) (res : HostRead) : Statement (.hostReadCompletion p res) := ⟨by cases res <;> simp [Instr.wf, HostRead.wf, fits], no_word _⟩
theorem pcieLinkUp (rate width : BitVec 4) : Statement (.pcieLinkUp rate width) := unbounded _ rfl trivial
theorem securityStartupDone (start : IslandStart) : Statement (.securityStartupDone start) := unbounded _ rfl trivial
theorem mmaFinished (c : BitVec 4) (flight : Nat) : Statement (.mmaFinished c flight) := unbounded _ rfl trivial
theorem vccqFlashSample (mv : Nat) : Statement (.vccqFlashSample mv) := unbounded _ rfl trivial
theorem sensorDeassert : Statement (.sensorDeassert) := unbounded _ rfl trivial
theorem zeroisationComplete : Statement (.zeroisationComplete) := unbounded _ rfl trivial
theorem checkerLock (rx : LaneRx) : Statement (.checkerLock rx) := ⟨by simp [Instr.wf, laneWf, fits], no_word _⟩
theorem checkerSlip (lane : Nat) (bits errs : Nat) : Statement (.checkerSlip lane bits errs) := ⟨by simp [Instr.wf, laneWf, fits], no_word _⟩

end Sys2Proof.Laws.Fields
end

