-- ==== Sys2Proof/Tests/Slice0.lean ====
section
/-! SUPPORT. Tests: the checks of well-formedness; for every statement a concrete state and operands that meet the hypotheses of its
clauses together; small effects worked out by hand from the manual. -/

namespace Sys2Proof.Tests

set_option Elab.async false

open Sys2Proof Sys2Proof.Machine Sys2Proof.Safety

/-! ### Ill-formed commands are refused -/

theorem test_wf_bad_access : (Instr.bar0BadAccess true 8 4).wf = false ∧ (Instr.bar0BadAccess true 6 4).wf = true := by decide
theorem test_wf_bar2_read : (Instr.bar2Read 0 0 false).wf = false ∧ (Instr.bar2Read 0 4097 false).wf = false := by decide
theorem test_wf_bar2_write : (Instr.bar2Write 0 [] false).wf = false ∧
    (Instr.bar2Write 0 (List.replicate 513 0) false).wf = false := by decide +kernel
theorem test_wf_fetch : (Instr.commandFetch 0 0 (.ok [1])).wf = false ∧ (Instr.commandFetch 0 0 .error).wf = true := by decide
theorem test_wf_register : (Instr.regWrite .host 2 ⟨0, 0⟩).wf = false ∧ (Instr.regReadClear 5 0).wf = false ∧
    (Instr.latchingRead 7).wf = false := by decide
theorem test_wf_patrol : (Instr.patrolScrub (.cmem 0) 524288 .ue).wf = false ∧ (Instr.patrolScrub (.bufA 0) 8192 .ue).wf = false ∧
    (Instr.patrolScrub (.bufB 0) 16384 .ue).wf = false ∧ (Instr.patrolScrub (.bufD 0) 8192 .ue).wf = false ∧
    (Instr.patrolScrub .shm 4194304 .ue).wf = false := by decide +kernel
theorem test_wf_dram : (Instr.dramRequest 0 754974720 0 []).wf = false ∧ (Instr.dramPatrol 754974720 []).wf = false ∧
    (Instr.mr4Poll 0).wf = false := by decide +kernel
theorem test_wf_host_read : (HostRead.ok [1, 2]).wf (fun n => decide (n ≤ 1)) = false := by decide

/-- A flit with nothing in it. -/
def flit0 : Flit :=
  { seq := 0, ack := 0, crvc := 0, credits := 0, typ := 0, vc := 0, dst := 0, src := 1, len := 0, xfer := 0, poison := false,
    offset := 0, payload := List.replicate 112 0 }

theorem test_wf_flit : (Instr.flitData 0 { flit0 with len := 113 }).wf = false ∧
    (Instr.flitIdle 0 { flit0 with payload := [] }).wf = false ∧ (Instr.flitCol 0 { flit0 with payload := [] }).wf = false ∧
    (Instr.flitCtrl 0 { flit0 with payload := [] }).wf = false ∧ (Instr.flitNak 0 { flit0 with payload := [] }).wf = false ∧
    (Instr.flitGreset 0 { flit0 with payload := [] }).wf = false := by decide +kernel
theorem test_wf_nonce : (Instr.challenge 0 [1]).wf = false ∧ (Instr.getMeasurements 0 true []).wf = false := by decide
theorem test_wf_lane : (Instr.checkerLock ⟨524288, []⟩).wf = false ∧ (Instr.checkerSlip 524288 1 0).wf = false ∧
    (Instr.checkerSlip 0 1 2).wf = false := by decide +kernel

/-! ### One core: words written out by field, as Tables 3 and 4 of the encoding give them -/

/-- An instruction word from its opcode and (low bit, value) pairs. -/
def wd (op : Nat) (fs : List (Nat × Nat)) : DWord := BitVec.ofNat 64 (fs.foldl (fun a f => a + f.2 * 2 ^ f.1) (op * 2 ^ 56))

def ref0 : CmdRef := { ctx := 0, spool := 0, idx := 0 }

/-- A running core with one word at its PC, every bank on the vector port, g1 = 8, g2 = -1, g3 in shared memory. -/
def kOf (w : DWord) : Core :=
  { Core.reset with run := true, cmd := some ref0, front := .running, imem := [(0, w)], imemLen := 1, slot := some 0, bind := 0x55555555,
                    g := [(1, 8), (2, 0xFFFFFFFFFFFFFFFF), (3, 0x1000008)] }

/-- The state after a command that answers one. -/
def after (i : Instr) (s : State) : State := match exec i s with | .next t => t | _ => s

/-- The device with one such core. -/
def one (k : Core) : State := { State.reset with cores := [(0, k)] }

theorem test_nop : handles (one (kOf (wd 0 []))) 0 .nop := by unfold handles; decide +kernel
theorem test_end : handles (one (kOf (wd 1 []))) 0 .end_ := by unfold handles; decide +kernel
theorem test_jmp : handles (one (kOf (wd 2 [(0, 8191)]))) 0 (.jmp 8191) := by unfold handles; decide +kernel
theorem test_br_taken : handles (one (kOf (wd 3 [(53, 2), (48, 2), (43, 1), (0, 5)]))) 0 (.br 2 2 1 5) ∧
    condHolds 2 ((kOf 0).gr 2) ((kOf 0).gr 1) := by unfold handles; exact ⟨by decide +kernel, by simp only [condHolds]; decide +kernel⟩
theorem test_br_not_taken : handles (one (kOf (wd 3 [(53, 4), (48, 2), (43, 1), (0, 5)]))) 0 (.br 4 2 1 5) ∧
    ¬ condHolds 4 ((kOf 0).gr 2) ((kOf 0).gr 1) := by unfold handles; exact ⟨by decide +kernel, by simp only [condHolds]; decide +kernel⟩
theorem test_loop : handles (one (kOf (wd 4 [(48, 1), (0, 3)]))) 0 (.loop 1 3) ∧
    handles (one (kOf (wd 4 [(0, 3)]))) 0 (.loop 0 3) := by unfold handles; decide +kernel
theorem test_call : handles (one (kOf (wd 5 [(0, 8191)]))) 0 (.call 8191) := by unfold handles; decide +kernel
theorem test_ret : handles (one (kOf (wd 6 []))) 0 .ret := by unfold handles; decide +kernel
theorem test_alu : handles (one (kOf (wd 0x10 [(48, 4), (43, 1), (38, 2), (0, 12)]))) 0 (.alu 4 1 2 12) ∧
    aluResult 7 0x8000000000000000 65 = 0xC000000000000000 := by unfold handles; decide +kernel
theorem test_alui : handles (one (kOf (wd 0x11 [(48, 0), (43, 1), (39, 1), (0, 0x80000000)]))) 0 (.alui 0 1 1 0x80000000) := by
  unfold handles; decide +kernel
theorem test_li : handles (one (kOf (wd 0x12 [(48, 4), (0, 0xFFFFFFFFFFFF)]))) 0 (.li 4 0xFFFFFFFFFFFF) := by
  unfold handles; decide +kernel
theorem test_csrr : handles (one (kOf (wd 0x17 [(48, 4), (0, 0)]))) 0 (.csrr 4 0) ∧ handles (one (kOf (wd 0x17 [(48, 4), (0, 1)]))) 0 (.csrr 4 1) ∧
    handles (one (kOf (wd 0x17 [(48, 4), (0, 2)]))) 0 (.csrr 4 2) ∧ handles (one (kOf (wd 0x17 [(48, 4), (0, 3)]))) 0 (.csrr 4 3) ∧
    ((one (kOf 0)).core 0).cmd = some ref0 := by unfold handles; decide +kernel
/-- LI writes 48 bits zero-extended; ALUI sign-extends its immediate (Table 5 of R149). -/
theorem test_li_effect : (after (.li 0) (one (kOf (wd 0x12 [(48, 4), (0, 0xFFFFFFFFFFFF)])))).cores =
    (one { kOf (wd 0x12 [(48, 4), (0, 0xFFFFFFFFFFFF)]) with
      pc := 1, g := [(1, 8), (2, 0xFFFFFFFFFFFFFFFF), (3, 0x1000008), (4, 0xFFFFFFFFFFFF)] }).cores := by decide +kernel
theorem test_alui_effect : (after (.alui 0) (one (kOf (wd 0x11 [(48, 1), (43, 1), (0, 0xFFFFFFFF)])))).cores =
    (one { kOf (wd 0x11 [(48, 1), (43, 1), (0, 0xFFFFFFFF)]) with
      pc := 1, g := [(1, 7), (2, 0xFFFFFFFFFFFFFFFF), (3, 0x1000008)] }).cores := by decide +kernel

theorem test_sld : handles (one (kOf (wd 0x13 [(48, 4), (43, 1), (0, 0xFFFF8)]))) 0 (.sld 4 1 0xFFFF8) ∧ memAddr (kOf 0) 1 0xFFFF8 = 0 ∧
    (kOf 0).inPort 1 0 8 = true ∧ cleanRange (kOf 0).cmem 0 8 := by unfold handles cleanRange; decide +kernel
theorem test_sld_unaligned : handles (one (kOf (wd 0x13 [(48, 4), (43, 1), (0, 4)]))) 0 (.sld 4 1 4) ∧ memAddr (kOf 0) 1 4 % 8 ≠ 0 := by
  unfold handles; decide +kernel
theorem test_sst : handles (one (kOf (wd 0x14 [(43, 1), (38, 2), (0, 8)]))) 0 (.sst 1 2 8) ∧ memAddr (kOf 0) 1 8 = 16 ∧
    (kOf 0).inPort 1 16 8 = true := by unfold handles; decide +kernel
theorem test_sst_outside : handles (one (kOf (wd 0x14 [(43, 3), (38, 2)]))) 0 (.sst 3 2 0) ∧
    (kOf 0).inPort 1 (memAddr (kOf 0) 3 0) 8 = false := by unfold handles; decide +kernel

/-- A WORK partition of one 64 KiB unit at the start of shared memory. -/
def shmOne (k : Core) : State :=
  { one k with parts := [(0, { Part.free with slot := some 0, kind := 1, size := 1 })] }

theorem test_slds : handles (shmOne (kOf (wd 0x15 [(48, 4), (43, 3)]))) 0 (.slds 4 3 0) ∧ memAddr (kOf 0) 3 0 = 0x1000000 + 8 ∧
    (shmOne (kOf 0)).shmOk (some 0) [kindWork, kindArgs] 8 8 = true := by unfold handles; decide +kernel
theorem test_slds_return : ((one { kOf 0 with slds := [(4, 8, 0)] }).core 0).slds = (4, 8, 0) :: [] ∧ (4 : BitVec 5) ≠ 0 ∧
    cleanRange (one { kOf 0 with slds := [(4, 8, 0)] }).shm 8 8 := by unfold cleanRange; decide +kernel
theorem test_ssts : handles (shmOne (kOf (wd 0x16 [(43, 3), (38, 2), (0, 8)]))) 0 (.ssts 3 2 8) ∧ memAddr (kOf 0) 3 8 = 0x1000000 + 16 ∧
    (shmOne (kOf 0)).shmOk (some 0) [kindWork] 16 8 = true := by unfold handles; decide +kernel

theorem test_tset : handles (one (kOf (wd 0x20 [(0, 63)]))) 0 (.tset 63) := by unfold handles; decide +kernel
theorem test_tclr : handles (one (kOf (wd 0x21 [(0, 0)]))) 0 (.tclr 0) := by unfold handles; decide +kernel
theorem test_twait_set : handles (one (kOf (wd 0x22 [(6, 1)]))) 0 (.twait true 0) ∧ (kOf 0).tack 0 = true ∧
    ((one (kOf (wd 0x22 [(6, 1)]))).core 0).firstTo 0 0 (consumes (.twait true 0)) = true := by
  unfold handles; decide +kernel
theorem test_twait_clear : handles (one (kOf (wd 0x22 [(0, 5)]))) 0 (.twait false 5) ∧ (kOf 0).tack 5 = false := by
  unfold handles; decide +kernel
theorem test_twait_wake : ((one { kOf 0 with front := .tack 0 true }).core 0).front = .tack 0 true ∧
    ((one { kOf 0 with front := .tack 0 true }).core 0).tack 0 = true ∧
    ((one { kOf 0 with front := .tack 0 true }).core 0).firstTo 0 0 (consumes (.twait true 0)) = true := by decide +kernel

/-- A dispatched instruction with its operands. -/
def disp (i : CoreInstr) (a b c d : DWord) : Disp := { sn := 0, pc := 0, ins := i, x0 := a, x1 := b, x2 := c, x3 := d }
def pendOf (ds : List Disp) : UnitSt := { UnitSt.none with pend := ds }
def flightOf (d : Disp) (desc : List Byte) : Flight := { d := d, desc := desc, phase := 0, blk := 0, reading := false, fed := [], seen := none, hits := [], ue := false }
def flyOf (fs : List Flight) : UnitSt := { UnitSt.none with flights := fs }

theorem test_usig :
    let s := one { kOf (wd 0x24 [(48, 3), (0, 7)]) with dma := pendOf [disp (.dma 1 0 false 2) 64 0 0 0] }
    handles s 0 (.usig .dma 7) ∧ 0 < ((s.core 0).unit .dma).pend.length ∧ ((s.core 0).unit .dma).pend.length < 4 ∧
      ∀ d ∈ ((s.core 0).unit .dma).pend, opcodeOf d.ins ≠ 0x24 := by unfold handles; decide +kernel
theorem test_usig_signal :
    let s := one { kOf 0 with wrg := { UnitSt.none with usigs := [(3, 9)] } }
    ((s.core 0).unit .wringer).usigs = (3, 9) :: [] ∧ ((s.core 0).unit .wringer).quietBefore 3 = true := by decide +kernel
theorem test_beyond_program : (one { kOf 0 with pc := 1 }).frontReady 0 = true ∧
    ((one { kOf 0 with pc := 1 }).core 0).imemLen ≤ ((one { kOf 0 with pc := 1 }).core 0).pc.toNat := by decide +kernel
/-- Opcode 0x07 is in no row of Table 4; a reserved bit of NOP must be 0; BR has conditions 0 to 5. -/
theorem test_refused_words : decodeWord (wd 7 []) = none ∧ decodeWord (wd 0 [(0, 1)]) = none ∧ decodeWord (wd 3 [(53, 6)]) = none ∧
    (one (kOf (wd 7 []))).frontReady 0 = true := by decide +kernel

def micro0 : Micro := { code := 0x40, flags := 0, pinf := 0, ninf := 0, pzero := 0, nzero := 0, steps := [] }
def vsfVbWord : DWord := wd 0x64 [(50, 3), (44, 1), (38, 2), (25, 0x40), (19, 63)]

/-- VB names v2 for a micro-program of one input (R161). -/
theorem test_refused_vb : (∀ j, decodeWord vsfVbWord = some j → vbOk [micro0] j = false) ∧ micro0.two = false ∧
    (one { kOf vsfVbWord with micro := [micro0] }).frontReady 0 = true := by
  refine ⟨?_, by decide, by decide +kernel⟩
  intro j h
  have e : decodeWord vsfVbWord = some (.vsf 3 1 2 0x40 63) := by decide +kernel
  rw [e] at h; cases h; decide

def chan0 : Chan := { Chan.reset with slot := some 0, mask := 3 }

theorem test_col :
    let s : State := { one (kOf (wd 0x23 [(48, 1), (43, 4), (8, 0), (7, 1), (0, 6)])) with chans := [(0, chan0)] }
    handles s 0 (.col 1 4 0 0 true 6) ∧ s.colAllowed 0 (s.core 0) (s.chanOf 0 0) = true ∧ (s.core 0).tack 0 = true ∧
      (s.chan (s.chanOf 0 0)).kind = 0 ∧ (s.chan (s.chanOf 0 0)).cancelled = false ∧
      (s.chan (s.chanOf 0 0)).arrived.getLsbD 0 = false ∧ (s.core 0).firstTo 0 0 (consumes (.col 1 4 0 0 true 6)) = true := by
  unfold handles; decide +kernel
theorem test_col_release :
    let s : State := { State.reset with
      cores := [(0, { kOf 0 with front := .col 0 0 0 4 6 }), (1, { kOf 0 with front := .col 0 0 0 4 6 })],
      chans := [(0, { chan0 with arrived := 3 })] }
    (s.chan 0).slot = some 0 ∧ (s.chan 0).cancelled = false ∧ (s.chan 0).kind = 0 ∧ (s.chan 0).scope ≠ 2 ∧
      (s.chan 0).arrived = (s.chan 0).mask ∧ (s.core 1).front = .col 0 0 0 4 6 ∧ (s.chan 0).mask.getLsbD 1 = true := by decide +kernel

theorem test_wait_timeout :
    let s := one { kOf (wd 0x22 [(0, 5)]) with front := .tack 5 false }
    s.unitsRun 0 = true ∧ (s.core 0).run = true ∧ (s.core 0).peer = false ∧ (s.core 0).code = none ∧ (s.core 0).cmd = some ref0 ∧
      (s.core 0).front = .tack 5 false ∧ bitOf (s.reg (coreOff 0 0xB08)) 31 = false := by decide +kernel
theorem test_core_part_end :
    let s := one { kOf 0 with front := .stopped, code := some 5 }
    (s.core 0).run = true ∧ (s.core 0).front = .stopped ∧ (s.core 0).drained = true ∧ s.unitsRun 0 = true ∧
      (s.core 0).cmd = some ref0 ∧ (s.core 0).code = some 5 := by decide +kernel
theorem test_island_gate : State.reset.islandEmpty (.core 15) = true := by decide +kernel
theorem test_island_wake : (State.reset.core 15).fence = .inService := by decide +kernel
theorem test_patrol :
    let s := one { kOf 0 with patrol := 524287 }
    s.memGated (.cmem 0) = false ∧ 8 * 524287 < 0x400000 ∧ (s.core 0).patrol = 524287 ∧
      bitOf (s.reg (coreOff 0 0xC0C)) 31 = false := by decide +kernel

theorem test_core_fault :
    let s := one (kOf 0)
    0 < s.coreCount ∧ checkOk (.imem 5) = true ∧ (s.core 0).checkFits (.imem 5) = true ∧ (s.core 0).fence = .inService ∧ (s.core 0).faultStep = 0 ∧
      ∀ i, (s.bsSlot i).switched = none := ⟨by decide, by decide, by decide +kernel, by decide, by decide, fun _ => rfl⟩
theorem test_no_core_at_col : ∀ m, m < 16 → ∀ a b d e f, ((one (kOf 0)).core m).front ≠ .col a b d e f := by
  intro m h a b d e f
  have : ∀ m, m < 16 → ((one (kOf 0)).core m).front = .running ∨ ((one (kOf 0)).core m).front = .stopped := by decide +kernel
  rcases this m h with x | x <;> rw [x] <;> exact Front.noConfusion
theorem test_fence_deadline :
    let s := one { kOf 0 with faultStep := 2, fence := .testing }
    (s.core 0).faultStep = 2 ∧ (s.core 0).fence = .testing ∧ s.aon.offLatched = false := by decide +kernel
theorem test_self_test :
    let s := one { kOf 0 with faultStep := 3, fence := .testing, faultTimes := [0, 0] }
    let t := one { kOf 0 with faultStep := 3, fence := .testing, faultTimes := [0, 0, 0] }
    (s.core 0).fence = .testing ∧ (s.core 0).faultStep = 3 ∧ (recentFaults s (s.core 0)).length < 3 ∧
      3 ≤ (recentFaults t (t.core 0)).length := by decide +kernel
theorem test_orphan : (5 : BitVec 16) ∈ ({ State.reset with ras := { Ras.reset with orphans := [5] } } : State).ras.orphans := by decide +kernel
theorem test_device_fault_units : 0x10 ≤ (0x10#8).toNat ∧ (0x1D#8).toNat ≤ 0x1D := by decide
theorem test_watchdog_previous :
    let s : State := { State.reset with
      regs := [(0x20000, 0x40000000)], ras := { Ras.reset with mcPrev := some (.shipped false), mcRestarts := [0, 0] } }
    mgtBusy s = true ∧ s.ras.mcPrev = some (.shipped false) := by decide +kernel

/-! ### Units of a core -/

theorem test_dma : handles (one (kOf (wd 0x30 [(48, 1), (20, 5), (19, 1), (8, 6)]))) 0 (.dma 1 5 true 6) ∧ (kOf 0).dma.pend.length < 4 := by
  unfold handles; decide +kernel
theorem test_dma_full :
    let s := one { kOf (wd 0x30 [(48, 1), (20, 5), (19, 1), (8, 6)]) with dma := pendOf (List.replicate 4 (disp .nop 0 0 0 0)) }
    handles s 0 (.dma 1 5 true 6) ∧ 4 ≤ (s.core 0).dma.pend.length := by unfold handles; decide +kernel

def mmaWord : DWord := wd 0x40 [(52, 5), (50, 1), (48, 1), (46, 1), (41, 1), (36, 1), (31, 1), (26, 1), (20, 2), (14, 3), (8, 4), (2, 6), (1, 1)]
def mmaIns : CoreInstr := .mma 5 1 1 false true 1 1 1 1 2 3 4 6 true false

theorem test_mma : handles (one (kOf mmaWord)) 0 mmaIns ∧ ((kOf 0).gr 1).toNat < 2 ^ 45 ∧ ((kOf 0).gr 1).toNat < 2 ^ 32 ∧
    (shapeOf ((kOf 0).gr 1)).pair ≤ 7 ∧ (shapeOf ((kOf 0).gr 1)).dfmt ≤ 8 ∧ (kOf 0).mat.pend.length < 4 := by unfold handles; decide +kernel
theorem test_mma_reserved : handles (one { kOf mmaWord with g := [(1, 0x200000000000)] }) 0 mmaIns ∧
    2 ^ 45 ≤ ((one { kOf mmaWord with g := [(1, 0x200000000000)] }).core 0 |>.gr 1).toNat ∧
    handles (one { kOf mmaWord with g := [(1, 0x20000000)] }) 0 mmaIns ∧
    8 ≤ (shapeOf ((one { kOf mmaWord with g := [(1, 0x20000000)] }).core 0 |>.gr 1)).pair := by unfold handles; decide +kernel
theorem test_mgl : handles (one (kOf (wd 0x50 [(48, 1), (41, 1), (32, 2), (31, 1), (25, 3), (24, 1), (18, 4), (6, 6)]))) 0
    (.mgl 1 1 2 true 3 true 4 0 6) := by unfold handles; decide +kernel
/-- R288: glen counts 4 bytes upward in whole elements. -/
theorem test_wcmp : handles (one (kOf (wd 0x80 [(48, 1), (43, 0), (38, 1), (33, 1), (20, 2), (19, 1), (8, 6)]))) 0 (.wcmp 1 0 1 1 2 true 6) ∧
    glenOk ((kOf 0).gr 1) ((kOf 0).gr 0) = true ∧ glenOk ((kOf 0).gr 0) ((kOf 0).gr 0) = false := by unfold handles; decide +kernel
theorem test_wexp : handles (one (kOf (wd 0x81 [(48, 1), (43, 0), (38, 1), (33, 1), (32, 1), (20, 2), (8, 6)]))) 0 (.wexp 1 0 1 1 true 2 false 6) := by
  unfold handles; decide +kernel

theorem test_vop : vecFree ((one (kOf (wd 0x60 [(50, 3), (44, 1), (38, 2), (0, 0x0D)]))).core 0) 0 (.vop 0x0D 3 1 2 0 0 0 0 0) ∧
    handles (one (kOf (wd 0x60 [(50, 3), (44, 1), (38, 2), (0, 0x0D)]))) 0 (.vop 0x0D 3 1 2 0 0 0 0 0) ∧
    handles (one (kOf (wd 0x60 [(50, 3), (27, 1), (0, 0x18)]))) 0 (.vop 0x18 3 0 0 0 1 0 0 0) ∧
    handles (one (kOf (wd 0x60 [(44, 3), (27, 5), (20, 63), (0, 0x19)]))) 0 (.vop 0x19 0 3 0 0 5 63 0 0) ∧
    handles (one (kOf (wd 0x60 [(50, 3), (44, 3), (20, 1), (0, 0x1A)]))) 0 (.vop 0x1A 3 3 0 0 0 1 0 0) := by
  unfold handles vecFree; decide +kernel
/-- VSADD clamps to the INT32 range (Table 1 of R118). -/
theorem test_saturating_add : laneResult 0x0D 0 0 0x7FFFFFFF 1 0 = 0x7FFFFFFF ∧ laneResult 0x0E 0 0 0x80000000 1 0 = 0x80000000 ∧
    ¬ inInt32 (2147483647 + 1) := by unfold inInt32; decide +kernel
theorem test_gate : handles (one (kOf (wd 0x63 [(50, 3), (44, 1), (38, 2), (32, 60), (25, 0x0F)]))) 0 (.gate 3 1 2 60 0x0F) ∧
    vecFree (kOf 0) 0 (.gate 3 1 2 60 0x0F) ∧ (0x0F#7).toNat < 0x40 := by unfold handles vecFree; decide +kernel

theorem test_gate_micro :
    let s := one { kOf (wd 0x63 [(50, 3), (25, 0x40)]) with micro := [micro0] }
    handles s 0 (.gate 3 0 0 0 0x40) ∧ vecFree (s.core 0) 0 (.gate 3 0 0 0 0x40) ∧ (s.core 0).microOf 0x40 = some micro0 ∧
      micro0.two = false := by unfold handles vecFree; decide +kernel
theorem test_vsf : handles (one (kOf (wd 0x64 [(50, 3), (44, 1), (25, 0x0E), (19, 63)]))) 0 (.vsf 3 1 0 0x0E 63) ∧
    vecFree (kOf 0) 0 (.vsf 3 1 0 0x0E 63) ∧ (0x0E#7).toNat < 0x40 := by unfold handles vecFree; decide +kernel

/-- A core with g4 = 64 and g5 = 3, whose vector words stand as in R160. -/
def vK (w : DWord) : Core := { kOf w with g := [(4, 64), (5, 128)] }

theorem test_vld :
    let s := one (vK (wd 0x61 [(50, 3), (45, 4), (40, 5), (36, 7), (28, 63), (8, 6)]))
    let k := s.core 0
    let r := vmemRanges 0 7 63 (k.gr 4) (k.gr 5)
    handles s 0 (.vld 3 4 5 7 0 63 0 false 6) ∧ vecFree k 0 (.vld 3 4 5 7 0 63 0 false 6) ∧ r.2.1 % 64 = 0 ∧ k.spaceOk 0 0 r.2.1 r.2.2.1 = true ∧
      cleanRange (s.ram (spaceMem 0 0)) r.2.1 r.2.2.1 ∧ (k.spaceOk 0 0 r.2.2.2.1 r.2.2.2.2 = true ∧
      cleanRange (s.ram (spaceMem 0 0)) r.2.2.2.1 r.2.2.2.2) ∧ k.readHeld (spaceMem 0 0) r.2.1 r.2.2.1 = false ∧
      k.readHeld (spaceMem 0 0) r.2.2.2.1 r.2.2.2.2 = false := by unfold handles vecFree cleanRange; decide +kernel
theorem test_vst :
    let s := one (vK (wd 0x62 [(50, 3), (45, 4), (40, 5), (36, 7), (34, 3), (28, 31), (8, 6)]))
    let k := s.core 0
    let r := vmemRanges 3 7 31 (k.gr 4) (k.gr 5)
    handles s 0 (.vst 3 4 5 7 3 31 0 false 6) ∧ vecFree k 0 (.vst 3 4 5 7 3 31 0 false 6) ∧ r.2.1 % 64 = 0 ∧ k.spaceOk 0 3 r.2.1 r.2.2.1 = true ∧
      k.spaceOk 0 3 r.2.2.2.1 r.2.2.2.2 = true ∧ k.writeHeld (spaceMem 0 3) r.2.1 r.2.2.1 = false ∧
      k.writeHeld (spaceMem 0 3) r.2.2.2.1 r.2.2.2.2 = false ∧ mergeClean (s.ram (spaceMem 0 3)) r.2.1 r.2.2.1 ∧
      mergeClean (s.ram (spaceMem 0 3)) r.2.2.2.1 r.2.2.2.2 := by unfold handles vecFree mergeClean; decide +kernel
theorem test_vector_release :
    let f := flightOf (disp (.vst 3 4 5 7 3 31 0 false 6) 64 128 0 0) []
    let s := one { vK 0 with vec := flyOf [f] }
    s.unitsRun 0 = true ∧ findFlight (s.core 0).vec 0 = some f := by decide +kernel
theorem test_vld_unaligned :
    let s := one { vK (wd 0x61 [(50, 3), (45, 5), (28, 0)]) with g := [(4, 64), (5, 4)] }
    let k := s.core 0
    let r := vmemRanges 0 0 0 (k.gr 5) (k.gr 0)
    handles s 0 (.vld 3 5 0 0 0 0 0 false 0) ∧ vecFree k 0 (.vld 3 5 0 0 0 0 0 false 0) ∧ (k.gr 5).toNat % 64 ≠ 0 ∧ k.readHeld (spaceMem 0 0) r.2.1 r.2.2.1 = false ∧
      k.readHeld (spaceMem 0 0) r.2.2.2.1 r.2.2.2.2 = false := by unfold handles vecFree; decide +kernel

theorem test_red :
    let s := one { vK (wd 0x70 [(48, 2), (43, 7), (38, 4), (33, 6), (32, 1), (8, 6)]) with g := [(4, 64), (6, 1048576)] }
    let k := s.core 0
    handles s 0 (.red 2 7 4 6 true 0 false 6) ∧ vecFree k 0 (.red 2 7 4 6 true 0 false 6) ∧ 1 ≤ (k.gr 6).toNat ∧ (k.gr 6).toNat ≤ 1048576 ∧
      k.inPort 1 (k.gr 4).toNat ((k.gr 6).toNat * 2) = true := by unfold handles vecFree; decide +kernel
theorem test_topk :
    let s := one { vK (wd 0x71 [(50, 63), (45, 4), (40, 6), (35, 0), (30, 5), (29, 1), (8, 6)]) with g := [(4, 64), (5, 0x3FFE00), (6, 1)] }
    let k := s.core 0
    handles s 0 (.topk 63 4 6 0 5 true false 0 false 6) ∧ vecFree k 0 (.topk 63 4 6 0 5 true false 0 false 6) ∧ 1 ≤ (k.gr 6).toNat ∧ (k.gr 6).toNat ≤ 1048576 ∧
      k.inPort 1 (k.gr 4).toNat ((k.gr 6).toNat * 8) = true ∧ k.inPort 1 (k.gr 5).toNat (8 * 64) = true := by
  unfold handles vecFree; decide +kernel

/-- A NORM descriptor at 64: one row of one FP32 element from 128, gamma absent, result in FP32 at 192. -/
def normBytes : List Byte := toLE 4 128 ++ toLE 8 0 ++ toLE 4 192 ++ toLE 4 0 ++ toLE 4 1 ++ toLE 4 0 ++ toLE 2 1 ++ toLE 2 16 ++ toLE 32 0

theorem test_norm :
    let s := one { vK (wd 0x65 [(48, 4), (8, 6)]) with cmem := Ram.zero.write 64 normBytes }
    let k := s.core 0
    let nd := normDesc (k.cmem.bytes 64 64)
    handles s 0 (.norm 4 0 false 6) ∧ vecFree k 0 (.norm 4 0 false 6) ∧ (k.gr 4).toNat % 64 = 0 ∧ k.inPort 1 64 64 = true ∧ cleanRange k.cmem 64 64 ∧
      nd.ok = true ∧ (∀ r ∈ nd.reads ++ nd.writes, k.inPort 1 r.1 r.2 = true) ∧
      (∀ r ∈ nd.reads, cleanRange k.cmem r.1 r.2) ∧ ∀ r ∈ nd.writes, mergeClean k.cmem r.1 r.2 := by
  unfold handles vecFree cleanRange mergeClean; decide +kernel
theorem test_red_done :
    let f := flightOf (disp (.red 0 7 4 6 false 0 false 6) 64 4 0 0) []
    let s := one { vK 0 with vec := flyOf [f], pendingG := [7] }
    s.unitsRun 0 = true ∧ (s.core 0).vec.flights = f :: [] ∧ cleanRange (s.core 0).cmem 64 16 := by unfold cleanRange; decide +kernel
theorem test_topk_done :
    let f := flightOf (disp (.topk 3 4 6 0 5 false false 0 false 6) 64 4 0 256) []
    let s := one { vK 0 with vec := flyOf [f] }
    s.unitsRun 0 = true ∧ (s.core 0).vec.flights = f :: [] ∧ cleanRange (s.core 0).cmem 64 16 ∧
      (s.core 0).inPort 1 256 (8 * 4) = true ∧ mergeClean (s.core 0).cmem 256 (8 * 4) := by unfold cleanRange mergeClean; decide +kernel
theorem test_vector_issue :
    let d := disp (.red 0 7 4 6 true 0 false 6) 64 2097120 0 0
    let s := one { vK 0 with vec := pendOf [{ d with x1 := 1048576 }] }
    s.unitsRun 0 = true ∧ (s.core 0).vec.pend = [{ d with x1 := 1048576 }] ∧ (s.core 0).tack 0 = true ∧
      (s.core 0).vec.flights.any (fun f => holdsPort f.d.ins) = false ∧
      (s.core 0).firstTo 0 0 (consumes (.red 0 7 4 6 true 0 false 6)) = true ∧ (s.core 0).inPort 1 64 (1048576 * 2) = true := by decide +kernel

/-- OPEN_ZERO, CLOSE and drain of one 1 × 1 tile of INT8 with J = 1: A at 0, B at 0, D at 64 in INT32. -/
def mmaDisp : Disp :=
  disp (.mma 0 0 1 true true 1 2 3 4 0 0 0 6 true false) 0x400000 0x400000 0x400001 0x400000
def mmaDrainOnly : Disp := disp (.mma 0 0 3 false true 0 0 3 4 0 0 0 6 false false) 0 0 0x400001 0x400000
def mmaOpen : Disp := disp (.mma 0 0 2 false false 1 2 0 4 0 0 0 6 false false) 0x400000 0x400000 0 0x400000

theorem test_mma_issue :
    let s := one { kOf 0 with mat := pendOf [mmaDisp] }
    let k := s.core 0
    let m : MmaF := { q := 0, slot := 0, opn := 1, close := true, drain := true, ta := 0, tb := 0, td := 0, ts := 6, ca := true, cb := false }
    let fl : Flight := { d := mmaDisp, desc := [], phase := 0, blk := 0, reading := true, fed := [], seen := none, hits := [], ue := false }
    s.unitsRun 0 = true ∧ k.mat.pend = [mmaDisp] ∧ mmaOf mmaDisp.ins = some m ∧ k.mmaReady m = true ∧
      k.firstTo 0 0 (consumes mmaDisp.ins) = true ∧
      k.mmaLegal m (shapeOf mmaDisp.x3) = true ∧ mmaBounds m mmaDisp = true ∧ (∀ r ∈ fl.readsOf true, cleanRange k.bufA r.1 r.2) ∧
      ∀ r ∈ fl.readsOf false, cleanRange k.bufB r.1 r.2 := by unfold cleanRange; decide +kernel
theorem test_mma_issue_drain :
    let k := { kOf 0 with mat := pendOf [mmaDrainOnly], tiles := [(0, { Tile.idle with st := .closed })] }
    let m : MmaF := { q := 0, slot := 0, opn := 3, close := false, drain := true, ta := 0, tb := 0, td := 0, ts := 6, ca := false, cb := false }
    mmaOf mmaDrainOnly.ins = some m ∧ k.mmaReady m = true ∧ k.firstTo 0 0 (consumes mmaDrainOnly.ins) = true ∧ k.mmaLegal m (shapeOf mmaDrainOnly.x3) = true ∧
      mmaBounds m mmaDrainOnly = true := by decide +kernel
theorem test_tile_close :
    let f := flightOf mmaDisp []
    let k := { kOf 0 with mat := flyOf [f], tiles := [(0, { Tile.idle with st := .open_, m := 1, n := 1 })] }
    (one k).unitsRun 0 = true ∧ findFlight k.mat 0 = some f ∧ (∃ m, mmaOf f.d.ins = some m ∧ m.close = true ∧ f.phase = 0 ∧ m.opn ≠ 3 ∧
      k.beatsFirst m 0 = true) ∧ (shapeOf f.d.x3).m ≤ 32 ∧ (shapeOf f.d.x3).n ≤ 32 :=
  ⟨by decide +kernel, by decide +kernel, ⟨_, rfl, by decide +kernel⟩, by decide +kernel, by decide +kernel⟩
theorem test_mma_finished :
    let f := flightOf mmaOpen []
    let k := { kOf 0 with mat := flyOf [f] }
    findFlight k.mat 0 = some f ∧ ∃ m, mmaOf f.d.ins = some m ∧ m.close = false ∧ m.opn ≠ 3 ∧ k.beatsFirst m 0 = true :=
  ⟨by decide +kernel, _, rfl, by decide +kernel⟩
theorem test_drain_done :
    let f := { flightOf mmaDisp [] with phase := 1 }
    let k := { kOf 0 with mat := flyOf [f] }
    findFlight k.mat 0 = some f ∧ (∃ m, mmaOf f.d.ins = some m ∧ m.drain = true ∧ f.phase = 1 ∧
      ∀ g ∈ k.mat.flights, g.onSub m.q = true → g.hasDrain = true → 0 ≤ g.d.sn) ∧ (shapeOf f.d.x3).dfmt ≤ 5 ∧
      dfmtScaled (shapeOf f.d.x3).dfmt = false ∧ drainRowBytes (shapeOf f.d.x3).dfmt (shapeOf f.d.x3).n ≤ (regionOf f.d.x2).pitch ∧
      ∀ r ∈ drainRanges (regionOf f.d.x2) (shapeOf f.d.x3), mergeClean k.bufD r.1 r.2 := by
  unfold mergeClean
  exact ⟨by decide +kernel, ⟨_, rfl, by decide +kernel⟩, by decide +kernel, by decide +kernel, by decide +kernel, by decide +kernel⟩
theorem test_protected_wait :
    let s := one { kOf 0 with dma := { UnitSt.none with wait := true }, wrg := { UnitSt.none with wait := true },
                              vec := { UnitSt.none with wait := true } }
    s.unitsRun 0 = true ∧ ((s.core 0).unit .dma).wait = true ∧ ((s.core 0).unit .wringer).wait = true ∧ (s.core 0).mgl.flights = [] := by
  decide +kernel

/-- A one-part descriptor of one row (Tables 5 and 6 of R182). -/
def dmaBytes (kind ring src dst len : Nat) : List Byte :=
  toLE 4 (kind + 256 * ring + 65536) ++ toLE 4 0 ++ toLE 6 src ++ toLE 6 dst ++ toLE 4 len ++ toLE 2 1 ++ toLE 38 0
def dmaDisp : Disp := disp (.dma 4 0 true 6) 64 0 0 0
def dK (b : List Byte) : Core := { kOf 0 with bind := 0xFFFFFFFF, cmem := Ram.zero.write 64 b, dma := pendOf [dmaDisp] }

theorem test_dma_issue :
    let s := one (dK (dmaBytes 0 0 128 0x3FFFC0 64))
    let b := (s.core 0).cmem.bytes 64 64
    let cm := s.cmdOf 0
    s.unitsRun 0 = true ∧ (s.core 0).dma.pend = [dmaDisp] ∧ (s.core 0).tack 0 = true ∧
      (s.core 0).firstTo 0 0 (consumes dmaDisp.ins) = true ∧ (s.core 0).dma.flights.length < 16 ∧
      dmaDisp.x0.toNat % 64 = 0 ∧ (s.core 0).inPort 3 64 64 = true ∧ cleanRange (s.core 0).cmem 64 64 ∧ dDescOk b = true ∧ (dDesc b).kind = 0 ∧
      (∀ r ∈ (dDesc b).srcRows 0, s.srcOk 0 cm r = true) ∧ (∀ r ∈ (dDesc b).dstRows 0, s.dstOk 0 cm false r = true) ∧
      ∀ r ∈ (dDesc b).srcRows 0 ++ (dDesc b).dstRows 0, s.rowKeyed 0 cm r = true := by unfold cleanRange; decide +kernel
/-- Refused, in the order of R184's checks: a descriptor at 65; kind 3; a row beyond the memories; a row in DRAM without a window; a
row in a window of a context without its key. -/
theorem test_dma_refused :
    let s (b : List Byte) : State := { one (dK b) with regs := [(winKey 0 0 1, 1), (winKey 0 0 2, 0xA0000000)] }
    let d (b : List Byte) := dDesc ((s b).core 0 |>.cmem.bytes 64 64)
    let far := dmaBytes 0 0 0x3FFFFF 256 64
    let bare := dmaBytes 0 0 (dramBase + 65536) 256 64
    let unkeyed := dmaBytes 0 0 dramBase 256 64
    (65#64).toNat % 64 ≠ 0 ∧ dDescOk ((s (dmaBytes 3 0 128 256 64)).core 0 |>.cmem.bytes 64 64) = false ∧
      (d far).srcRows 0 = [(0x3FFFFF, 64)] ∧ (s far).srcOk 0 ((s far).cmdOf 0) (0x3FFFFF, 64) = false ∧
      (d bare).srcRows 0 = [(dramBase + 65536, 64)] ∧ (s bare).srcOk 0 ((s bare).cmdOf 0) (dramBase + 65536, 64) = false ∧
      (d unkeyed).srcRows 0 = [(dramBase, 64)] ∧ (s unkeyed).srcOk 0 ((s unkeyed).cmdOf 0) (dramBase, 64) = true ∧
      (d unkeyed).dstRows 0 = [(256, 64)] ∧ (s unkeyed).dstOk 0 ((s unkeyed).cmdOf 0) false (256, 64) = true ∧
      (s unkeyed).rowKeyed 0 ((s unkeyed).cmdOf 0) (dramBase, 64) = false := by decide +kernel
/-- A COPY of two rows of 4 bytes, 64 apart, from core memory to buffer A, 8 apart. -/
theorem test_dma_copy_rows :
    let f := flightOf dmaDisp (toLE 4 65536 ++ toLE 4 0 ++ toLE 6 128 ++ toLE 6 0x400000 ++ toLE 4 4 ++ toLE 2 2 ++ toLE 4 64 ++ toLE 4 8 ++ toLE 30 0)
    let s := one { kOf 0 with dma := flyOf [f] }
    findFlight (s.core 0).dma 0 = some f ∧ (s.core 0).dmaActive 0 f = true ∧ (s.core 0).dmaHeld 0 f = false ∧ (dDesc f.desc).kind = 0 ∧
      (dDesc f.desc).srcRows 0 = [(128, 4), (192, 4)] ∧ (dDesc f.desc).dstRows 0 = [(0x400000, 4), (0x400008, 4)] ∧
      placeOf 0 192 4 = some (.ram (.cmem 0) 192) ∧ placeOf 0 0x400008 4 = some (.ram (.bufA 0) 8) ∧ cleanRange (s.core 0).cmem 192 4 ∧
      mergeClean (s.core 0).bufA 8 4 ∧ rangesMeet 0x400000 4 0x400008 4 = false := by
  unfold cleanRange mergeClean; decide +kernel
theorem test_dma_fill :
    let f := flightOf dmaDisp (dmaBytes 2 0 0x01020304 0x3FFFFC 4)
    let k := { kOf 0 with dma := flyOf [f] }
    findFlight k.dma 0 = some f ∧ k.dmaActive 0 f = true ∧ k.dmaHeld 0 f = false ∧ (dDesc f.desc).kind = 2 ∧ (dDesc f.desc).flags = 0 ∧
      (dDesc f.desc).ps = [{ src := 0x01020304, dst := 0x3FFFFC, len := 4, rows := 1, spitch := 0, dpitch := 0, cstep := 0 }] ∧
      mergeClean k.cmem 0x3FFFFC 4 := by
  unfold mergeClean; decide +kernel
theorem test_dma_copy :
    let f := flightOf dmaDisp (dmaBytes 0 0 128 256 64)
    let k := { kOf 0 with dma := flyOf [f] }
    findFlight k.dma 0 = some f ∧ k.dmaActive 0 f = true ∧ k.dmaHeld 0 f = false ∧ (dDesc f.desc).kind = 0 ∧
      (dDesc f.desc).srcRows 0 = [(128, 64)] ∧ (dDesc f.desc).dstRows 0 = [(256, 64)] ∧ cleanRange k.cmem 128 64 ∧ f.ue = false ∧
      mergeClean k.cmem 256 64 := by
  unfold cleanRange mergeClean; decide +kernel
theorem test_ring_take :
    let f := flightOf dmaDisp (dmaBytes 1 5 0 256 4)
    let q : Piece := { pass := 0, core := 0, at_ := 65534, len := 4, taken := false }
    let s := { one { kOf 0 with dma := flyOf [f] } with
      rings := [(ringKey 0 5, [q])], parts := [(0, { Part.free with slot := some 0, kind := 2, ring := 5, base := 1, size := 1 })] }
    findFlight (s.core 0).dma 0 = some f ∧ (dDesc f.desc).kind = 1 ∧ f.phase = 0 ∧ (s.core 0).dmaHeld 0 f = false ∧
      (s.core 0).slot = some 0 ∧ s.ringQ 0 (dDesc f.desc).ring = q :: [] ∧ q.pass = (s.cmdOf 0).pass ∧
      q.len = (dDesc f.desc).bytes ∧ (dDesc f.desc).dstRows 0 = [(256, q.len)] ∧ mergeClean (s.core 0).cmem 256 4 ∧
      s.ringPart 0 (dDesc f.desc).ring = some (65536, 65536) ∧ ringSpans (65536, 65536) q.at_ q.len = [(131070, 2), (65536, 2)] ∧
      ∀ r ∈ ringSpans (65536, 65536) q.at_ q.len, cleanRange s.shm r.1 r.2 := by
  unfold mergeClean cleanRange; decide +kernel

/-- A FORWARD descriptor of one row of 32 dimensions over 32 keys in one page (Table 2 of R92): queries at 4096, scales at
8192, pages at 12288, output at 16384; the page lies at 0x8000 and is listed with size code 5. -/
def mglBytes : List Byte :=
  toLE 4 4096 ++ toLE 4 8192 ++ toLE 4 12288 ++ toLE 4 16384 ++ toLE 16 0 ++ toLE 4 0x3F800000 ++ toLE 4 32 ++ toLE 8 0 ++
  toLE 2 64 ++ toLE 2 128 ++ toLE 4 0 ++ [1, 1, 1, 0] ++ toLE 68 0
def mglDisp : Disp := disp (.mgl 0 4 0 true 0 false 0 0 6) 64 0 0 0
def mK : Core := { kOf 0 with bind := 0xAAAAAAAA, cmem := (Ram.zero.write 64 mglBytes).write 12288 (toLE 4 0x8005) }

theorem test_mgl_issue :
    let s := one { mK with mgl := pendOf [mglDisp] }
    let k := s.core 0
    let f : MglF := { op := 0, tq := 0, cq := true, tk := 0, ck := false, td := 0, tg := 0, ts := 6 }
    let md := mglDesc (k.cmem.bytes 64 128)
    s.unitsRun 0 = true ∧ k.mgl.pend = [mglDisp] ∧ mglOf mglDisp.ins = some f ∧ k.mglReady f = true ∧ k.mglClear f mglDisp = true ∧
      k.firstTo 0 0 (consumes mglDisp.ins) = true ∧ k.inPort 2 64 64 = true ∧
      cleanRange k.cmem 64 64 ∧ md.legal f.op = true ∧
      (∀ r ∈ md.listBytes (md.pages f.op k.cmem), k.inPort 2 r.1 r.2 = true ∧ cleanRange k.cmem r.1 r.2) ∧ (md.pages f.op k.cmem).2 = true ∧
      md.boundsOk k f.op (md.pages f.op k.cmem).1 = true := by unfold cleanRange; decide +kernel
theorem test_mgl_backward_refused :
    let d := disp (.mgl 2 4 0 true 0 false 0 0 6) 64 0 0 0
    let s := one { mK with mgl := pendOf [d] }
    let f : MglF := { op := 2, tq := 0, cq := true, tk := 0, ck := false, td := 0, tg := 0, ts := 6 }
    mglOf d.ins = some f ∧ (s.core 0).mglReady f = true ∧ (s.core 0).mglClear f d = true ∧
      (s.core 0).firstTo 0 0 (consumes d.ins) = true ∧ s.adaptation (s.core 0) = false := by decide +kernel
theorem test_mgl_done :
    let fl := flightOf mglDisp (mglBytes.take 128)
    let k := { mK with mgl := flyOf [fl] }
    let md := mglDesc fl.desc
    let ps := (md.pages 0 k.cmem).1
    k.mgl.flights = fl :: [] ∧ fl.seen = none ∧ (∀ r ∈ md.fixedReads 0 ++ md.listBytes (md.pages 0 k.cmem) ++ md.kvReads 0 k.cmem ps,
      cleanRange k.cmem r.1 r.2) ∧ ∀ r ∈ md.writes 0, r.1 < 0x1000000 := by unfold cleanRange; decide +kernel
/-- No granule has an error, so no merge reads one. -/
theorem test_mgl_merge_clean (a len : Nat) : mergeClean mK.cmem a len := by
  intro g _
  have e : mK.cmem.ecc = [] := by decide +kernel
  rw [e]; rfl

/-- R110: a DMA write into the page of an issued Mangle instruction waits; once it has been read, the write goes on. A second
instruction whose queries the first one writes has not read yet. -/
def mglLater : Flight :=
  flightOf { mglDisp with sn := 1 } (toLE 4 16384 ++ (mglBytes.take 128).drop 4)
def mglHeld (fs : List Flight) : Core :=
  { mK with mgl := flyOf fs, dma := { flyOf [flightOf { dmaDisp with sn := 2 } (dmaBytes 2 0 7 0x8000 4)] with wait := true } }
theorem test_mgl_protects :
    let k := mglHeld [flightOf mglDisp (mglBytes.take 128)]
    k.writeHeld (.cmem 0) 0x8000 4 = true ∧ k.writeHeld (.cmem 0) 0x9000 4 = false ∧
      (k.readNow (k.heldWrites 0 .dma)).writeHeld (.cmem 0) 0x8000 4 = false := by decide +kernel
/-- A VST into the page of an issued Mangle instruction waits; the Mangle has read it when the wait ends. -/
theorem test_vector_waits :
    let k := { mglHeld [flightOf mglDisp (mglBytes.take 128)] with
      dma := UnitSt.none, vec := pendOf [{ disp (.vst 3 0 0 7 0 31 0 false 6) 0x8000 0 0 0 with sn := 2 }] }
    k.protWaits 0 .vector = true ∧ k.mgl.flights.any (fun f => f.mglReadsAny k.cmem (k.heldWrites 0 .vector) &&
      k.mgl.flights.any (fun g => decide (g.d.sn < f.d.sn) && (f.mglReads k.cmem).any (fun r => anyMeet g.mglWrites r.1 r.2))) = false := by
  decide +kernel
/-- One awaited range of buffer A: the other operand of the same MMA stays to be read (R80). -/
theorem test_mma_feed :
    let f := { flightOf mmaDisp [] with reading := true }
    let g := f.feed [(.bufA 0, 0, 1)]
    f.readsAny [(.bufA 0, 0, 1)] = true ∧ g.readsAny [(.bufA 0, 0, 1)] = false ∧ f.readsOf false ≠ [] ∧ g.readsOf false = f.readsOf false := by
  decide +kernel
theorem test_mgl_unread :
    let k := mglHeld [flightOf mglDisp (mglBytes.take 128), mglLater]
    (k.unit .dma).wait = true ∧ k.mgl.flights.any (fun f => f.mglReadsAny k.cmem (k.heldWrites 0 .dma) &&
      k.mgl.flights.any (fun g => decide (g.d.sn < f.d.sn) && (f.mglReads k.cmem).any (fun r => anyMeet g.mglWrites r.1 r.2))) = true := by
  decide +kernel

/-- A CODEC partition of one unit, and a WCMP of 4 bytes at 64 without a reference into it. -/
def codecOne (k : Core) : State := { one k with parts := [(0, { Part.free with slot := some 0, kind := 3, size := 1 })] }
def wcmpDisp : Disp := disp (.wcmp 1 0 2 3 0 true 6) 64 0 0x1000000 0x100000004
def wexpDisp : Disp := disp (.wexp 1 0 2 3 true 0 false 6) 0x1000000 0 64 0x100000004

theorem test_wringer_issue :
    let s := codecOne { kOf 0 with wrg := pendOf [wcmpDisp] }
    let f : WrgF := { comp := true, bufA := false, tw := 0, cw := true, ts := 6 }
    s.unitsRun 0 = true ∧ (s.core 0).wrg.pend = [wcmpDisp] ∧ wrgOf wcmpDisp.ins = some f ∧ (s.core 0).tack f.tw = true ∧
      (s.core 0).firstTo 0 0 (consumes wcmpDisp.ins) = true ∧ s.wrg.units = [] ∧ s.passes = [] ∧
      (∀ m, m < 16 → m ≠ 0 → (s.core m).wrg.flights = []) ∧
      s.wrgBounds 0 f wcmpDisp = true ∧ (one (kOf 0)).wrgBounds 0 f wcmpDisp = false := by decide +kernel
theorem test_wcmp_block :
    let fl := flightOf wcmpDisp []
    let s := codecOne { kOf 0 with wrg := flyOf [fl] }
    (s.core 0).wrg.flights = fl :: [] ∧ (s.wrgFill.wrgUnit (.port 0)).isSome = true ∧ wcmpDisp.glen = 4 ∧ wcmpDisp.noref = true ∧
      (∀ f i, fl.disturbed 0 f i = false) ∧ cleanRange (s.core 0).cmem 64 4 ∧ mergeClean s.shm 0 4 ∧ mergeClean s.shm 128 4 := by
  unfold cleanRange mergeClean
  exact ⟨by decide +kernel, by decide +kernel, by decide +kernel, by decide +kernel, fun f i => List.any_eq_false.mpr (fun r _ => by simp [flightOf, anyMeet]),
    by decide +kernel, by decide +kernel, by decide +kernel⟩
/-- A raw block of 4 bytes has the header 0x80002004: RAW, RAWLEN 4, CLEN 4 (Table 2 of R287); an empty header is inconsistent. -/
theorem test_wexp_block :
    let fl := flightOf wexpDisp []
    let s := { codecOne { kOf 0 with wrg := flyOf [fl] } with shm := Ram.zero.write 0 (toLE 4 0x80002004) }
    (s.core 0).wrg.flights = fl :: [] ∧ (s.wrgFill.wrgUnit (.port 0)).isSome = true ∧ mergeClean (s.core 0).bufA 64 4 ∧ (s.core 0).wexpHeld 0 { comp := false, bufA := true, tw := 0, cw := false, ts := 6 } wexpDisp 0 = false ∧
      cleanRange s.shm 0 4 ∧ cleanRange s.shm 128 4 ∧ bitOf 0x80002004 30 = false ∧
      (s.core 0).run = true ∧ (s.core 0).peer = false ∧ (s.core 0).code = none ∧
      expandBlock 0x80002004 (s.shm.bytes 128 4) [0, 0, 0, 0] 4 = some [0, 0, 0, 0] ∧ expandBlock 0 [] [0, 0, 0, 0] 4 = none := by
  unfold cleanRange mergeClean; decide +kernel
/-- R290: a block is disturbed by a write of another into its input or its frame since the issue. -/
theorem test_wringer_disturbed :
    let f : WrgF := { comp := true, bufA := false, tw := 0, cw := true, ts := 6 }
    let fl := { flightOf wcmpDisp [] with hits := [(65, 1)] }
    let s := codecOne { kOf 0 with wrg := flyOf [fl] }
    (flightOf wcmpDisp []).disturbed 0 f 0 = false ∧ fl.disturbed 0 f 0 = true ∧ (s.core 0).wrg.flights = fl :: [] ∧ fl.blk = 0 ∧
      (s.wrgFill.wrgUnit (.port 0)).isSome = true ∧ (s.core 0).wexpHeld 0 f wcmpDisp 0 = false ∧
      ∀ r ∈ wrgOuts 0 f wcmpDisp 0, mergeClean (s.ram r.1) r.2.1 r.2.2 := by unfold mergeClean; decide +kernel
/-- Eight other ports hold the units: the block of core 0 has none. -/
theorem test_wringer_no_unit :
    let k := { kOf 0 with wrg := flyOf [flightOf wcmpDisp []] }
    let s : State := { State.reset with
      cores := (List.range 9).map (fun n => (n, k))
      wrg := { lastCore := 0, units := (List.range 8).map (fun u => (u, .port (BitVec.ofNat 4 (u + 1)))) } }
    s.unitsRun 0 = true ∧ (s.core 0).wrg.flights = flightOf wcmpDisp [] :: [] ∧ s.wrgFill.wrgUnit (.port 0) = none := by decide +kernel
/-- R285: four bytes that equal their reference code to one width field of 6 bits, in one byte. -/
theorem test_wringer_code : codeBlock actCode [1, 2, 3, 4] [1, 2, 3, 4] = ([0], false) ∧
    codeBlock actCode [1, 2, 3, 0x80] [0, 0, 0, 0] = ([1, 2, 3, 0x80], true) := by decide +kernel

/-! ### The host's side -/

/-- The device with its rails good, the sequencer ON and the link open. -/
def up : State :=
  { State.reset with pcie := { Pcie.reset with linkUp := true, perst := false }, aon := { Aon.reset with seq := .on, groups := 5 } }

theorem test_resets : up.linkOpen = true ∧ up.pcie.linkUp = true ∧ up.pcie.perst = false ∧ up.aon.seq ≠ .off ∧ up.aon.seq ≠ .rampUp ∧
    up.tap.testMode = false ∧ up.aon.groups = 5 ∧ { Aon.reset with supply := false }.supply = false ∧
    noneBegun up ∧ up.sec.latched = false ∧ (let s := { up with sec := { Sec.reset with latched := true, kind := 2 } }
      s.linkOpen = true ∧ s.sec.latched = true ∧ s.sec.kind = 2 ∧ s.sec.quarantine = false) := by unfold noneBegun; decide +kernel
theorem test_spool_base_locked : (let s := { up with spools := [(0, { Spool.reset with en := true })] }
    s.linkOpen = true ∧ (s.spool s.selSpool.1 s.selSpool.2).en = true) ∧ (up.spool up.selSpool.1 up.selSpool.2).en = false ∧
    0 < up.coreCount := by decide +kernel

/-- A mailbox request of an operation with a payload length and the first words of its payload. -/
def asking (op len : Nat) (ws : List (Nat × Word)) : State :=
  { up with regs := [(0x20000, 0x40000000), (0x20100, w32 (op + 65536 * len))] ++ ws }

theorem test_mailbox_go :
    let s (op : Nat) : State := { up with regs := [(0x20100, w32 op)] }
    mgtBusy (s 1) = false ∧ 1 ≤ mgtOp (s 1) ∧ mgtOp (s 8) ≤ 8 ∧ mgtOp (s 0) = 0 ∧ 8 < mgtOp (s 9) ∧ bitOf 0x80000000 31 = true ∧
      bitOf 0x80000000 29 = false ∧ (s 1).pwr.dev = .active ∧ (∀ d, ({ s 1 with pwr := { Pwr.reset with dev := d } } : State).pwr.dev = d ∧
      mgtBusy { s 1 with pwr := { Pwr.reset with dev := d } } = false ∧ mgtOp { s 1 with pwr := { Pwr.reset with dev := d } } = 1) := by
  refine ⟨by decide +kernel, by decide +kernel, by decide +kernel, by decide +kernel, by decide +kernel, by decide, by decide, by decide +kernel, ?_⟩
  intro d; cases d <;> decide +kernel
theorem test_read_clear : up.rcMask 0x10F18 ≠ 0 ∧ timeCounter 0x10F18 = false := by decide +kernel
theorem test_bad_access : (8 : Nat) ≠ 4 ∨ (0x10040#24).toNat % 4 ≠ 0 := by decide
theorem test_msix : nget false ({ up with pcie := { up.pcie with pba := [(5, true)] } } : State).pcie.pba (5#7).toNat = true := by decide +kernel

/-- Context 0 with an open host window of one 64 KiB unit at 0, its key, and a READY controller. -/
def windowed : State :=
  { up with
    regs := [(winKey 0 0 1, 1), (winKey 0 0 2, 0x8C000000)], ctxs := [(0, { Ctx.reset with admin := true, hostrw := true })]
    sec := { Sec.reset with slots := [(8, { KeySlot.empty with kind := .context, ident := 5 })] }, dram := { Dram.reset with ready := true } }

theorem test_bar2 : windowed.linkOpen = true ∧ windowed.sec.quarantine = false ∧ windowed.dram.ready = true ∧ 62 + [1, 2].length ≤ 64 ∧
    windowed.bar2Ctx true 62 2 false = some 0 ∧ windowed.bar2Ctx false 62 2 false = some 0 ∧ windowed.lineTag 0 0 = some 10 ∧
    windowed.dram.linePoison 0 = false := by decide +kernel
theorem test_bar2_refused : windowed.bar2Ctx true 65535 2 false = none ∧ windowed.bar2Ctx false 65536 1 false = none ∧
    ({ up with sec := { Sec.reset with quarantine := true } } : State).sec.quarantine = true := by decide +kernel

/-- Context 0 and its spool 0 of 16 entries enabled, with one entry to fetch. -/
def spooling : State :=
  { up with ctxs := [(0, { Ctx.reset with en := true, admin := true })],
            spools := [(0, { Spool.reset with en := true, log2 := 4, tail := 1, doors := [(1, 0, 0)] })] }

theorem test_doorbell : (spooling.ctx 0).en = true ∧ (spooling.spool 0 0).en = true ∧ (15#32).toNat % 4096 < (spooling.spool 0 0).size ∧
    (up.ctx 0).en = false ∧ up.pwr.dev = .active ∧ ∀ d, d = DevState.idle ∨ d = .enteringIdle →
      let s := { spooling with pwr := { Pwr.reset with dev := d } }
      (s.ctx 0).en = true ∧ (s.spool 0 0).en = true ∧ s.pwr.dev = d := by
  refine ⟨by decide +kernel, by decide +kernel, by decide +kernel, by decide +kernel, by decide, ?_⟩
  intro d h; rcases h with h | h <;> subst h <;> decide +kernel
theorem test_fetch : spooling.fetches 0 0 = true ∧ nextDoor (spooling.spool 0 0).doors = some ((0, 0), []) ∧ 0x01 ∈ knownOps ∧
    0xFF ∉ knownOps ∧ spooling.sec.quarantine = false ∧ spooling.ras.deviceFault = false ∧ spooling.cmd? { ctx := 0, spool := 0, idx := (spooling.spool 0 0).head } = none := by decide +kernel

/-- A command fetched from entry 0 of spool 0 of context 0. -/
def cmd (bs : List Byte) : Cmd := Cmd.fetched ref0 bs true 0 0
/-- The device that holds one command. -/
def cs (k : Cmd) : State := { up with cmds := [k] }

theorem test_abort :
    let s := { cs (cmd []) with ctxs := [(0, { Ctx.reset with en := true })] }
    (s.ctx 0).en = true ∧ s.cmd? { ctx := 0, spool := BitVec.ofNat 3 (getBits 0 16 3), idx := BitVec.ofNat 12 (getBits 0 0 12) } = some (cmd []) ∧
      s.affected 0 0 = false ∧ (cmd []).stage = .fetched := by decide +kernel
theorem test_spool_enable :
    let p := up.spool up.selSpool.1 up.selSpool.2
    bitOf 0x8000000C 31 = true ∧ p.en = false ∧ p.cmdLo.toNat % 4096 = 0 ∧ p.cplLo.toNat % 4096 = 0 ∧ getBits 0x8000000C 0 4 = 12 := by
  decide +kernel
theorem test_spool_disable :
    let s := { spooling with cmds := [cmd []] }
    bitOf 0 31 = false ∧ (s.spool s.selSpool.1 s.selSpool.2).en = true ∧ cmd [] ∈ s.cmds ∧ (cmd []).stage ≠ .started ∧
      (cmd []).stage ≠ .ended ∧ s.fetches s.selSpool.1 s.selSpool.2 = true ∧ bitOf (w32 (2 ^ 29)) 29 = true := by decide +kernel
theorem test_context_enable : bitOf 0xC0000000 31 = true ∧ (up.ctx up.selCtx).en = false ∧ up.inflight up.selCtx = 0 ∧
    (up.keySlot (8 + up.selCtx)).kind = .empty ∧ (windowed.keySlot (8 + windowed.selCtx)).kind ≠ .empty ∧
    windowed.tst.running = false ∧ (let s := { windowed with tst := { Tst.reset with running := true, iface := 2 } }
      s.tst.running = true ∧ s.tst.iface = 2 ∧ (s.ctx s.selCtx).en = false ∧ (s.keySlot (8 + s.selCtx)).kind ≠ .empty) ∧
    (let s := { windowed with tst := { Tst.reset with running := true, iface := 3 }, ctxs := [(0, { Ctx.reset with en := true })] };
      s.tst.running = true ∧ s.tst.iface = 3 ∧ (s.ctx s.selCtx).en = true) := by decide +kernel

theorem test_command_end :
    let k := { cmd [] with stage := .ended, status := 5 }
    let s := cs k
    s.cmd? ref0 = some k ∧ s.ras.deviceFault = false ∧ s.aon.seq ≠ .emergency ∧ k.status ≠ 1 ∧ s.sec.destroyWait = none ∧
      bitOf (({ s with regs := [(msixCtl 4, 0)] } : State).reg (msixCtl 4)) 0 = false := by decide +kernel
theorem test_run_ends :
    let k := { cmd [1] with stage := .started }
    (cs k).cmd? ref0 = some k ∧ k.isRun = true ∧ (cs k).coresOf ref0 = [] ∧ (cs k).affected 0 0 = false ∧ k.codes = [] ∧ k.forced = [] ∧
      k.cut = false ∧ ((cs k).cmds.map Cmd.ref).Nodup := by
  decide +kernel
/-- A RUN on a core whose fault has reached step 2. -/
theorem test_fence_deadline_run :
    let k := { cmd [1] with stage := .started, cores := 1 }
    let s := { cs k with cores := [(0, { kOf 0 with faultStep := 2, fence := .testing })] }
    (s.core 0).faultStep = 2 ∧ (s.cmds.map (fun j => j.ref)).Nodup ∧ k ∈ s.cmds ∧ k.isRun = true ∧ k.cores.getLsbD 0 = true := by
  decide +kernel
theorem test_cmd_nop : hostReady (cs (cmd [0, 1])) ref0 0 (cmd [0, 1]) ∧ (cs (cmd [0, 1])).allEnded (cmd [0, 1]) = true ∧
    (cmd [0, 1]).u 1 1 < 2 ∧ allZero ((cmd [0, 1]).bytes.drop 4) = true := by unfold hostReady; decide +kernel

/-- A bitstream of one gang of core 0, one entry without a schedule, one WORK partition and one image. -/
def image0 : List Byte :=
  toLE 6 0 ++ toLE 6 3 ++ toLE 2 1 ++ toLE 2 1 ++ toLE 48 0 ++
  toLE 4 1 ++ toLE 4 112 ++ toLE 8 32 ++ toLE 4 2 ++ toLE 4 144 ++ toLE 8 24 ++ toLE 4 8 ++ toLE 4 168 ++ toLE 8 136 ++
  toLE 16 0x101 ++ toLE 4 1 ++ toLE 4 0xC0000001 ++ toLE 8 0xFF0001 ++ toLE 16 1 ++ toLE 8 0x100010000 ++ toLE 136 65536
def runCmd : Cmd := cmd [1]
/-- Image 0 in slot 0, active; model 0 READY with one layer; keys for the context and for the model. -/
def running (k : Cmd) : State :=
  { cs k with
    bs := [(0, { Bs.empty with st := .active, image := image0 })], models := [(0, { Model.free with st := .ready, layers := [[0]] })]
    sec := { Sec.reset with slots := [(8, { KeySlot.empty with kind := .context, ident := 5 }),
                                      (72, { KeySlot.empty with kind := .weight, use := 1, keymask := 1 })] } }

theorem test_run : hostReady (running runCmd) ref0 1 runCmd ∧ runFormatOk runCmd = true ∧ runCmd.rOrder = false ∧
    (running runCmd).allBegun runCmd = true ∧ (running runCmd).runStage2 runCmd = none ∧ (cs runCmd).runStage2 runCmd = some stBitstream := by
  unfold hostReady; decide +kernel
theorem test_run_start :
    let k := { runCmd with stage := .waiting }
    let s := running k
    let b := (s.bsSlot k.rSlot).image
    let cores := entryCores b k.rEntry
    let s1 := s.take k
    s.cmd? ref0 = some k ∧ k.isRun = true ∧ serving s ∧ s.slotOk k = true ∧ s.modelOk k = true ∧ s.keyOk k.rModel 0 (bsKeyId b) = true ∧
      s.anyCore cores Core.isRetired = false ∧ s.mayTake k = true ∧ s1.runHeld k = false ∧ (entryOf b k.rEntry).sched = 0xFF ∧
      (s1.kvStart ref0 k.rSeqs).1 = true ∧ (s1.keyTag 8).isSome = true ∧ cores = 1 ∧ k.rArgLen = 0 := by decide +kernel
theorem test_run_placing :
    let k := { runCmd with stage := .placing, host := some (.ok []), cores := 1 }
    let s := running k
    s.cmd? ref0 = some k ∧ k.isRun = true ∧ serving s ∧ s.anyCore k.cores Core.isRetired = false ∧ s.anyCore k.cores Core.isTesting = false := by
  decide +kernel

/-- Context 0 with a table window of one unit at 0, its key and a budget in pool 0; the allocator is enabled; slot 0 as given. -/
def kv (k : Cmd) (q : Seq) : State :=
  { cs k with
    regs := [(0x80000, 1), (winKey 0 0 1, 1), (winKey 0 0 2, 0xC0000000)], seqs := [(0, q)]
    sec := { Sec.reset with slots := [(8, { KeySlot.empty with kind := .context, key := List.replicate 64 1 })] } }
def seq0 : Seq := { Seq.free with st := .live, streams := 1, pref := 4, maxrows := 2, table := 0x1000000000, v := 0 }
def createCmd : Cmd := cmd ([0x10, 0, 0, 0, 1, 0, 0, 4, 1, 0, 2, 0] ++ toLE 4 0 ++ toLE 8 0x1000000000)
def forkCmd : Cmd := cmd ([0x11, 0, 0, 0, 1, 0, 0, 0] ++ toLE 4 0 ++ toLE 4 1 ++ toLE 8 0x1000000000)
def slotCmd (op : Byte) : Cmd := cmd [op]
def imageCmd (op : Byte) : Cmd := cmd ([op] ++ toLE 15 0 ++ toLE 8 4096)

theorem test_create :
    let s := kv createCmd seq0
    s.kvEnabled = true ∧ s.allEnded createCmd = true ∧ hostReady s ref0 0x10 createCmd ∧ createOk createCmd = true ∧ s.mayTake createCmd = true ∧
      (s.seq (createCmd.u 4 2)).st = .free ∧ createCmd.u 6 1 % 4 = s.budgetPool 0 ∧
      s.inTableWindow 0 (createCmd.u 0x10 8) (64 + createCmd.u 0xA 2 * ((64 + 8 * createCmd.u 8 2 + 63) / 64 * 64)) = true := by
  unfold hostReady; decide +kernel
theorem test_create_taken :
    let s := { kv createCmd seq0 with seqs := [(1, seq0)] }
    hostReady s ref0 0x10 createCmd ∧ s.mayTake createCmd = true ∧ (s.seq (createCmd.u 4 2)).st ≠ .free := by unfold hostReady; decide +kernel
theorem test_fork :
    let s := kv forkCmd seq0
    hostReady s ref0 0x11 forkCmd ∧ forkOk forkCmd = true ∧ s.mayTake forkCmd = true ∧ (s.seq (forkCmd.u 4 2)).st = .free ∧
      (s.seq (forkCmd.u 6 2)).st = .live ∧ (s.seq (forkCmd.u 6 2)).ctx = 0 ∧ forkCmd.u 8 4 ≤ (s.seq (forkCmd.u 6 2)).v ∧
      ((s.seq 0).rows.filter (fun x => x.start < forkCmd.u 8 4)).length ≤ forkCmd.u 0xC 2 ∧
      s.inTableWindow 0 (forkCmd.u 0x10 8) { seq0 with maxrows := forkCmd.u 0xC 2 }.tableBytes = true := by unfold hostReady; decide +kernel
theorem test_truncate_drop :
    let s := kv (slotCmd 0x12) seq0
    let t := kv (slotCmd 0x13) seq0
    hostReady s ref0 0x12 (slotCmd 0x12) ∧ truncateOk (slotCmd 0x12) = true ∧ s.slotTransfer 0 = false ∧ (s.seq 0).st = .live ∧
      (s.seq 0).ctx = 0 ∧ (slotCmd 0x12).u 8 4 ≤ (s.seq 0).v ∧ hostReady t ref0 0x13 (slotCmd 0x13) ∧ slotOnlyOk (slotCmd 0x13) = true ∧
      t.slotTransfer 0 = false ∧ (t.seq 0).st = .live ∧ (t.seq 0).ctx = 0 := by
  unfold hostReady; decide +kernel
theorem test_writeback_evict :
    let k := imageCmd 0x14
    let s := kv k seq0
    let j := imageCmd 0x15
    hostReady s ref0 0x14 k ∧ writebackOk k = true ∧ s.mayTake k = true ∧ s.isLive k 0 = true ∧ s.imageFits 0 (k.u 0x10 8) = true ∧
      (s.keyTag 8).isSome = true ∧ (s.writeBack 0 (k.u 8 8) false).isSome = true ∧ hostReady (kv j seq0) ref0 0x15 j ∧ evictOk j = true := by
  unfold hostReady; decide +kernel
theorem test_restore_asks :
    let k := slotCmd 0x16
    let s := kv k { seq0 with st := .evicted }
    hostReady s ref0 0x16 k ∧ slotOnlyOk k = true ∧ s.mayTake k = true ∧ k.host = none ∧ (s.seq 0).st = .evicted ∧ (s.seq 0).ctx = 0 ∧ (s.keyTag 8).isSome = true := by
  unfold hostReady; decide +kernel
theorem test_restore :
    let k := { slotCmd 0x16 with stage := .started, host := some (.ok []) }
    let s := kv k { seq0 with st := .evicted, maxrows := 1, busy := some ref0 }
    let q := s.seq (k.u 4 2)
    let plain := imageCrypt xtsDecrypt (s.keySlot (8 + q.ctx.toNat)).bytes (k.u 4 2) 0 (padTo (q.img + q.tableBytes) [])
    let sh := s.imageShape q plain
    s.cmd? ref0 = some k ∧ k.op = 0x16 ∧ serving s ∧ q.busy = some ref0 ∧ (s.keyTag 8).isSome = true ∧
      (sh.2.2.restoreRows q sh.2.1 sh.1 0).any (fun x => decide (x.1.length ≤ q.maxrows)) = true ∧
      (let t := kv { k with host := some .error } q
      t.cmd? ref0 = some { k with host := some .error } ∧ serving t ∧ (t.seq (k.u 4 2)).busy = some ref0 ∧ (t.keyTag 8).isSome = true) := by
  decide +kernel

theorem test_kvp_enable : bitOf 1 0 = true ∧ bitOf 0 0 = false ∧ (∃ e ∈ (kv createCmd seq0).seqs, e.2.st ≠ .free) ∧
    ∀ e ∈ up.seqs, e.2.st = .free := by decide +kernel
/-- A pool of 64 units of MXINT8 in 32 dimensions at 0 with its frames behind it (R199, R216). -/
theorem test_pool_enable :
    let s : State := { up with regs := [(0x80104, 64), (0x8010C, 2)] }
    let p := poolOf (s.reg 0x80100) (s.reg 0x80104) (0x80000000 &&& 0x8000007F) (s.reg 0x8010C)
    bitOf 0x80000000 31 = true ∧ bitOf (s.reg 0x80108) 31 = false ∧ p.units % 64 = 0 ∧ 0 < p.units ∧ getBits 0x80000000 0 2 ≠ 3 ∧
      getBits 0x80000000 2 2 ≠ 3 ∧ s.poolFits 0 p = true ∧ getBits 0x80000003 0 2 = 3 := by decide +kernel
theorem test_pool_disable :
    let s : State := { up with regs := [(0x80108, 0x80000000)] }
    bitOf 0 31 = false ∧ bitOf (s.reg 0x80108) 31 = true ∧ getBits (s.reg 0x80108) 0 7 = getBits 0 0 7 ∧ s.allocated 0 = [] ∧
      getBits (s.reg 0x80108) 0 7 ≠ getBits 1 0 7 := by decide +kernel

/-! ### Models and bitstreams -/

def mcreateCmd : Cmd := cmd [0x20, 0, 0, 0, 0, 0xFF]
theorem test_mcreate : adminReady (cs mcreateCmd) ref0 0x20 mcreateCmd mcreateOk ∧ ((cs mcreateCmd).model (mcreateCmd.u 4 1)).st = .free ∧
    mcreateCmd.u 5 1 = 0xFF := by unfold adminReady hostReady; decide +kernel
theorem test_mcreate_variant :
    let k := cmd [0x20, 0, 0, 0, 1, 0]
    let s := { cs k with models := [(0, { Model.free with st := .stored })] }
    adminReady s ref0 0x20 k mcreateOk ∧ k.u 5 1 ≠ 0xFF ∧ s.baseReady (k.u 5 1) = true := by unfold adminReady hostReady; decide +kernel
theorem test_mcreate_without_admin : hostReady ({ cs mcreateCmd with ctxs := [] }) ref0 0x20 mcreateCmd ∧
    (({ cs mcreateCmd with ctxs := [] } : State).ctx 0).admin = false := by unfold hostReady; decide +kernel
theorem test_mextent :
    let k := cmd [0x21, 0, 0, 0, 0, 0, 0, 0, 1]
    let s := { cs k with regs := [(0x60028, 0x80100000)], models := [(0, { Model.free with st := .installing })] }
    adminReady s ref0 0x21 k mextentOk ∧ s.allocConds (k.u 4 1) (k.u 8 4) = [] ∧ (s.alloc (k.u 4 1) (k.u 8 4)).isSome = true := by
  unfold adminReady hostReady; decide +kernel

/-- Extent 7 of model 0 with one stripe in row 0, whose slot 0 is block 0. -/
def extent7 (st : ExtSt) : Store :=
  { Store.fresh with exts := [(7, { Extent.none with st := st, stripes := [(0, 0)] })], rows := [(0, { st := .open_, next := 1, map := [(0, 0)] })]
                     blks := [(0, { Blk.fresh with st := .mapped })], ready := true }
def mwriteCmd : Cmd := cmd ([0x22, 0, 0, 0, 7, 0, 0, 0] ++ toLE 4 0 ++ toLE 4 1)

theorem test_mwrite_asks : adminReady { cs mwriteCmd with store := extent7 .open_ } ref0 0x22 mwriteCmd mwriteOk ∧
    (({ cs mwriteCmd with store := extent7 .open_ } : State).extent (mwriteCmd.u 4 2)).st = .open_ ∧ mwriteCmd.host = none := by
  unfold adminReady hostReady; decide +kernel
theorem test_mwrite :
    let k := { mwriteCmd with stage := .started, host := some (.ok [1]) }
    let s := { cs k with store := extent7 .open_ }
    s.cmd? ref0 = some k ∧ k.op = 0x22 ∧ serving s ∧ (s.extent (k.u 4 2)).st = .open_ ∧ k.u 0xC 4 = 1 ∧ k.done = 0 ∧
      k.u 8 4 < (s.extent 7).codewords ∧ s.accepted 7 (k.u 8 4) = false ∧ s.programWaits 7 (s.lowestOpen 7) (k.u 8 4) = false ∧
      (s.programRun 7 (k.u 8 4) (s.lowestOpen 7) (padTo 4096 [1]) 1 0).2.2 = some stOk := by decide +kernel
/-- A program into a row without a block for its unit waits (R232). -/
theorem test_mwrite_waits :
    let s := { up with store := { extent7 .open_ with rows := [] } }
    (s.programRun 7 0 0 [] 1 0).2.2 = none := by decide +kernel
theorem test_mseal : adminReady { cs (cmd [0x23, 0, 0, 0, 7]) with store := extent7 .open_ } ref0 0x23 (cmd [0x23, 0, 0, 0, 7]) handleOk := by
  unfold adminReady hostReady; decide +kernel

/-- A descriptor of one dense segment of one granule of extent 7 that streams from flash (Tables 2 and 3 of R257). -/
def layer0 : List Byte := [0, 1] ++ toLE 14 0 ++ [7, 0, 0x11, 0] ++ toLE 4 0 ++ toLE 4 4096 ++ toLE 4 0
def mtableCmd : Cmd := cmd [0x24, 0, 0, 0, 0, 0, 1]

theorem test_mtable :
    let k := { mtableCmd with stage := .started, host := some (.ok layer0) }
    let s := { cs k with models := [(0, { Model.free with st := .installing })], store := extent7 .sealed_ }
    let ls := layersOf (padTo (64 * k.u 6 2) layer0) (k.u 6 2)
    s.cmd? ref0 = some k ∧ k.op = 0x24 ∧ serving s ∧ s.flashMoves = true ∧ (s.model (k.u 4 1)).st = .installing ∧ s.layersOk (k.u 4 1) 0 ls = true ∧
      (match s.allStreams (k.u 4 1) ls with | .ok ds => decide (ds = [0]) | .error _ => false) = true := by decide +kernel
theorem test_mload :
    let k := cmd [0x25]
    let s := { cs k with models := [(0, { Model.free with st := .stored, layers := [layer0] })] }
    adminReady s ref0 0x25 k modelOnlyOk ∧ (s.model (k.u 4 1)).st = .stored ∧ s.patching (k.u 4 1) = false ∧
      (s.model (k.u 4 1)).variant = false ∧
      dramTotal (s.model (k.u 4 1)).layers = 0 := by unfold adminReady hostReady; decide +kernel
/-- The same segment pinned to DRAM. -/
def layer1 : List Byte := [0, 1] ++ toLE 14 0 ++ [7, 0, 0x10, 0] ++ toLE 4 0 ++ toLE 4 4096 ++ toLE 4 0
def loading (k : Cmd) (c : Codeword) : State :=
  { cs k with models := [(0, { Model.free with st := .loading, layers := [layer1], mir := [0], loader := some ref0 })]
              store := { extent7 .sealed_ with cws := [(cwKey 7 0, c)] } }
theorem test_mload_mirror :
    let k := cmd [0x25]
    let s := { cs k with models := [(0, { Model.free with st := .stored, layers := [layer1] })], regs := [(0x70000, 0x80000000), (0x70004, 1)] }
    adminReady s ref0 0x25 k modelOnlyOk ∧ s.patching 0 = false ∧ dramTotal (s.model 0).layers ≠ 0 ∧ s.mirAlloc (dramTotal (s.model 0).layers) = some 0 := by
  unfold adminReady hostReady; decide +kernel
theorem test_mirror_load :
    let k := { cmd [0x25] with stage := .started }
    let s := loading k { Codeword.none with programmed := true }
    let t := loading k { Codeword.none with bad := true }
    (s.model 0).st = .loading ∧ (s.model 0).loader = some ref0 ∧ s.cmd? ref0 = some k ∧ s.flashMoves = true ∧
      s.dram.clearing = false ∧ (∀ o ∈ (s.model 0).mir, o % 64 = 0) ∧ t.flashMoves = true ∧ t.dram.clearing = false ∧
      (s.mirFill (loadsOf (s.model 0).layers (s.model 0).mir)).isSome = true ∧
      (t.mirFill (loadsOf (t.model 0).layers (t.model 0).mir)).isNone = true := by decide +kernel
theorem test_munload :
    let k := cmd [0x26]
    let s := { cs k with models := [(0, { Model.free with st := .ready })] }
    let t := { s with passes := [{ Pass.none with cmd := some ref0 }] }
    adminReady s ref0 0x26 k modelOnlyOk ∧ s.isLoaded (k.u 4 1) = true ∧ (∀ v ∈ s.variantsOf (k.u 4 1), s.isLoaded v = false) ∧
      s.patching (k.u 4 1) = false ∧ s.passesOf (k.u 4 1) = [] ∧ t.passesOf (k.u 4 1) ≠ [] := by
  unfold adminReady hostReady; decide +kernel
/-- An MUNLOAD that meets the MLOAD of its model. -/
theorem test_munload_loading :
    let k := { cmd [0x26] with ref := { ref0 with spool := 1 } }
    let j := { cmd [0x25] with stage := .started }
    let s := { cs k with cmds := [k, j], models := [(0, { Model.free with st := .loading, layers := [layer1], mir := [0], loader := some ref0 })] }
    adminReady s k.ref 0x26 k modelOnlyOk ∧ s.isLoaded 0 = true ∧ s.patching 0 = false ∧ s.passesOf 0 = [] ∧
      (s.model 0).loader = some ref0 ∧ ref0 ≠ k.ref ∧ s.cmd? ref0 = some j := by unfold adminReady hostReady; decide +kernel
theorem test_mfree :
    let k := cmd [0x27]
    let s := { cs k with models := [(0, { Model.free with st := .stored })], store := extent7 .sealed_ }
    adminReady s ref0 0x27 k modelOnlyOk ∧ (s.model (k.u 4 1)).st = .stored ∧ s.variantsOf (k.u 4 1) = [] ∧ s.patching (k.u 4 1) = false ∧
      (s.extent 7).inUse = true ∧ (s.extent 7).model.toNat = k.u 4 1 := by unfold adminReady hostReady; decide +kernel
theorem test_mxfree :
    let k := cmd [0x28, 0, 0, 0, 7]
    let s := { cs k with store := extent7 .sealed_ }
    adminReady s ref0 0x28 k handleOk ∧ (s.extent (k.u 4 2)).inUse = true ∧
      (s.model (s.extent (k.u 4 2)).model.toNat).names.contains (k.u 4 2) = false := by unfold adminReady hostReady; decide +kernel

def patching (k : Cmd) (p : Option Patch) : State :=
  { cs k with models := [(0, { Model.free with st := .stored, layers := [layer0], gen := 1, patch := p })], store := extent7 .sealed_ }
def patchCmd : Cmd := cmd [0x29, 0, 0, 0, 0, 0, 1]

theorem test_patch_asks : adminReady (patching patchCmd none) ref0 0x29 patchCmd patchOk ∧ ((patching patchCmd none).model 0).patch = none ∧
    (patching patchCmd none).patchAhead patchCmd = false ∧ (patching patchCmd none).patchable patchCmd = true := by
  unfold adminReady hostReady; decide +kernel
theorem test_patch :
    let k := { patchCmd with stage := .started, host := some (.ok layer0) }
    let s := patching k none
    let ls := layersOf (padTo (64 * k.u 6 2) layer0) (k.u 6 2)
    s.cmd? ref0 = some k ∧ k.op = 0x29 ∧ serving s ∧ s.flashMoves = true ∧ s.patchable k = true ∧ (s.model (k.u 4 1)).patch = none ∧
      s.layersOk (k.u 4 1) (k.u 5 1) ls = true ∧
      (match s.allStreams (k.u 4 1) ls, s.patchLoad (k.u 4 1) ls with | .ok ds, .ok x => decide (ds = [0]) && decide (x.1 = [0]) | _, _ => false) = true := by
  decide +kernel
theorem test_patch_flip :
    let p : Patch := { ref := ref0, first := 0, layers := [layer0], mir := [0], diffs := [0] }
    let k := { patchCmd with stage := .started }
    let s := patching k (some p)
    (s.model 0).patch = some p ∧ s.cmd? p.ref = some k ∧ s.layersOk 0 p.first p.layers = true ∧
      ({ s with store := Store.fresh } : State).layersOk 0 p.first p.layers = false := by decide +kernel

theorem test_bsload_asks :
    let k := cmd ([0x30] ++ toLE 15 0 ++ toLE 4 560)
    let s := { cs k with regs := [(0x10F00, 0x80000000)], models := [(0, { Model.free with st := .stored })] }
    adminReady s ref0 0x30 k bsloadOk ∧ s.bsBlocked k = false := by unfold adminReady hostReady; decide +kernel

/-- A signed bitstream of 560 bytes by Tables 1 and 2 of R332 and R333: core 0 runs one END word, one entry, one WORK partition. -/
def image1 : List Byte :=
  toLE 4 0x4C434257 ++ toLE 2 1 ++ toLE 2 4 ++ toLE 4 560 ++ toLE 2 1 ++ toLE 2 1 ++ toLE 48 0 ++
  toLE 4 1 ++ toLE 4 0x80 ++ toLE 8 32 ++ toLE 4 2 ++ toLE 4 0xC0 ++ toLE 8 24 ++ toLE 4 8 ++ toLE 4 0x100 ++ toLE 8 136 ++
  toLE 4 15 ++ toLE 4 0x1C0 ++ toLE 8 112 ++
  toLE 16 0x101 ++ toLE 4 1 ++ toLE 4 0xC0000001 ++ toLE 8 0xFF0001 ++ toLE 32 0 ++
  toLE 16 1 ++ toLE 8 0x100010000 ++ toLE 40 0 ++ toLE 64 0x10000 ++ toLE 2 0 ++ toLE 62 (2 ^ 496 - 1) ++ toLE 8 (2 ^ 56) ++ toLE 56 0 ++
  toLE 16 1 ++ sig ++ sig
where
  /-- r and s, both the digest: a signature that verifies under `key1` with u1 = u2 = 1. -/
  sig := natBE 48 0x6500b5e2a405c4510e2a110b005047360fe241037583a9cd043a46f17942564fc8de55573b851eca20a1137658e1cd7
def key1 : List Byte :=
  natBE 48 0xbc2913847ae99e65d6216ab101ca0c7db8a011ab3482c1a89d65ac4a598ee9005c2f7225161a377b5583a1de1c412fc5 ++
  natBE 48 0x888408191efd54785fee412b4a1aefe95ba9112f13a0950649e513e7920a9bf123d70371794085dc8538026af72a8dcb
def bsloading (image : List Byte) : State :=
  let k := { cmd ([0x30] ++ toLE 15 0 ++ toLE 4 560) with stage := .started, host := some (.ok image) }
  { cs k with models := [(0, { Model.free with st := .stored, layers := [layer0] })]
              sec := { Sec.reset with slots := [(1, { KeySlot.empty with kind := .verify, key := key1 })] } }

theorem test_bsload : (bsloading image1).bsFails image1 560 = none ∧ bsLayers image1 = ((bsloading image1).model 0).layers.length := by
  decide +kernel
/-- The magic number stands at offset 0 of the header (Table 1 of R332). -/
theorem test_bsload_fault : (bsloading []).bsFails (padTo 560 []) 560 = some (31, 0) := by decide +kernel
theorem test_bs_persist :
    let s := { up with bs := [(0, { Bs.empty with st := .resident, persist := true })] }
    (s.bsSlot 0).persist = true ∧ (s.bsSlot 0).st = .resident := by decide +kernel

def slotted (k : Cmd) (st : BsSt) : State := { cs k with bs := [(0, { Bs.empty with st := st, image := image0 })] }
theorem test_bsact : adminReady (slotted (cmd [0x31]) .active) ref0 0x31 (cmd [0x31]) slotFieldOk ∧
    (slotted (cmd [0x31]) .active).slotOk (cmd [0x31]) = true ∧ (slotted (cmd [0x31]) .resident).slotOk (cmd [0x31]) = true := by
  unfold adminReady hostReady; decide +kernel
theorem test_bsfree : adminReady (slotted (cmd [0x32]) .active) ref0 0x32 (cmd [0x32]) slotFieldOk ∧
    (slotted (cmd [0x32]) .active).runsHold (cmd [0x32]) = false := by unfold adminReady hostReady; decide +kernel
theorem test_bs_area : up.bs = [] ∧ up.bsPlaceOk (0, 33554432) = true ∧ bsAreaOf (0x80000000 &&& 0x800FFFFF) = some (0, 33554432) := by
  decide +kernel
theorem test_bs_switch :
    let k := { cmd [0x31] with stage := .waiting }
    let s := slotted k .resident
    let t := { s with cores := [(0, { Core.reset with fence := .retired })] }
    let b := (s.bsSlot k.rSlot).image
    s.cmd? ref0 = some k ∧ k.op = 0x31 ∧ serving s ∧ s.needsSwitch k.rSlot = true ∧ s.slotOk k = true ∧ s.switchHeld k = false ∧ k.rSlot < 8 ∧
      s.switchFor k = none ∧
      s.anyCore (bsCores b) Core.isRetired = false ∧ fitsBeside b (s.staysActive (s.activeOver (bsCores b))) = true ∧
      s.pwr.dev ≠ .background ∧ t.anyCore (bsCores b) Core.isRetired = true ∧ t.switchHeld k = false := by decide +kernel
/-- The second event, with the barrier passed: every core of the slot in service, or core 0 fenced in between. -/
theorem test_bs_switch_second :
    let k := { cmd [0x31] with stage := .waiting }
    let s := { cs k with bs := [(0, { Bs.empty with st := .resident, image := image0, switched := some (ref0, k.order, 2) })] }
    let t := { s with cores := [(0, { Core.reset with fence := .testing })] }
    let b := (s.bsSlot k.rSlot).image
    s.cmd? ref0 = some k ∧ serving s ∧ s.needsSwitch k.rSlot = true ∧ s.slotOk k = true ∧ s.switchFor k = some 2 ∧
      s.anyCore (bsCores b) (fun c => decide (c.fence ≠ .inService)) = false ∧ t.switchFor k = some 2 ∧
      t.anyCore (bsCores b) (fun c => decide (c.fence ≠ .inService)) = true := by decide +kernel

/-! ### The mailbox -/

theorem test_mailbox_info : asked (asking 1 0 []) 1 0 := by unfold asked; decide +kernel
theorem test_mailbox_length : ∀ e ∈ [1, 2, 3, 4, 5, 6, 7, 8], mgtBusy (asking e 255 []) = true ∧ mgtOp (asking e 255 []) = e ∧
    mgtLen (asking e 255 []) = 255 := by decide +kernel
theorem test_power_mode :
    let s := asking 2 1 [(0x20104, 2)]
    let t := { s with pwr := { Pwr.reset with dev := .background } }
    asked s 2 1 ∧ mgtArg s 0 1 = 2 ∧ s.pwr.dev ≠ .background ∧ asked t 2 1 ∧ mgtArg t 0 1 ≤ 2 ∧ t.pwr.dev = .background ∧
      s.pwr.dev ≠ .idle ∧ ∀ e ∈ [(2, 2), (7, 1)], let u := { asking e.1 1 [] with pwr := { Pwr.reset with dev := .idle } }
        asked u e.1 1 ∧ mgtArg u 0 1 ≤ e.2 ∧ u.pwr.dev = .idle := by
  unfold asked; decide +kernel
theorem test_set_time :
    let s := asking 3 12 [(0x20104, 0xFFFFFFFF), (0x20108, 0xFFFF), (0x2010C, 999999999)]
    asked s 3 12 ∧ mgtArg s 0 8 = 2 ^ 48 - 1 ∧ mgtArg s 8 4 = 999999999 := by unfold asked; decide +kernel

/-- A firmware image of 4,096 bytes by R471, whose signature is its digest twice: it verifies under `fwKey` with u1 = u2 = 1. -/
def fwImage (r : Nat) : List Byte :=
  toLE 4 0x46574C43 ++ [0, 0, 0, 0] ++ toLE 4 1 ++ toLE 4 3 ++ List.replicate 48 0 ++ List.replicate 3936 0 ++ natBE 48 r ++ natBE 48 r
def fwKey : List Byte :=
  natBE 48 0x97f0327f7d8bccb14715efb0537b49d114b8e6b7dde8ce7ae12c40a80dbc4dd3638dd069de8cba480cde4ea23a022685 ++
  natBE 48 0x0e944fad4d340fd51f59628aeba058dca4b9f85828ac6cbd2896c22660f89eb9346d86d5e28c475d9d4f11e006423734
def fwSig : Nat := 0x3a7973d558276e8c3a4efa73abc2e1dec44dfafd9d1a5b3b02718d0e32387ec1bc977565e2262508f237ccc260b2ebd8
def staging (image : List Byte) : State :=
  let s := asking 4 12 [(0x2010C, 4096)]
  { s with fuses := { s.fuses with verifyKey := fwKey }, ras := { Ras.reset with fwData := some (.ok image) } }

theorem test_fw_stage_asks : asked (asking 4 12 [(0x2010C, 4096)]) 4 12 ∧ fwLenOk (mgtArg (asking 4 12 [(0x2010C, 4096)]) 8 4) = true ∧
    (asking 4 12 [(0x2010C, 4096)]).ras.fwData = none := by unfold asked; decide +kernel
def fwGot (image : List Byte) : List Byte := padTo 4096 image
theorem test_fw_stage_length : asked (staging []) 4 12 ∧ mgtArg (staging []) 8 4 = 4096 := by unfold asked; decide +kernel
theorem test_fw_good_header : fwHeaderOk (fwGot (fwImage fwSig)) = true ∧ fwHeaderOk (fwGot []) = false := by decide +kernel
theorem test_fw_signed : (staging []).fwSigned (fwGot (fwImage fwSig)) = true := by decide +kernel
theorem test_fw_bad_signature : (staging []).fwSigned (fwGot (fwImage 0)) = false := by decide +kernel
theorem test_fw_versions : (fwOf (fwGot (fwImage fwSig))).svn = 1 ∧ ((staging []).fwRunning false).svn = 0 ∧
    ({ staging [] with ras := { Ras.reset with mcRun := { Fw.shipped false with svn := 2 } } } : State).fwRunning false =
      { Fw.shipped false with svn := 2 } := by decide +kernel
theorem test_fw_activate :
    let s := asking 5 0 []
    let t := fun b : Bool => { s with ras := { Ras.reset with staged := [Fw.shipped b] } }
    asked s 5 0 ∧ s.ras.staged = [] ∧ asked (t false) 5 0 ∧ (t false).ras.staged = Fw.shipped false :: [] ∧
      (Fw.shipped false).target = false ∧ (t true).ras.staged = Fw.shipped true :: [] ∧ (Fw.shipped true).target = true := by
  unfold asked; decide +kernel
theorem test_tamper_recover :
    let s := asking 6 1 [(0x20104, 1)]
    let k := { s with sec := { Sec.reset with kind := 1, latched := true } }
    let a := { s with sec := { Sec.reset with alarm := true, latched := true } }
    let e := { asking 6 1 [] with sec := { Sec.reset with latched := true, kind := 2 } }
    asked s 6 1 ∧ mgtArg s 0 1 = 1 ∧ s.sec.kind ≠ 1 ∧ asked k 6 1 ∧ k.sec.alarm = false ∧ k.sec.kind = 1 ∧ a.sec.alarm = true ∧
      asked e 6 1 ∧ mgtArg e 0 1 = 0 ∧ e.sec.alarm = false ∧ e.sec.erased = false := by unfold asked; decide +kernel
theorem test_background :
    let s := asking 7 1 [(0x20104, 1)]
    let t := { asking 7 1 [] with pwr := { Pwr.reset with dev := .background } }
    asked s 7 1 ∧ mgtArg s 0 1 = 1 ∧ s.pwr.dev = .active ∧ s.ridgeUsed (s.ridge 0) = false ∧ asked t 7 1 ∧ mgtArg t 0 1 = 0 ∧
      t.pwr.dev = .background ∧ t.sec.latched = false := by unfold asked; decide +kernel
theorem test_core_retest :
    let s := asking 8 1 [(0x20104, 3)]
    let t := { s with cores := [(3, { Core.reset with fence := .retired })] }
    let u := asking 8 1 [(0x20104, 16)]
    asked t 8 1 ∧ mgtArg t 0 1 = 3 ∧ mgtArg t 0 1 < t.coreCount ∧ (t.core 3).fence = .retired ∧ (t.core 3).retest = false ∧
      asked s 8 1 ∧ (s.core (mgtArg s 0 1)).fence ≠ .retired ∧ asked u 8 1 ∧ u.coreCount ≤ mgtArg u 0 1 := by unfold asked; decide +kernel

/-! ### The event recorder -/

theorem test_record : up.evt.ring.length ≤ 2048 ∧ (∀ e ∈ up.evt.ring.take 8, e.same 0x0101 1 0 (padTo 12 []) = false) ∧
    (∃ e ∈ (up.record 0x0101 1 0 0 []).evt.ring.take 8, e.same 0x0101 1 0 (padTo 12 []) = true) := by decide +kernel
theorem test_evt_ack : let s := up.record 0x0101 1 0 0 []
    s.linkOpen = true ∧ ((1#32) - s.evt.ack).toNat ≤ (s.evt.head - s.evt.ack).toNat ∧ (s.evt.head - s.evt.ack).toNat < ((2#32) - s.evt.ack).toNat ∧
      bitOf 0x80000000 31 = true ∧ s.evt.head ≠ s.evt.flushed ∧ up.evt.head = up.evt.flushed := by decide +kernel

/-! ### The weight store -/

/-- Extent 7 with the eight codewords of its first unit accepted. -/
def unitStore (st : ExtSt) : Store :=
  { extent7 st with cws := (List.range 8).map (fun i => (cwKey 7 i, { Codeword.none with data := [1] })) }
def unitState (st : ExtSt) : State := { up with store := unitStore st }

theorem test_unit_program :
    let s := unitState .sealing
    s.unitPlace 7 0 0 = some (0, 0) ∧ s.store.ready = true ∧ s.aon.seq ≠ .emergency ∧ s.pwr.dev ≠ .idle ∧
      (∀ o ∈ unitOffsets 0 0, s.accepted 7 o = true ∧ (s.codeword 7 o).programmed = false) ∧ (s.blk 0).wl ≤ 0 ∧
      (s.blk 0).copyTo = none ∧ (s.blk 0).retire = none ∧ s.store.programming = [] ∧ (s.blk 0).st = .mapped ∧
      (∀ e ∈ s.store.blks, e.1 / 256 = 0 / 256 → e.1 ≠ 0 → e.2.st = .erasing → e.2.pulses = 0) ∧ 750 ≤ s.store.vccq ∧
      s.unitSlot (dieOf 0) = true ∧
      ([(7, 0, 0, 0)] : List (Nat × Nat × Nat × Nat)).find? (fun p => p.1 = 7 && p.2.1 = 0 && p.2.2.1 = 0) = some (7, 0, 0, 0) := by decide +kernel

def blkState (b : Blk) : State := { up with store := { Store.fresh with ready := true, blks := [(0, b)] } }

theorem test_erase :
    let s := blkState { Blk.fresh with st := .erasing, pulses := 5 }
    let t := blkState { Blk.fresh with st := .erasing, pulses := 6 }
    blkKey 0 0 0 = 0 ∧ s.store.ready = true ∧ s.pwr.dev ≠ .idle ∧ (s.blk 0).st = .erasing ∧ (s.blk 0).pulses < 6 ∧ s.bankBusy 0 = false ∧ 6 ≤ (t.blk 0).pulses ∧ (t.blk 0).pe + 1 < 20000 ∧
      (t.blk 0).retire = none ∧ 0 < t.spare 0 ∧ (s.aon.seq = .emergency → s.store.lastPulse.contains 0 = false) ∧
      (blkState { Blk.fresh with st := .erasing }).eraseMayStart 0 = true ∧
      20000 ≤ ((blkState { Blk.fresh with st := .erasing, pulses := 6, pe := 19999 }).blk 0).pe + 1 := by decide +kernel
def marked : State :=
  let s := blkState { Blk.fresh with st := .mapped }
  { s with store := { s.store with marks := [(.urgent, 0)] } }
theorem test_copy_start : marked.nextMark 0 = some (.urgent, 0) ∧ marked.store.ready = true ∧ marked.aon.seq ≠ .emergency ∧ marked.pwr.dev ≠ .idle ∧
    750 ≤ marked.store.vccq ∧ marked.darnerSlot 0 true (marked.unitWaits 0) = true := by
  decide +kernel
theorem bestBlock_some (s : State) (better : Nat → Nat → Bool) (x : Nat) : ∀ l : List Nat, x ∈ l → ∃ d, bestBlock s better l = some d
  | k :: t, _ => by
    unfold bestBlock
    split
    · exact ⟨_, rfl⟩
    · split <;> exact ⟨_, rfl⟩
theorem mem_dieKeys_256 : 256 ∈ dieKeys 0 := by
  unfold dieKeys
  refine List.mem_flatten.mpr ⟨bankKeys 0 1, List.mem_map.mpr ⟨1, by simp, rfl⟩, ?_⟩
  unfold bankKeys
  exact List.mem_map.mpr ⟨0, by simp, by decide⟩
theorem test_copy_destination : ∃ dst, marked.copyDest .urgent 0 = some dst := by
  have h : dieOf 0 = 0 := by decide
  unfold State.copyDest
  simp only [h, reduceCtorEq, if_false]
  unfold State.leastWorn
  apply bestBlock_some _ _ 256
  rw [List.mem_filter, List.mem_filter]
  exact ⟨⟨mem_dieKeys_256, by decide⟩, by decide +kernel⟩
theorem test_copy_flip :
    let s := { up with store := { Store.fresh with
      ready := true, blks := [(0, { Blk.fresh with st := .mapped, copyTo := some 256, wl := 1 }), (256, { Blk.fresh with st := .dest })] } }
    (s.blk 0).st = .mapped ∧ (s.blk 0).copyTo = some 256 ∧ (s.blk 0).retire = none ∧ s.store.ready = true ∧ (s.blk 256).retire = none ∧ s.store.programming = [] := by decide +kernel
theorem test_retention :
    let s := { blkState { Blk.fresh with st := .mapped, wl := 1 } with us := 365 * dayUs }
    (s.blk 0).st = .mapped ∧ 0 < (s.blk 0).wl ∧ (s.blk 0).born + s.days * dayUs ≤ s.us ∧
      s.tst.running = false ∧ s.pwr.dev = .active ∧ (let t := { s with pwr := { Pwr.reset with dev := .idle } }
      (t.blk 0).born + t.days * dayUs ≤ t.us ∧ t.pwr.dev = .idle) ∧
      up.us < (up.blk 0).born + up.days * dayUs := by decide +kernel
theorem test_compaction :
    let s := { up with store := { extent7 .sealed_ with rows := [(0, { st := .full, next := 1, map := [(0, 0)] })], shrink := true } }
    s.store.ready = true ∧ s.aon.seq ≠ .emergency ∧ s.pwr.dev ≠ .idle ∧ s.store.compacting = none ∧ s.wantsCompaction = true ∧ s.sparsest = some 0 ∧ 0 < s.rowLive 0 := by decide +kernel
def moving : State :=
  { up with store := { extent7 .sealed_ with exts := [(7, { Extent.none with st := .sealed_, stripes := [(0, 0), (0, 1)] })]
                                             compacting := some 0, compRow := some 1
                                             cws := (List.range 2048).map (fun i => (cwKey 7 i, { Codeword.none with programmed := true })) } }
theorem test_stripe_move : (moving.extent 7).stripes[0]? = some (0, 0) ∧ moving.store.compacting = some 0 ∧ moving.store.compRow = some 1 ∧
    moving.store.ready = true ∧ moving.aon.seq ≠ .emergency ∧ moving.pwr.dev ≠ .idle ∧ 750 ≤ moving.store.vccq ∧ (moving.frow 1).next = 0 ∧ moving.aboveCompact = false ∧ (moving.extent 7).inUse = true ∧
    (moving.extent 7).stripes[1]? = some (0, 1) := by decide +kernel
set_option maxRecDepth 4000 in
theorem test_stripe_done : moving.stripeDone 7 0 = true := by
  have h : moving.store.cws = (List.range 2048).map (fun i => (cwKey 7 i, { Codeword.none with programmed := true })) := rfl
  unfold State.stripeDone State.programmedIn
  rw [h, List.filter_eq_self.mpr]
  · simp [stripeCodewords]
  · simp [cwKey, stripeCodewords]
    omega
theorem test_consent :
    let s := { up with store := { extent7 .sealed_ with shrink := true, need := 1 } }
    bitOf 0x80000000 31 = true ∧ s.store.need ≠ 0 ∧ s.extentsOf (getBits 0x80000000 0 5) ≠ [] ∧ (s.extent 7).st ≠ .free ∧
      (s.extent 7).model.toNat = 0 ∧ s.variantsOf 0 = [] := by decide +kernel

theorem test_page_read :
    let s := blkState { Blk.fresh with st := .mapped }
    let t := blkState { Blk.fresh with st := .mapped, segs := [(0, 0xFFFFFF)] }
    (s.blk 0).st = .mapped ∧ nget 0 (s.blk 0).segs 0 < s.threshHold ∧ (t.blk 0).st = .mapped ∧ t.threshHold ≤ nget 0 (t.blk 0).segs 0 ∧
      (t.blk 0).copyTo = none ∧ t.store.ready = true ∧ t.aon.seq ≠ .emergency ∧ s.bankReads 0 1 = true ∧ t.bankReads 0 1 = true ∧ s.bankReads 0 4 = true ∧ s.pwr.dev ≠ .idle := by
  decide +kernel
theorem test_decoded :
    let s := { up with store := { extent7 .sealed_ with cws := [(cwKey 7 0, { Codeword.none with programmed := true })] } }
    (s.readPlace 7 0).map (fun x => (x.1, x.2.1, x.2.2.1)) = some (0, 0, false) ∧ s.store.ready = true ∧ 750 ≤ s.store.vccq ∧
      s.cwHeld 7 0 = false ∧ (s.extent 7).st = .sealed_ ∧ (s.codeword 7 0).programmed = true ∧
      (s.blk 0).st = .mapped ∧ s.ecRefresh < 64 ∧ 0 ≤ s.ecRefresh ∧ bitOf (s.reg 0x6005C) 31 = false := by decide +kernel
/-- A segment past HOLD: a decode whose read has not begun waits. -/
theorem test_decode_held :
    let s := { up with store := { extent7 .sealed_ with blks := [(0, { Blk.fresh with st := .mapped, segs := [(0, 0xFFFFFF)] })]
                                                        cws := [(cwKey 7 0, { Codeword.none with programmed := true })] } }
    (s.readPlace 7 0).map (fun x => (x.1, x.2.1, x.2.2.1)) = some (0, 0, false) ∧ s.store.ready = true ∧ 750 ≤ s.store.vccq ∧
      (s.extent 7).st = .sealed_ ∧ (s.codeword 7 0).programmed = true ∧ s.cwHeld 7 0 = true := by decide +kernel
theorem test_reference :
    let s := blkState { Blk.fresh with st := .mapped }
    s.store.ready = true ∧ s.aon.seq ≠ .emergency ∧ s.pwr.dev ≠ .idle ∧ s.bankReads 0 4 = true ∧ (s.blk 0).st = .mapped ∧ s.colmap 0 = [] ∧ s.cands 0 = [] := by decide +kernel
theorem test_flash_rate : up.pwr.crit = false ∧ (1 : BitVec 2) ≠ 3 ∧ up.waitsOk 1 = true ∧ up.modeRate 1 = true ∧ up.modeRate 2 = true ∧
    { Pwr.reset with crit := true }.crit = true ∧ (0 : BitVec 2) ≠ 3 := by decide +kernel
theorem test_store_ready : let s := { up with aon := { Aon.reset with seq := .starting, groups := 5 } }
    s.store.ready = false ∧ s.aon.seq = .starting := by decide +kernel
theorem test_asm_area : getBits 0x80200000 20 6 = 2 ∧ bitOf 0x80200000 31 = true ∧ inDram (asmOf 0x80200000) = true ∧
    overlaps (asmOf 0x80200000) (up.poolRegions noSkip ++ up.windowRegions noSkip noSkip) = false ∧ getBits 0x02000000 20 6 = 32 ∧
    getBits 0x00100000 20 6 < 2 ∧ 32 < getBits 0x02100000 20 6 := by decide +kernel

/-! ### Streaming -/

/-- A memory section with one RING partition of 64 KiB and a schedule of one piece of 64 bytes, of a kind at an offset. -/
def ringImage (kind : Byte) : List Byte :=
  toLE 6 0 ++ toLE 2 2 ++ toLE 56 0 ++ toLE 4 2 ++ toLE 4 96 ++ toLE 8 24 ++ toLE 4 7 ++ toLE 4 120 ++ toLE 8 32 ++
  toLE 16 1 ++ toLE 2 0 ++ toLE 2 1 ++ [2, 0, 0, 0] ++ toLE 4 0 ++ toLE 12 1 ++ [kind, 0, 0, 0] ++ toLE 4 0 ++ toLE 4 64 ++ toLE 2 1 ++ toLE 2 1
def pass1 : Pass := { Pass.none with no := 1, gen := 0, cmd := some ref0 }
/-- A pass of model 0 whose layer is `layer`, in bitstream slot 0. -/
def streaming (kind : Byte) (layer : List Byte) : State :=
  { cs { cmd [1] with stage := .started } with
    bs := [(0, { Bs.empty with st := .active, image := ringImage kind })], passes := [pass1], store := extent7 .sealed_
    models := [(0, { Model.free with st := .ready, layers := [layer] })]
    parts := [(0, { Part.free with slot := some 0, kind := 2, size := 1 })]
    sec := { Sec.reset with slots := [(72, { KeySlot.empty with kind := .weight })] } }
def entry1 : SEntry := { kind := 1, ring := 0, layer := 0, seg := 0, off := 0, piece := 64, count := 1, cores := 1 }
/-- The segment streams from the host region. -/
def layerH : List Byte := [0, 1] ++ toLE 14 0 ++ [0, 0, 0x13, 0] ++ toLE 4 0 ++ toLE 4 4096 ++ toLE 4 0

theorem test_piece_staged :
    let s := streaming 1 layer0
    s.store.ready = true ∧ s.aon.seq ≠ .emergency ∧ s.pwr.dev ≠ .idle ∧ s.stagePass 0 0 = some pass1 ∧ s.seek pass1 0 = .found 0 entry1 0 0 ∧
      s.staging pass1 = true ∧ s.ringRoom 0 0 64 = true ∧ s.pieceOff pass1 0 entry1 0 0 = 0 ∧
      (s.segOf 0 0 0 0).any (fun g => g.seg.kind ≠ kDiff && g.seg.place 0 = .flash 0 && g.owner = 0 && g.seg.handle = 7) = true ∧
      (s.weightKey 0).isSome = true ∧ (s.codeword 7 0).bad = false ∧ 750 ≤ s.store.vccq ∧ s.cwHeld 7 0 = false ∧
      s.ringPart 0 0 = some (0, 65536) ∧ ringNext 65536 (s.ringQ 0 0) = 0 ∧
      ∀ r ∈ ringSpans (0, 65536) 0 64, mergeClean s.shm r.1 r.2 := by unfold mergeClean; decide +kernel
/-- A ring of no bytes has no room. -/
theorem test_ring_full :
    let s := { streaming 1 layer0 with bs := [(0, { Bs.empty with st := .active, image := (ringImage 1).set 114 0 })] }
    s.ringRoom 0 0 64 = false ∧ s.stagePass 0 0 = some pass1 ∧ s.seek pass1 0 = .found 0 entry1 0 0 ∧ s.staging pass1 = true := by decide +kernel
theorem test_piece_host :
    let s := streaming 1 layerH
    s.seek pass1 0 = .found 0 entry1 0 0 ∧ (s.segOf 0 0 0 0).any (fun g => g.seg.kind ≠ kDiff && g.seg.place 0 = .host 0 && g.owner = 0) = true ∧
      s.hostGranule 1 0 0 = none ∧ s.ringRoom 0 0 64 = true := by decide +kernel

/-- One expert segment of two experts of one granule. -/
def layerX : List Byte := [0, 1] ++ toLE 14 0 ++ [7, 0, 0x21, 2] ++ toLE 4 0 ++ toLE 4 4096 ++ toLE 4 0
def routing (bs : List (Nat × Byte)) : State := { streaming 2 layerX with shm := { Ram.zero with cells := bs } }

theorem test_route :
    let s := routing [(0, 1), (4, 1), (8, 1)]
    let t := routing [(0, 1), (4, 1), (8, 2)]
    let e := { entry1 with kind := 2 }
    (s.passes.find? (fun p => p.slot = 0 && p.cmd.isSome && p.no.toNat = leNat (s.shm.bytes 0 4))) = some pass1 ∧
      routeEntry pass1 0 0 (s.schedOf pass1) = some (0, e) ∧ s.staging pass1 = true ∧ cleanRange s.shm 0 64 ∧ cleanRange t.shm 0 64 ∧
      s.routeOk pass1 e (s.shm.bytes 0 64) = true ∧ t.routeOk pass1 e (t.shm.bytes 0 64) = false := by unfold cleanRange; decide +kernel
theorem test_mirror :
    up.linkOpen = true ∧ up.models = [] ∧ mirrorOf (0x80000010 &&& 0x800FFFFF) 1 = some (1048576, 65536) ∧
      ({ up with regs := [(0x70004, 1)] } : State).mirrorPlaceOk (1048576, 65536) = true ∧
      (∃ e ∈ (streaming 1 layer0).models, e.2.st = .loading ∨ e.2.st = .ready) := by decide +kernel
theorem test_host_read :
    let k := { cmd [1] with stage := .placing }
    (cs k).cmd? ref0 = some k ∧ k.stage = .placing ∧ k.host = none ∧
      (let s := { up with hostGran := [(hostKey 1 0 0, some [])], passes := [{ pass1 with cmd := none }] }
      s.hostAsked 0 0 = some 1 ∧ (∃ q ∈ s.passes, q.no.toNat = 1) ∧ ∀ q ∈ s.passes, q.no.toNat = 1 → q.cmd = none) ∧
      (let s := { up with hostGran := [(hostKey 1 0 0, some [])] }
      s.hostAsked 0 0 = some 1 ∧ ∀ q ∈ s.passes, q.no.toNat ≠ 1) ∧
      mgtBusy (asking 4 12 []) = true ∧ mgtOp (asking 4 12 []) = 4 ∧ mgtBusy up = false := by decide +kernel

/-! ### DRAM -/

/-- DRAM in use, with a device key. -/
def dramUp : State :=
  { up with dram := { Dram.reset with ready := true, fresh := false }, sec := { Sec.reset with slots := [(8, { KeySlot.empty with kind := .context, ident := 5 })] } }
def rd (req : Requester) (line : Nat) : DReq := { req := req, line := line, key := 8, wr := false, us := 0, data := [], bad := false, full := false, merge := false }
def dramWith (d : Dram → Dram) : State := { dramUp with dram := d dramUp.dram }

theorem test_dram_request :
    dramUp.dram.ready = true ∧ dramUp.dram.clearing = false ∧ dramLines - 1 < dramLines ∧ dramUp.reqTag 8 = some 10 ∧
      (dramUp.dram.reads (lineAddr (dramLines - 1)).ch).length < 64 ∧ (dramUp.dram.writes (lineAddr (dramLines - 1)).ch) = [] ∧
      coversLine ((List.range 64).map (fun i => (BitVec.ofNat 6 i, 1))) = true := by decide +kernel
/-- A write of one byte into a line of the same key. -/
theorem test_dram_partial :
    let s := dramWith (fun d => { d with keys := [(0, 10)] })
    s.reqTag 8 = some 10 ∧ s.dram.lineKey 0 = 10 ∧ coversLine [(63, 1)] = false ∧ (s.dram.writes (lineAddr 0).ch) = [] := by decide +kernel
/-- R314: of the reads of a channel a host's issues first; without a read, a write issues while draining is on. -/
theorem test_dram_return :
    let c := (lineAddr 0).ch
    let s := dramWith (fun d => { d with rq := [(c, [rd 0 0, rd 19 0])], openRow := [(bankIx (lineAddr 0).ch (lineAddr 0).bank, (lineAddr 0).row + 1)] })
    let t := dramWith (fun d => { d with wq := [(c, [rd 0 0])], drain := 0xFFFF, openRow := [(bankIx (lineAddr 0).ch (lineAddr 0).bank, (lineAddr 0).row + 1)] })
    let u := dramWith (fun _ => { t.dram with drain := 0, rq := [(c, [{ rd 19 0 with merge := true }])], mem := { t.dram.mem with poison := [(0, true)] } })
    u.dram.writes c = [rd 0 0] ∧ u.dram.reads c = [{ rd 19 0 with merge := true }] ∧ (rd 0 0).full = false ∧ u.dram.linePoison 0 = true ∧
      u.actHeld (lineAddr 0) 0 = false ∧
    s.chAwake c = true ∧ s.pickRead c = some (rd 19 0) ∧ s.actHeld (lineAddr 0) 19 = false ∧ t.pickRead c = none ∧ t.pickWrite c = some (rd 0 0) ∧
      t.chAwake c = true ∧ t.actHeld (lineAddr 0) 0 = false ∧ t.dram.reads c = [] ∧ t.dram.drain.getLsbD c = true := by decide +kernel
theorem test_dram_patrol :
    let s := dramWith (fun d => { d with openRow := [(bankIx (lineAddr 0).ch (lineAddr 0).bank, (lineAddr 0).row + 1)] })
    s.chAwake (lineAddr 0).ch = true ∧ 0 + 1 < dramLines ∧ s.bankIdle (lineAddr 0) = true ∧ s.actHeld (lineAddr 0) 20 = false ∧
      0 = s.patrolNext (lineAddr 0).ch ∧ s.replaced 0 = false ∧
      (0 : BitVec 7) ≠ 67 ∧ (67 : BitVec 7).toNat < 68 := by decide +kernel
theorem test_dram_refresh : dramUp.chAwake 15 = true ∧ nget 0 dramUp.dram.owed (bankIx 15 15) < 8 ∧
    8 ≤ nget 0 (dramWith (fun d => { d with owed := [(bankIx 15 15, 8)] })).dram.owed (bankIx 15 15) := by decide +kernel
theorem test_dram_clear : 0 < dramUnits ∧ (nset false dramUp.dram.cleared 0 true).length < dramUnits ∧
    nget false dramUp.dram.cleared 0 = false := by decide +kernel
theorem test_shadow :
    let v := dramWith (fun d => { d with shadow := { TSet.reset with mode := 0xC0000000 } })
    bitOf 0xC0000000 31 = true ∧ modeOk 0xC0000000 = true ∧ bitOf 0x40000000 31 = false ∧ modeOk 0x40000000 = true ∧ modeOk 0xF2000000 = false ∧
      dramUp.dram.switching = false ∧ bitOf dramUp.dram.shadow.mode 31 = false ∧ bitOf v.dram.shadow.mode 31 = true ∧ v.dram.switching = false ∧
      ({ dramUp with regs := [(0x50010, 1)] } : State).shadowSel = true := by decide +kernel
theorem test_dram_switch :
    let v := dramWith (fun d => { d with shadow := { TSet.reset with mode := 0xC0000000 }, mrwDone := true })
    let w := { v with dram := { v.dram with switching := true, initing := true } }
    bitOf v.dram.shadow.mode 31 = true ∧ v.dram.mrwDone = true ∧ v.dram.moving = false ∧ dramUp.dram.mrwDone = false ∧
      v.rateLimit ≤ getBits v.dram.shadow.mode 28 3 ∧ w.dram.switching = true ∧ w.dram.initing = true ∧ w.store.ready = false ∧
      w.dram.fresh = false ∧ { Dram.reset with initing := true }.fresh = true ∧
      (let q := { v with pwr := { Pwr.reset with mode := 0 }, dram := { v.dram with shadow := { TSet.reset with mode := 0x90000000 } } }
      bitOf 0x80000000 31 = true ∧ getBits q.dram.shadow.mode 28 3 < q.rateLimit) := by decide +kernel
theorem test_dram_probe :
    bitOf 0xA2200000 31 = true ∧ dramUp.dram.probing = false ∧ getBits 0xA2200000 21 5 = 17 ∧ (1024#11).toNat ≤ 1024 ∧
      { Dram.reset with probing := true }.probing = true := by decide +kernel
theorem test_self_refresh :
    let s := { dramUp with dram := { dramUp.dram with selfRef := 1, rq := [(0, [rd 0 0])] } }
    let u := { dramUp with regs := [(0x50008, 1)], us := 1 }
    u.chAwake 15 = true ∧ getBits (u.reg 0x50008) 0 16 ≠ 0 ∧ getBits (u.reg 0x50008) 0 16 ≤ u.us - nget 0 u.dram.lastReq 15 ∧ dramUp.dram.reads 15 = [] ∧
      dramUp.dram.writes 15 = [] ∧ s.dram.selfRef.getLsbD 0 = true ∧ s.dram.reads 0 ≠ [] ∧
      s.dram.switching = false ∧ (dramWith (fun d => { d with switching := true })).dram.switching = true := by decide +kernel
theorem test_dram_temp :
    outOfBand (getBits dramUp.dram.active.mode 26 2) (20 : BitVec 8).toInt = false ∧
      outOfBand (getBits dramUp.dram.active.mode 26 2) (127 : BitVec 8).toInt = true ∧ dramUp.dram.bandOut = false ∧ dramUp.dram.ready = true ∧
      (dramWith (fun d => { d with bandOut := true })).dram.bandOut = true := by decide +kernel

/-! ### Ulirvo -/

/-- R225: a block that production test retired counts in GOOD and not in GROWN, and serves nothing. -/
theorem test_bad_block : let s := { up with fuses := { up.fuses with badBlocks := [5, 8192, 253] } }
    s.good 0 = 8063 ∧ s.good 1 = 8063 ∧ s.grown 0 = 0 ∧ isFree s 5 = false ∧ isFree s 6 = true := by decide +kernel

def idle1 : Port := { Port.reset with en := true, st := 2, peer := 1, credits := [(0, 1), (1, 1)] }
/-- Node 0 with a port 0 whose peer is node 1, and with it the route to it. -/
def linked (x : Port) : State := { up with ports := [(0, x)], regs := [(0x1100000 + 4 * 1, 1)] }
theorem test_port_enable : bitOf 0x80000000 31 = true ∧ up.linkOpen = true ∧ (up.port 0).en = false ∧ bitOf 0xC0000000 30 = true ∧
    ((linked idle1).port 0).en = true ∧ ((linked { idle1 with st := 3 }).port 0).st = 3 ∧ up.sec.quarantine = false ∧ up.tst.running = false ∧
    1 ≤ up.aon.groups ∧ ¬ (up.pcie.perst = true ∧ up.aon.groups = 5) ∧ (linked idle1).colls = [] ∧ (linked idle1).sysBusy = [] := by decide +kernel
theorem test_port_training :
    let s := linked { idle1 with st := 1 }
    (s.port 0).st = 1 ∧ (widthOf 0xFF).isSome = true ∧ widthOf 0x01 = none ∧ (1#4).toNat ≠ s.node ∧ 0 ∈ s.hops 1 ∧ (0#4).toNat = s.node ∧
      0 ∉ s.hops 2 := by decide +kernel
theorem test_port_replay :
    let s := linked { idle1 with replay := [flit0] }
    let t := linked { idle1 with replay := [flit0], fails := 7 }
    (s.port 0).st = 2 ∧ (s.port 0).replay ≠ [] ∧ (s.port 0).fails < 7 ∧ ¬ (t.port 0).fails < 7 ∧ ((linked idle1).port 0).replay = [] ∧
      (s.port 0).outq = [] ∧ flit0.typ = 0 ∧ (s.port 0).replay.dropWhile (covered (flit0.seq - 1)) ≠ [] := by decide +kernel
theorem test_flits :
    let s := linked idle1
    let f := { flit0 with typ := 3 }
    (s.port 0).st = 2 ∧ (s.port 0).outq = [] ∧ f.vc = 0 ∧ f.seq = (s.port 0).rxSeq ∧ f.dst.toNat = s.node ∧
      (s.port 0).rxSeq - BitVec.ofNat 12 1 = 0xFFF ∧ (s.port 0).rxSeq - BitVec.ofNat 12 256 = 0xF00 ∧
      (s.port 0).rxSeq - BitVec.ofNat 12 257 = 0xEFF ∧ (s.port 0).rxSeq - BitVec.ofNat 12 4095 = 1 ∧ { f with vc := 1 }.vc ≠ 0 ∧
      { f with vc := 3 }.vc ≠ 1 ∧ bitOf f.offset 4 = false ∧ bitOf 16 4 = true ∧ bitOf (1 : Word) 0 = true := by decide +kernel
/-- A COL arrival joins a gather that this device has not yet sent; a release finds core 0 waiting at the channel. -/
theorem test_flit_col :
    let c : Chan := { up.chan 64 with sys := (up.chan 64).sys ||| 2, from_ := nset none (up.chan 64).from_ 1 (some 0) }
    let s := { linked idle1 with cores := [(0, { kOf 0 with front := .col 4 0 0 0 6 })], chans := [(64, { Chan.reset with slot := some 0, mask := 1, scope := 2 })] }
    c.gathers = false ∧ bitOf (0x00020000 : Word) 5 = false ∧ bitOf (0x00020000 : Word) 6 = false ∧ bitOf (0x10 : Word) 4 = true ∧
      bitOf (0x10 : Word) 6 = false ∧ bitOf (0x00020040 : Word) 6 = true ∧ bitOf (0x20 : Word) 5 = true ∧ (s.chan 64).sysSent = false ∧
      s.node = rootOf (s.members (64 % 16)) ∧ (s.core 0).run = true ∧ (s.core 0).peer = false ∧
      (let t := { s with regs := (0x1100100, 6) :: s.regs }
      t.node ≠ rootOf (t.members (64 % 16)) ∧ (t.chan 64).sysSent = false) ∧ (s.chan 64).mask.getLsbD 0 = true ∧
      waitsAt (s.core 0) 64 = true ∧ (s.core 0).front = .col 4 0 0 0 6 ∧ (s.core 0).code = none := by decide +kernel
/-- A DATA flit for node 2, which port 1 reaches. -/
theorem test_flit_forward :
    let s := { linked idle1 with ports := [(0, idle1), (1, { idle1 with peer := 2 })], regs := [(0x1100000 + 4 * 1, 1), (0x1100000 + 4 * 2, 2)] }
    let f := { flit0 with typ := 1, vc := 1, dst := 2 }
    (s.port 0).st = 2 ∧ (s.port 0).outq = [] ∧ f.seq = (s.port 0).rxSeq ∧ f.dst.toNat ≠ s.node ∧ s.hops f.dst.toNat = [1] ∧
      s.dateline 2 1 = false ∧ (s.port 1).st = 2 ∧ (s.port 1).outq = [] ∧ 0 < (s.port 1).creditsOf 1 ∧ (s.port 1).replay.length < 256 := by
  decide +kernel
theorem test_greset : (nodesOf (BitVec.ofNat 16 (getBits 0x80000010 4 16))).contains up.node = true ∧ 1 ≤ up.aon.groups := by decide +kernel

/-- A queue of slot 0 at 0x1000 in a WORK partition; nodes 0 and 1 broadcast 64 bytes of 0x2000 from node 0 to 0x3000. -/
def collRec (len : Nat) : List Byte := [5, 0] ++ toLE 2 3 ++ toLE 4 0x2000 ++ toLE 4 0x3000 ++ toLE 4 len ++ toLE 46 0 ++ [1, 0]
def queued (len : Nat) : State :=
  { linked idle1 with
    bs := [(0, { Bs.empty with st := .active, cqOk := true })], shm := Ram.zero.write 0x1000 (collRec len)
    parts := [(0, { Part.free with slot := some 0, kind := 1, size := 1 })], regs := [(0x1100000 + 4, 1), (0x1100200, 0x80000040)] }

theorem test_collective_request :
    let s := queued 64
    s.collOff 0 0 = 0x1000 ∧ (s.bsSlot 0).cqOk = true ∧ s.cqOn 0 = true ∧ (s.bsSlot 0).st = .active ∧
      byteAt (s.shm.bytes (s.collOff 0 0) 64) 0x3E = 1 ∧ s.coll? 0 0 = none ∧ s.linkless 0 = [] ∧
      s.collOk (Coll.ofRecord 0 0 (s.shm.bytes (s.collOff 0 0) 64)) = true ∧ mergeClean s.shm (0x1000 + 0x3E) 1 ∧
      cleanRange s.shm 0x1000 64 ∧ s.collHead 0 = none := by
  unfold mergeClean cleanRange; decide +kernel
theorem test_collective_bounds :
    let s := queued 63
    byteAt (s.shm.bytes (s.collOff 0 0) 64) 0x3E = 1 ∧ s.collOk (Coll.ofRecord 0 0 (s.shm.bytes (s.collOff 0 0) 64)) = false := by decide +kernel

def coll1 (started : Bool) : Coll := { Coll.ofRecord 0 0 (collRec 64) with started := started, sent := started }
def inHand (started : Bool) : State := { queued 64 with colls := [coll1 started] }

/-- Node 1 is the one other member, through port 0; a second record of the queue waits behind the first. -/
theorem test_collective_handshake :
    let s := inHand true
    let d := { coll1 false with idx := 1 }
    let t := { inHand true with colls := [coll1 true, d] }
    s.otherMembers (coll1 true) = [1] ∧ s.hops 1 = [0] ∧ (s.port 0).st = 2 ∧ (s.port 0).outq = [] ∧ 0 < (s.port 0).creditsOf 0 ∧
      (s.port 0).replay.length < 256 ∧ (s.collHead 0).isSome = true ∧ t.collHead 0 = some (coll1 true) ∧
      ({ t with colls := [d] } : State).collHead 0 = some d := by decide +kernel
theorem test_collective_match :
    let s := inHand false
    let c := coll1 false
    s.colls.find? (fun c => c.slot = 0) = some c ∧ c.idx = 0 ∧ c.started = false ∧
      s.collMatches c [{ node := 1, xfer := 9, record := collRec 64 }] = true ∧ collAgree c (collRec 64) = true ∧
      s.collMatches c [{ node := 1, xfer := 9, record := collRec 128 }] = true ∧ collAgree c (collRec 128) = false := by decide +kernel
theorem test_collective_done :
    let c := coll1 true
    let s := { inHand true with colls := [{ c with data := [(0, List.replicate 64 0)] }] }
    let p := { inHand true with colls := [{ c with data := [(0, List.replicate 64 0)], poison := true }] }
    (s.coll? 0 0).isSome = true ∧ c.started = true ∧ c.sent = true ∧
      (match (s.coll? 0 0).bind s.collResults with
       | some rs => decide (∀ r ∈ rs, ∀ b ∈ r.2, b = false)
       | none => false) = true ∧ (inHand false).coll? 0 0 = some (coll1 false) ∧ (coll1 false).started = false ∧
      c.u 8 4 + 64 ≤ 0x10000 ∧ 0x1000 + 0x40 ≤ c.u 8 4 ∧ c.poison = false ∧ mergeClean s.shm (0x1000 + 0x3C) 4 ∧
      mergeClean s.shm (c.u 8 4) 64 ∧ ((p.coll? 0 0).bind p.collResults).isSome = true := by unfold mergeClean; decide +kernel

/-! ### The security island -/

def island (p : Spdm) : State := { up with sec := { Sec.reset with ready := true, spdm := p } }
def agreed : Spdm := { version := true, caps := true, algs := true, sess := [], phases := [] }
def session (x : SessSt) : State := island { agreed with sess := [(0, x)] }

theorem test_spdm_order :
    (island Spdm.reset).spdmOpen = true ∧ (island Spdm.reset).sec.spdm.version = false ∧ (island Spdm.reset).sec.spdm.caps = false ∧
      (island Spdm.reset).sec.spdm.algs = false ∧ (island agreed).spdmOpen = true ∧ (island agreed).sec.spdm.version = true ∧
      (island agreed).sec.spdm.caps = true ∧ (island agreed).sec.spdm.algs = true := by decide +kernel
theorem test_key_exchange :
    let s := island { agreed with sess := (List.range 4).map (fun i => (i, .established)) }
    let q := { island agreed with sec := { (island agreed).sec with quarantine := true } }
    (∀ i, i < 4 → s.sess i ≠ .none) ∧ (session .established).sess 0 ≠ .none ∧ (session .established).sess 1 = .none ∧
      (session .established).sec.quarantine = false ∧ q.spdmOpen = true ∧ q.sec.quarantine = true ∧ q.sec.spdm.algs = true := by decide +kernel
theorem test_sessions :
    (session .handshake).sess 0 = .handshake ∧ (session .established).inSession 0 = true ∧ (session .handshake).spdmOpen = true ∧
      (session .handshake).sess 1 ≠ .established := by decide +kernel

/-- Model 0 installed, key slots as given. -/
def keyed (ks : List (Nat × KeySlot)) : State :=
  let s := session .established
  { s with models := [(0, { Model.free with st := .installing })], sec := { s.sec with slots := ks } }
def msg (op len : Nat) (fixed : List Byte) : List Byte := padTo len (toLE 2 op ++ toLE 2 len ++ fixed)
def weightMsg : List Byte := msg 0x0101 0x50 [0, 1, 0, 0]

theorem test_key_weight :
    let s := keyed []
    s.spdmOpen = true ∧ s.inSession 0 = true ∧ weightMsg.length = 0x50 ∧ leAt weightMsg 0 2 = 0x0101 ∧ leAt weightMsg 2 2 = 0x50 ∧
      byteAt (msg 0x0101 0x50 [0, 2, 0, 0]) 5 = 2 ∧ byteAt weightMsg 4 < 32 ∧ byteAt weightMsg 5 < 2 ∧ byteAt weightMsg 7 = 0 ∧ (s.model 0).st ≠ .free ∧ (s.keySlot (weightKeySlot 0)).kind = .empty ∧
      (s.keySlot sealSlot).kind = .empty ∧ ((keyed [(117, { KeySlot.empty with kind := .internal })]).keySlot sealSlot).kind ≠ .empty ∧
      ((keyed [(72, { KeySlot.empty with kind := .weight })]).keySlot (weightKeySlot 0)).kind ≠ .empty ∧ (s.model 31).st = .free := by decide +kernel
theorem test_key_context :
    let s := keyed []
    let m := msg 0x0102 0x48 [63, 7, 0, 0]
    m.length = 0x48 ∧ leAt m 0 2 = 0x0102 ∧ leAt m 2 2 = 0x48 ∧ byteAt m 4 < 64 ∧ byteAt m 5 < 8 ∧ leAt m 6 2 = 0 ∧ s.ctxInUse 63 = false ∧
      ({ s with ctxs := [(63, { Ctx.reset with en := true })] } : State).ctxInUse 63 = true := by decide +kernel
theorem test_key_verify :
    let s := keyed [(7, { KeySlot.empty with kind := .verify })]
    let m := msg 0x0103 0x68 [1, 0, 0, 0]
    m.length = 0x68 ∧ leAt m 0 2 = 0x0103 ∧ leAt m 2 2 = 0x68 ∧ 1 ≤ byteAt m 4 ∧ byteAt m 4 ≤ 7 ∧ leAt m 5 3 = 0 ∧ (s.keySlot 1).kind = .empty ∧
      (s.keySlot 7).kind ≠ .empty ∧ leAt (msg 0x0103 0x68 [7, 1, 0, 0]) 5 3 ≠ 0 ∧ byteAt (msg 0x0103 0x68 [7, 1, 0, 0]) 4 = 7 := by decide +kernel
theorem test_key_destroy :
    let m := msg 0x0104 0x08 (toLE 4 (65536 + 72))
    let v := msg 0x0104 0x08 (toLE 4 (65536 + 7))
    let k := { KeySlot.empty with kind := .weight, gen := 1, held := true }
    let s := keyed [(72, k), (7, { KeySlot.empty with kind := .verify, gen := 1 })]
    m.length = 8 ∧ leAt m 0 2 = 0x0104 ∧ leAt m 2 2 = 8 ∧ leAt m 4 4 % 128 = 72 ∧ s.keySlot 72 = k ∧ k.gen.toNat * 65536 + 72 = leAt m 4 4 ∧
      s.cmds = [] ∧ s.passesOf 0 = [] ∧ (cmd [1]).isRun = true ∧ (cmd [1]).rModel = 72 - 72 ∧ (cmd [1]).stage = .fetched ∧
      (∀ j ∈ ({ s with cmds := [cmd [1]] } : State).cmds, j = cmd [1]) ∧ ({ s with cmds := [cmd [1]] } : State).keySlot 72 = k ∧
      k.session.toNat = 0 ∧ leAt v 4 4 % 128 = 7 ∧ (s.keySlot 7).gen.toNat * 65536 + 7 = leAt v 4 4 ∧ (s.keySlot 7).kind = .verify ∧
      (∀ i, i < 8 → ¬ ((s.bsSlot i).st = .resident ∨ (s.bsSlot i).st = .active)) ∧ (keyed []).keySlot 72 = .empty ∧
      ((keyed [(72, { k with held := false })]).keySlot 72).held = false := by decide +kernel
theorem test_ide : (session .established).ideInUse true = false ∧ (2 : BitVec 2) ≠ 3 := by decide +kernel

theorem test_tamper_sleep :
    let s := { up with pwr := { Pwr.reset with dev := .idle } }
    let e := { session .none with store := { Store.fresh with ready := false } }
    let r := { session .none with store := { Store.fresh with ready := true } }
    s.sensorRuns 0 true = true ∧ s.pwr.dev = .idle ∧ r.sensorRuns 4 false = true ∧ r.sec.ready = true ∧ r.store.ready = true ∧
      1 ≤ r.aon.groups ∧ e.sec.ready = true ∧ e.store.ready = false ∧ up.sensorRuns 4 false = true ∧ up.sec.ready = false ∧
      s.sec.zeroing = false := by decide +kernel
theorem test_tamper_commands :
    let k := { cmd [] with stage := .waiting }
    let s := { session .none with cmds := [k] }
    s.sensorRuns 1 false = true ∧ k.stage ≠ .started ∧ k.stage ≠ .ended ∧ ∀ j ∈ s.cmds, j = k := by decide +kernel
theorem test_island_startup :
    let s := { up with aon := { Aon.reset with seq := .starting, groups := 3 } }
    let l := { s with sec := { Sec.reset with latched := true } }
    s.aon.seq = .starting ∧ s.sec.ready = false ∧ s.sec.quarantine = false ∧ s.sec.latched = false ∧ s.sec.alarm = false ∧
      s.tap.testMode = false ∧ l.sec.latched = true ∧ l.sec.ready = false ∧ { Sec.reset with zeroing := true }.zeroing = true ∧
      (let z := { s with sec := { Sec.reset with zeroing := true } }
      z.aon.seq = .starting ∧ z.sec.ready = false ∧ z.sec.quarantine = false) := by decide +kernel
theorem test_context_policy :
    let s := keyed [(8, { KeySlot.empty with kind := .context })]
    let e := { s with ctxs := [(0, { Ctx.reset with en := true })] }
    s.linkOpen = true ∧ bitOf 0x82000000 25 = true ∧ bitOf 0x80000000 25 = false ∧ s.secCtx = 0 ∧ s.ctxInUse 0 = false ∧
      (s.keySlot (ctxKeySlot 0)).kind ≠ .empty ∧ e.ctxInUse 0 = true := by decide +kernel
theorem test_window :
    let v : Word := 0x80000000 &&& 0xFC000000
    let x := winOf 0 1 v
    let y := winOf 0 0xFFFFF v
    (up.ctx 0).en = false ∧ up.inflight 0 = 0 ∧ x.en = true ∧ up.windowOk 0 0 x = true ∧ y.en = true ∧ up.windowOk 0 0 y = false ∧
      (winOf 0 0 0).en = false ∧ ({ up with ctxs := [(0, { Ctx.reset with en := true })] } : State).ctx 0 = { Ctx.reset with en := true } := by
  decide +kernel

/-! ### Power -/

theorem test_power_sample :
    let s := { one { Core.reset with run := true, point := 4 } with aon := { Aon.reset with seq := .on, groups := 5 }, pwr := { Pwr.reset with ticks := 9 } }
    s.powered = true ∧ State.reset.powered = false ∧ s.pwr.fixed = 0 ∧ s.pl2 < 1000000 ∧ (s.pwr.ticks + 1) % 10 = 0 ∧
      (s.pwr.ticks + 1) % 500 ≠ 0 ∧ 0 < s.coreCount ∧ 0 < min (s.core 0).point (s.demand 0) ∧ (1 : BitVec 2) ≠ 0 := by decide +kernel
/-- Above PL2 whatever the estimate: one sample of at least 2 kW before it. -/
theorem test_over_cap (e v : Nat) (hv : 2000000 ≤ v) : up.pl2 * (e :: [v]).length < (e :: [v]).foldl (· + ·) 0 := by
  have h : up.pl2 < 1000000 := by decide +kernel
  simp only [List.length_cons, List.length_nil, List.foldl_cons, List.foldl_nil]
  omega
theorem test_point_ramp :
    let s (p : Pwr) : State := { up with pwr := p }
    let p := { Pwr.reset with rampTo := [(2, 4)] }
    (s p).pwr.crit = false ∧ (s p).pwr.ctrlHold = false ∧ (s { p with crit := true }).pwr.crit = true ∧ (s p).pwr.dev ≠ .background ∧
      (s { p with dev := .background }).pwr.dev = .background ∧ getBits (1 : Word) 0 2 < 2 ∧ 2 ≤ getBits (2 : Word) 0 2 := by decide +kernel
theorem test_temp_sample : up.powered = true ∧ up.fuses.mask.getLsbD 15 = true ∧ up.tAlert ≤ 105 ∧ up.tCtrl < 105 := by decide +kernel
theorem test_droop :
    let s := { up with cores := [(3, { Core.reset with point := 1, stretch := true })], pwr := { Pwr.reset with segStretch := 8, rampTo := [(2, 4)] } }
    3 < s.coreCount ∧ (s.core 3).point ≠ 0 ∧ (s.core 3).stretch = true ∧ s.pwr.segStretch.getLsbD 3 = true ∧ nget 0 s.pwr.rampTo 2 ≠ 0 ∧
      s.linkOpen = true ∧ s.pwr.dev ≠ .background := by decide +kernel

theorem test_power_on :
    let a := Aon.reset
    let s := State.reset
    a.supply = true ∧ a.seq = .off ∧ a.trip = false ∧ a.minOff = false ∧ a.onLatched = false ∧ s.aon = a ∧ a.autoOn = true ∧
      bitOf 0x80000000 31 = true ∧ { a with minOff := true, onLatched := true }.minOff = true ∧ { a with trip := true }.trip = true ∧
      { a with autoOn := false }.autoOn = false ∧ { a with seq := .emergency }.supply = true ∧
      a.pg.getLsbD 1 = false ∧ { a with pg := 2 }.pg.getLsbD 1 = true ∧ bitOf 0x7FFFFFFF 31 = false ∧
      bitOf 0x80000000 30 = false := by decide +kernel
theorem test_rail_groups :
    let s := { State.reset with aon := { Aon.reset with seq := .rampUp, groups := 4 } }
    let t := { State.reset with aon := { Aon.reset with seq := .rampUp, groups := 1 } }
    s.aon.seq = .rampUp ∧ (5 : BitVec 3).toNat = s.aon.groups + 1 ∧ (2 : BitVec 3).toNat = t.aon.groups + 1 ∧ (2 : BitVec 3).toNat < 5 ∧
      (3 : BitVec 3).toNat = { t.aon with groups := 2 }.groups + 1 ∧ (4 : BitVec 3).toNat = { t.aon with groups := 3 }.groups + 1 ∧
      t.aon.groups + 1 < (3 : BitVec 3).toNat ∧ s.aon.supply = true ∧ s.aon.groups = 4 ∧ s.pcie.clkreq = false ∧
      (∀ g, g < 6 → (putBit t.aon.pg g true).getLsbD (g + 1) = false) ∧ (putBit { t.aon with pg := 8 }.pg 2 true).getLsbD 3 = true ∧
      State.reset.aon.seq = .off ∧ (2 : BitVec 3).toNat ≤ s.aon.groups ∧ { Aon.reset with supply := false }.supply = false := by decide +kernel
theorem test_safe_point :
    let s := { dramUp with aon := { Aon.reset with seq := .starting, groups := 5 }, sec := { Sec.reset with ready := true }, store := { Store.fresh with ready := true } }
    s.aon.seq = .starting ∧ ({ s with dram := { s.dram with seen := true } } : State).dram.seen = true ∧ s.dram.seen = false ∧
      { s.aon with offLatched := true }.offLatched = true ∧ s.sec.ready = true ∧ s.store.ready = true ∧ s.aon.offLatched = false ∧ s.aon.supply = true ∧
      s.aon.groups ≠ 0 ∧ bitOf 0x40000000 30 = true := by decide +kernel
theorem test_off_request :
    let k := { cmd [] with stage := .waiting }
    let s := cs k
    s.aon.seq = .on ∧ s.fencing = false ∧ ({ s with cores := [(0, { Core.reset with faultStep := 2 })] } : State).fencing = true ∧
      s.linkOpen = true ∧ k.stage ≠ .started ∧ k.stage ≠ .ended ∧ s.affected k.ref.ctx k.ref.spool = false ∧
      (∀ j ∈ s.cmds, j.ref = k.ref → j = k) := by decide +kernel
theorem test_rails_off :
    let s := { up with aon := { Aon.reset with seq := .emergency }, store := { Store.fresh with ready := true } }
    s.store.programming = [] ∧ s.aon.seq = .emergency ∧ s.store.ready = true ∧ { s.aon with seq := .down }.seq = .down ∧ s.cmds = [] := by
  decide +kernel
theorem test_running_core_stops : ((one (kOf 0)).core 0).run = true := by decide +kernel

theorem test_clear_trip :
    let h := { up with pwr := { Pwr.reset with temps := [(0, some 120)] } }
    up.powered = true ∧ bitOf 0x40000000 30 = true ∧ bitOf 0x20000000 29 = true ∧ up.aon.seq = .on ∧ up.aon.supply = true ∧
      (BitVec.ofNat 8 (tempByte up.pwr.tj)).toInt < 110 ∧ 110 ≤ (BitVec.ofNat 8 (tempByte h.pwr.tj)).toInt := by decide +kernel
theorem test_wake_alarm :
    let a := { Aon.reset with alarmEn := true, alarm := 5 }
    let b := { a with calSec := 5, posted := [(0x48, 1), (0x44, 2)] }
    a.supply = true ∧ a.alarmEn = true ∧ a.seq = .off ∧ a.calSec.toNat % 2 ^ 32 < a.alarm.toNat ∧ b.alarm.toNat ≤ b.calSec.toNat % 2 ^ 32 ∧
      Aon.reset.posted = [] ∧ b.posted = (0x48, 1) :: [(0x44, 2)] ∧ { b with posted := [(1, 0)] }.posted = (1, 0) :: [] ∧ b.posted.tail = (0x44, 2) :: [] := by decide +kernel
theorem test_idle :
    let s := { up with regs := [(0x30004, 0x80000000)] }
    let e := { up with pwr := { Pwr.reset with dev := .enteringIdle } }
    s.mayIdle = true ∧ e.pwr.dev = .enteringIdle ∧ e.store.programming = [] ∧ e.sec.latched = false ∧ up.pwr.dev = .active ∧
      (let x := { up with pwr := { Pwr.reset with dev := .idle, exiting := true }, pcie := { up.pcie with clkreq := false } }
      x.pwr.dev = .idle ∧ x.pwr.exiting = true ∧ x.pcie.clkreq = false ∧ x.sec.latched = false ∧
      (let y := { x with sec := { Sec.reset with latched := true, kind := 2 } }
      y.sec.latched = true ∧ y.sec.kind = 2 ∧ y.sec.quarantine = false)) := by decide +kernel

/-! ### Sideband, scan and patterns -/

theorem test_i3c : State.reset.aon.supply = true ∧ State.reset.aon.i3cAddr = none ∧
    { Aon.reset with i3cAddr := some 8 }.i3cAddr = some 8 := by decide +kernel
theorem test_tap : 1 ≤ up.aon.groups ∧ { Tap.reset with testMode := true }.testMode = true ∧ up.tap.testMode = false ∧
    (0 : BitVec 64).getLsbD 63 = false ∧ (0x8000000000000000 : BitVec 64).getLsbD 63 = true := by decide +kernel
def patterned : State :=
  { up with tap := { Tap.reset with testMode := true }, regs := [(tstSel, 0x00010000)] }
theorem test_tst_go :
    let s := patterned
    let r := (s.tstFields 0x80000000).reg tstCtrl
    let i := getBits (s.reg tstSel) 16 3
    let groups := tstOn i (getBits (s.reg tstSel) 8 8) (bitOf r 28)
    s.linkOpen = true ∧ bitOf 0x80000000 31 = true ∧ bitOf 0x80000000 23 = false ∧ bitOf 0x20000000 29 = true ∧ s.tst.running = false ∧
      (groups, tstModeOk i (tstMode r), s.tstPermitted i groups) = ([0], true, true) := by decide +kernel
theorem test_tst_refused : let s := { patterned with regs := [(tstSel, 0x00070000)] }
    tstOn (getBits (s.reg tstSel) 16 3) (getBits (s.reg tstSel) 8 8) false = [] ∧ up.tstPermitted 0 [0] = false ∧ tstModeOk 2 1 = false := by
  decide +kernel
/-- A run on port 0's lanes with lane 0 locked. -/
def testing : State :=
  { patterned with
    tst := { Tst.reset with running := true, counting := true, iface := 1, lanes := [(laneIx 1 0 0, { Checker.reset with lock := true })] }
    regs := [(tstCtrl, 1)] }
theorem test_tst_run :
    let b := { testing with ports := [(0, { Port.reset with st := 2 })] }
    testing.tst.running = true ∧ testing.linkOpen = true ∧ bitOf 0x00800000 23 = true ∧ bitOf 0x00800000 31 = false ∧
      testing.tst.counting = true ∧ getBits (testing.reg tstCtrl) 0 16 ≠ 0 ∧ testing.tstHolds = true ∧ b.tstHolds = false ∧
      testing.tst.selected.contains (laneIx 1 0 0) = true ∧ tstMode (testing.reg tstCtrl) ≠ 2 ∧
      (nget Checker.reset testing.tst.lanes (laneIx 1 0 0)).lock = true ∧ testing.tst.selected.contains (laneIx 1 0 1) = true ∧
      (nget Checker.reset testing.tst.lanes (laneIx 1 0 1)).lock = false ∧ getBits (testing.reg tstCtrl) 24 2 = 0 := by decide +kernel
/-- PRBS7 from the all-ones state, worked out from x⁷ + x⁶ + 1: 7 bits for the register and 64 that match lock a checker; one wrong
bit, or one bit fewer, does not. -/
theorem test_lock_bits :
    let bits := (List.range 71).map (fun i => (0x385f2b9a278a18207f#71).getLsbD i)
    prbsLocks 0 bits = true ∧ prbsLocks 0 (bits.set 70 (!(bits.getD 70 false))) = false ∧ prbsLocks 0 (bits.drop 1) = false := by decide +kernel

/-! ### The whole block -/

theorem test_idle_step : State.reset.pending = [] ∧ State.reset.aon.supply = true ∧ State.reset.aon.calAcc < 1000000 ∧
    State.reset.aon.calSec.toNat + 1 < 2 ^ 48 := by decide +kernel
theorem test_grade : gradeOk State.reset := by unfold gradeOk; decide +kernel
/-- A part with 14 cores: positions 5 and 14, of two ridges, are absent. -/
theorem test_absent_core : let s := { up with fuses := { up.fuses with grade := 1, mask := 0xBFDF } }
    s.linkOpen = true ∧ s.coreCount = 14 ∧ s.coreCount ≤ 14 ∧ gradeOk s := by unfold gradeOk; decide +kernel

/-! ### Values from the standards that the manual names, and roundings worked out by hand -/

/-- FIPS 197, C.3. -/
theorem test_aes_256 : aesEncrypt (roundKeys (List.range 32)) ((List.range 16).map (fun i => 17 * i)) =
    [0x8e, 0xa2, 0xb7, 0xca, 0x51, 0x67, 0x45, 0xbf, 0xea, 0xfc, 0x49, 0x90, 0x4b, 0x49, 0x60, 0x89] := by decide +kernel
/-- FIPS 180-4, SHA-384 of "abc". -/
theorem test_sha_384 : sha384 [0x61, 0x62, 0x63] =
    natBE 48 0xcb00753f45a35e8bb5a03d699ac65007272c32ab0eded1631a8b605a43ff5bed8086072ba1e7cc2358baeca134c825a7 := by decide +kernel
/-- The check value of CRC-32C. -/
theorem test_crc_32c : crc32c [0x31, 0x32, 0x33, 0x34, 0x35, 0x36, 0x37, 0x38, 0x39] = 0xE3069283 := by decide +kernel
/-- Ties go to even: 1 + 2⁻²⁴ is 1, and one unit above 1 goes up. -/
theorem test_fadd_ties : fadd 0x3F800000 0x33800000 = 0x3F800000 ∧ fadd 0x3F800001 0x33800000 = 0x3F800002 := by decide +kernel
/-- One rounding: (1 + 2⁻²³)² - (1 + 2⁻²²) is 2⁻⁴⁶. -/
theorem test_ffma_once : ffma 0x3F800001 0x3F800001 0xBF800002 = 0x28800000 := by decide +kernel
theorem test_subnormals : fmul 0x00800000 0x3F000000 = 0x00400000 ∧ fadd 0x00000001 0x00000001 = 0x00000002 := by decide +kernel
/-- FP8 conversions saturate at 448 and 57,344; FP16 goes to infinity from 65,520; INT8 clamps. -/
theorem test_narrow : toE4m3 0x43FA0000 = 0x7E ∧ toE5m2 0x47800000 = 0x7B ∧ toF16 0x477FF000 = 0x7C00 ∧ toBf16 0x3F808000 = 0x3F80 ∧
    toI8 0x43480000 = 127 ∧ toI8 0xBF000000 = 0 := by decide +kernel
end Sys2Proof.Tests
end

section
/-! SUPPORT. The register block of a core number at or above the enabled count (R3): a read is 0, and a write reaches nothing but the
write-one-to-clear bits that its command says the device sets in the same cycle (R12). -/

namespace Sys2Proof.Machine

open Sys2Proof.Safety

/-! ### The offsets of a core's block -/

theorem coreOff_toNat_ofNat {n off : Nat} (hn : n < 16) (ho : off < 0x10000) :
    (BitVec.ofNat 24 (coreOff n off)).toNat = coreOff n off := by
  simp only [coreOff, BitVec.toNat_ofNat]; omega

theorem coreOff_bounds {n off : Nat} (hn : n < 16) (ho : off < 0x10000) :
    0x100000 ≤ coreOff n off ∧ coreOff n off < 0x200000 := by
  unfold coreOff; omega

theorem coreOff_core {n off : Nat} (ho : off < 0x10000) : (coreOff n off - 0x100000) / 65536 = n := by
  unfold coreOff; omega

theorem coreOff_aligned {n off : Nat} (ha : off % 4 = 0) : coreOff n off % 4 = 0 := by
  unfold coreOff; omega

/-- No write to a register of a core's block is a row of its own. -/
theorem ownRow_core {n off : Nat} (hn : n < 16) (ho : off < 0x10000) (val : Word) : ownRow (coreOff n off) val = false := by
  obtain ⟨lo, hi⟩ := coreOff_bounds hn ho
  generalize coreOff n off = o at lo hi ⊢
  have hdoor : isDoorbell o = false := by simp [isDoorbell]; omega
  have hwin : isWindowReg o = false := by simp [isWindowReg]; omega
  have hoff : o ∉ ownOffsets := by simp [ownOffsets]; omega
  have hbits : ownBits.any (fun e => e.1 = o && bitOf val e.2) = false := by simp [ownBits]; omega
  simp [ownRow, hdoor, hwin, hoff, hbits]

/-! ### Reads and writes of an absent core's block -/

theorem readReg_absentCore {s : State} {n off : Nat} (hc : s.coreCount ≤ n) (hn : n < 16) (ho : off < 0x10000) :
    s.readReg (coreOff n off) = 0 := by
  obtain ⟨lo, hi⟩ := coreOff_bounds hn ho
  have h1 : ¬ 0x240000 ≤ coreOff n off := by omega
  have h2 : ¬ 0x200000 ≤ coreOff n off := by omega
  simp [State.readReg, h1, h2, lo, coreOff_core ho, State.coreRead, hc]

theorem bar0Write_absentCore {s : State} {n off : Nat} (hc : s.coreCount ≤ n) (hn : n < 16) (ho : off < 0x10000) (who : Agent)
    (val : Word) : s.bar0Write who (coreOff n off) val = s := by
  obtain ⟨lo, hi⟩ := coreOff_bounds hn ho
  have hcore : s.coreCount ≤ (coreOff n off - 0x100000) / 65536 := by rwa [coreOff_core ho]
  generalize coreOff n off = o at lo hi hcore ⊢
  have h3 : o / 65536 ≠ 0x3 := by omega
  have h5 : o / 65536 ≠ 0x5 := by omega
  have h6 : o / 65536 ≠ 0x6 := by omega
  have hE : o / 65536 ≠ 0xE := by omega
  have hpool : ¬ o < 0x80180 := by omega
  have hbudget : ¬ o < 0x80600 := by omega
  have hvec : ¬ o < 0x18800 := by omega
  unfold State.bar0Write
  split
  case h_23 => simp [h3, h5, h6, hE, hpool, hbudget, hvec, lo, hi, hcore]
  all_goals omega

/-- R3 and R12 meet here: the host's write reaches no bit, but the device's own setting of a write-one-to-clear bit, which the command
carries, is not tied to an enabled core. -/
theorem exec_hostWrite_absentCore {s : State} {n off : Nat} (hl : s.linkOpen = true) (hc : s.coreCount ≤ n) (hn : n < 16)
    (ho : off < 0x10000) (ha : off % 4 = 0) (val set : Word) :
    exec (.regWrite .host (BitVec.ofNat 24 (coreOff n off)) ⟨val, set⟩) s = .next (s.sameCycle (coreOff n off) set) := by
  simp [exec, execRegWrite, coreOff_toNat_ofNat hn ho, coreOff_aligned ha, ownRow_core hn ho, State.byHost, hl,
    bar0Write_absentCore hc hn ho]

theorem exec_mgmtWrite_absentCore {s : State} {n off : Nat} (hc : s.coreCount ≤ n) (hn : n < 16)
    (ho : off < 0x10000) (ha : off % 4 = 0) (val set : Word) :
    exec (.regWrite .mgmt (BitVec.ofNat 24 (coreOff n off)) ⟨val, set⟩) s =
      .next (if decide (1 ≤ s.aon.groups) && !s.heldReset (coreOff n off) then s.sameCycle (coreOff n off) set else s) := by
  simp [exec, execRegWrite, coreOff_toNat_ofNat hn ho, coreOff_aligned ha, ownRow_core hn ho, bar0Write_absentCore hc hn ho]

/-! ### Bits that the device sets in the cycle of the write (R12) -/

theorem State.sameCycle_of_regInfo {s : State} {o : Nat} {r : RegInfo} {set : Word} (hr : regInfo o = some r) (ho : o ≠ 0x60064)
    (hset : set &&& r.w1c ≠ 0) : s.sameCycle o set = s.setReg o (s.reg o ||| (set &&& r.w1c)) := by
  simp only [State.sameCycle, ho, hr, if_neg hset, if_false]

theorem State.sameCycle_of_no_w1c {s : State} {o : Nat} {set : Word} (ho : o ≠ 0x60064)
    (hset : ∀ r, regInfo o = some r → set &&& r.w1c = 0) : s.sameCycle o set = s := by
  cases hr : regInfo o with
  | none => simp [State.sameCycle, ho, hr]
  | some r => simp [State.sameCycle, ho, hr, hset r hr]

/-- What the model keeps of R3: a write is ignored, whoever makes it, unless the device sets a write-one-to-clear bit in its cycle. -/
theorem exec_regWrite_absentCore_of_no_w1c {s : State} {n off : Nat} {set : Word} (hl : s.linkOpen = true) (hc : s.coreCount ≤ n)
    (hn : n < 16) (ho : off < 0x10000) (ha : off % 4 = 0)
    (hset : ∀ r, regInfo (coreOff n off) = some r → set &&& r.w1c = 0) (who : Agent) (val : Word) :
    exec (.regWrite who (BitVec.ofNat 24 (coreOff n off)) ⟨val, set⟩) s = .next s := by
  have hne : coreOff n off ≠ 0x60064 := by have := coreOff_bounds hn ho; omega
  have hsame : s.sameCycle (coreOff n off) set = s := State.sameCycle_of_no_w1c hne hset
  cases who with
  | host => rw [exec_hostWrite_absentCore hl hc hn ho ha, hsame]
  | mgmt => rw [exec_mgmtWrite_absentCore hc hn ho ha, hsame, ite_self]

/-! ### A part with two absent cores -/

/-- A GC2014 after reset with its link open: positions 5 and 14 are absent, so cores 14 and 15 are. -/
def fourteenCores : State :=
  { State.reset with
    fuses := { State.reset.fuses with grade := 1, mask := 0xBFDF }
    pcie := { Pcie.reset with linkUp := true, perst := false } }

theorem fourteenCores_spec : gradeOk fourteenCores ∧ fourteenCores.linkOpen = true ∧ fourteenCores.coreCount = 14 := by
  unfold gradeOk; decide +kernel

/-- The control-fault record of core 14: VALID alone is write-one-to-clear. -/
theorem regInfo_faultRecord_core14 : regInfo (coreOff 14 0xB08) = some (recReg 0xB08 .flr).perCore := by decide +kernel

theorem fourteenCores_faultRecord : fourteenCores.reg (coreOff 14 0xB08) = 0 := by
  simp [State.reg, fourteenCores, State.reset, resetOf, regInfo_faultRecord_core14, RegInfo.perCore, recReg, roReg]

/-- The write of 0 in whose cycle VALID is set leaves the record of the absent core valid. -/
theorem sameCycle_sets_absent_faultRecord :
    (fourteenCores.sameCycle (coreOff 14 0xB08) 0x80000000).reg (coreOff 14 0xB08) = 0x80000000 := by
  rw [State.sameCycle_of_regInfo regInfo_faultRecord_core14 (by decide) (by decide), State.reg_setReg_same, fourteenCores_faultRecord]
  decide

/-- Refutes O58: in a part of 14 cores, the host's write of 0 to the fault record of core 14 (offset 0xB08 of its block), in a cycle
in which the command has the device set VALID, changes that record from 0 to 0x8000_0000. Reads of the block are 0
(`readReg_absentCore`), and a write without such a bit is ignored (`exec_regWrite_absentCore_of_no_w1c`). -/
theorem not_absentCoreBlocksIgnoreWrites : ¬ Obligations.AbsentCoreBlocksIgnoreWrites := by
  unfold Obligations.AbsentCoreBlocksIgnoreWrites
  intro h
  obtain ⟨-, hlink, hcount⟩ := fourteenCores_spec
  have hignored := (h fourteenCores 14 0xB08 .host 0 0x80000000 hlink (Nat.le_of_eq hcount) (by decide) (by decide) (by decide)).2
  rw [exec_hostWrite_absentCore hlink (Nat.le_of_eq hcount) (by decide) (by decide) (by decide)] at hignored
  injection hignored with hsame
  have hvalid := sameCycle_sets_absent_faultRecord
  rw [hsame, fourteenCores_faultRecord] at hvalid
  exact absurd hvalid (by decide)

end Sys2Proof.Machine
end

section
/-! SUPPORT. How a host command that its conditions refuse ends (R18, R365, R421): the status that it takes, what stays of the other
commands, and the bookkeeping that goes with it, which reaches neither memory nor the host's. -/

namespace Sys2Proof.Machine

open Sys2Proof.Safety

/-! ### The commands of the spools -/

theorem find?_modFirst_same {r : CmdRef} {f : Cmd → Cmd} {ks : List Cmd} {k : Cmd} (hk : ks.find? (fun j => j.ref = r) = some k)
    (hf : (f k).ref = k.ref) : (modFirst r f ks).find? (fun j => j.ref = r) = some (f k) := by
  induction ks with
  | nil => simp at hk
  | cons j t ih =>
    by_cases hj : j.ref = r
    · obtain rfl : j = k := by simpa [hj] using hk
      simp [modFirst, hj, hf]
    · have htail : t.find? (fun j => j.ref = r) = some k := by simpa [hj] using hk
      simpa [modFirst, hj] using ih htail

theorem find?_modFirst_other {r q : CmdRef} {f : Cmd → Cmd} (hf : ∀ k, (f k).ref = k.ref) (hq : q ≠ r) (ks : List Cmd) :
    (modFirst r f ks).find? (fun j => j.ref = q) = ks.find? (fun j => j.ref = q) := by
  induction ks with
  | nil => rfl
  | cons j t ih =>
    by_cases hj : j.ref = r
    · simp [modFirst, hj, hf, hq.symm]
    · simp [modFirst, hj, List.find?_cons, ih]

theorem State.cmd?_modCmd_same {s : State} {r : CmdRef} {f : Cmd → Cmd} {k : Cmd} (hk : s.cmd? r = some k)
    (hf : (f k).ref = k.ref) : (s.modCmd r f).cmd? r = some (f k) := find?_modFirst_same hk hf

theorem State.cmdsElse_modCmd {r : CmdRef} {f : Cmd → Cmd} (hf : ∀ k, (f k).ref = k.ref) (s : State) :
    cmdsElse s (s.modCmd r f) r := fun _ hq => find?_modFirst_other hf hq s.cmds

/-! ### Bookkeeping -/

/-- What the records of an event and the release of what a command holds may change: registers, sequence holds, pages and their
charges, the recorder, and the vectors sent. No command changes, and the host's memory is not read. -/
structure Bookkept (s t : State) : Prop where
  frame : t = { s with
    regs := t.regs
    seqs := t.seqs
    pages := t.pages
    used := t.used
    evt := t.evt
    ras := t.ras
    pcie := t.pcie
    outbox := t.outbox }
  reads : ∀ a len, Out.hostRead a len ∈ t.outbox → Out.hostRead a len ∈ s.outbox

namespace Bookkept

theorem refl (s : State) : Bookkept s s := ⟨rfl, fun _ _ h => h⟩

theorem trans {s t u : State} (h : Bookkept s t) (g : Bookkept t u) : Bookkept s u where
  frame := g.frame.trans (by rw [h.frame])
  reads a len hu := h.reads a len (g.reads a len hu)

theorem foldl {α : Type} {f : State → α → State} (hf : ∀ s a, Bookkept s (f s a)) (l : List α) (s : State) :
    Bookkept s (l.foldl f s) := by
  induction l generalizing s with
  | nil => exact refl s
  | cons a t ih => exact (hf s a).trans (ih (f s a))

theorem ite {c : Prop} [Decidable c] {s t u : State} (ht : Bookkept s t) (hu : Bookkept s u) :
    Bookkept s (if c then t else u) := by
  split
  · exact ht
  · exact hu

theorem cmds {s t : State} (h : Bookkept s t) : t.cmds = s.cmds := by rw [h.frame]

theorem withCmds {s t : State} (h : Bookkept s t) (ks : List Cmd) : Bookkept { s with cmds := ks } { t with cmds := ks } where
  frame := congrArg (fun u : State => { u with cmds := ks }) h.frame
  reads := h.reads

theorem cmd? {s t : State} (h : Bookkept s t) (r : CmdRef) : t.cmd? r = s.cmd? r := by simp only [State.cmd?, h.cmds]

end Bookkept

/-! #### Registers, vectors and the recorder -/

theorem State.setReg_bookkept (s : State) (off : Nat) (v : Word) : Bookkept s (s.setReg off v) := ⟨rfl, fun _ _ h => h⟩

theorem State.bump_bookkept (s : State) (off lo n add : Nat) : Bookkept s (s.bump off lo n add) := s.setReg_bookkept off _

theorem State.signal_bookkept (s : State) (v : Nat) : Bookkept s (s.signal v) :=
  .ite ⟨rfl, fun _ _ h => h⟩ ⟨rfl, fun _ _ h => by simpa using h⟩

theorem State.withEvt_bookkept (s : State) (e : Evt) : Bookkept s { s with evt := e } := ⟨rfl, fun _ _ h => h⟩

theorem State.evtThreshold_bookkept (s : State) : Bookkept s s.evtThreshold :=
  .ite ((s.withEvt_bookkept _).trans (State.signal_bookkept _ 2)) (.refl s)

theorem State.pushRecord_bookkept (s : State) (code src cls status : Nat) (data : List Byte) :
    Bookkept s (s.pushRecord code src cls status data) := by
  unfold State.pushRecord
  extract_lets e lost seq r s1 s2
  have hring : Bookkept s s1 := s.withEvt_bookkept _
  have hlost : Bookkept s1 s2 := .ite (s1.bump_bookkept ..) (.refl s1)
  exact (hring.trans hlost).trans s2.evtThreshold_bookkept

theorem State.record_bookkept (s : State) (code src cls status : Nat) (data : List Byte) :
    Bookkept s (s.record code src cls status data) := by
  unfold State.record
  extract_lets d e s1 s2 ras s3
  have hring : Bookkept s s1 := by
    unfold s1
    split
    · exact s.withEvt_bookkept _
    · exact s.pushRecord_bookkept ..
  have hclass : Bookkept s1 s2 := s1.setReg_bookkept ..
  have hfault : Bookkept s2 s3 := .ite ⟨rfl, fun _ _ h => h⟩ (.refl s2)
  have hvector : Bookkept s3 (if 2 ≤ cls ∧ cls ≤ 5 then s3.signal 1 else s3) := .ite (s3.signal_bookkept 1) (.refl s3)
  exact (hring.trans hclass).trans (hfault.trans hvector)

theorem State.recordOthers_bookkept (s : State) (r : CmdRef) (st : Nat) (codes : List Nat) : Bookkept s (s.recordOthers r st codes) :=
  .foldl (fun s _ => s.record_bookkept ..) _ s

/-! #### Pages and sequences -/

theorem State.setSeq_bookkept (s : State) (n : Nat) (q : Seq) : Bookkept s (s.setSeq n q) := ⟨rfl, fun _ _ h => h⟩

theorem State.setPage_bookkept (s : State) (key : Nat) (p : PageInfo) : Bookkept s (s.setPage key p) := ⟨rfl, fun _ _ h => h⟩

theorem State.discharge_bookkept (s : State) (c n : Nat) : Bookkept s (s.discharge c n) := ⟨rfl, fun _ _ h => h⟩

theorem State.releaseIf_bookkept (s : State) (key : Nat) : Bookkept s (s.releaseIf key) := by
  unfold State.releaseIf
  extract_lets p fa s1
  have hcharge : Bookkept s s1 := s.discharge_bookkept ..
  have hstays := (s1.setReg_bookkept 0x80004 (s1.reg 0x80004 ||| 0x40000000#32)).trans
    (State.record_bookkept _ 0x0209 srcKvp 2 stUncorrectable (toLE 8 (dramBase + fa)))
  have hfreed : Bookkept s1 { s1 with pages := nerase s1.pages key } := ⟨rfl, fun _ _ h => h⟩
  exact .ite (.refl s) (.ite (hcharge.trans hstays) (hcharge.trans hfreed))

theorem State.dropPin_bookkept (s : State) (r : CmdRef) (key : Nat) : Bookkept s (s.dropPin r key) :=
  (s.setPage_bookkept key _).trans (State.releaseIf_bookkept _ key)

theorem State.letGo_bookkept (s : State) (r : CmdRef) : Bookkept s (s.letGo r) := by
  unfold State.letGo
  exact (Bookkept.foldl (fun s n => .ite (s.setSeq_bookkept ..) (.refl s)) _ s).trans
    (.foldl (fun s key => s.dropPin_bookkept r key) _ _)

/-! ### The end of a command -/

/-- A command whose status is decided at a moment. -/
def Cmd.finish (status us : Nat) (k : Cmd) : Cmd :=
  { k with
    stage := .ended
    status := BitVec.ofNat 16 status
    end_ := us
    begin_ := if k.stage = .started then k.begin_ else us }

@[simp] theorem Cmd.finish_ref (status us : Nat) (k : Cmd) : (k.finish status us).ref = k.ref := rfl

/-- The end of a command is its own finish, then bookkeeping. -/
theorem State.endCmd_bookkept_finish (s : State) (r : CmdRef) (status : Nat) :
    Bookkept (s.modCmd r (Cmd.finish status s.us)) (s.endCmd r status) := State.letGo_bookkept _ r

theorem State.endCmd_endedAs {s : State} {r : CmdRef} {status : Nat} {k : Cmd} (hk : s.cmd? r = some k) (hw : status < 2 ^ 16) :
    endedAs (s.endCmd r status) r status := by
  refine ⟨k.finish status s.us, ?_, rfl, Nat.mod_eq_of_lt hw⟩
  rw [(s.endCmd_bookkept_finish r status).cmd?]
  exact State.cmd?_modCmd_same hk (k.finish_ref ..)

theorem State.endCmd_cmdsElse (s : State) (r : CmdRef) (status : Nat) : cmdsElse s (s.endCmd r status) r := by
  intro q hq
  rw [(s.endCmd_bookkept_finish r status).cmd?]
  exact State.cmdsElse_modCmd (Cmd.finish_ref status s.us) s q hq

theorem State.endCmd_bookkept (s : State) (r : CmdRef) (status : Nat) :
    Bookkept { s with cmds := (s.endCmd r status).cmds } (s.endCmd r status) := by
  have hend := s.endCmd_bookkept_finish r status
  rw [hend.cmds]
  exact hend

/-! #### The end with several conditions: their records come before it (R18) -/

theorem State.endWith_endedAs {s : State} {r : CmdRef} {codes : List Nat} {k : Cmd} (hk : s.cmd? r = some k)
    (hw : worst codes < 2 ^ 16) : endedAs (s.endWith r codes) r (worst codes) :=
  State.endCmd_endedAs (((s.recordOthers_bookkept ..).cmd? r).trans hk) hw

theorem State.endWith_cmdsElse (s : State) (r : CmdRef) (codes : List Nat) : cmdsElse s (s.endWith r codes) r := fun q hq =>
  (State.endCmd_cmdsElse _ r _ q hq).trans ((s.recordOthers_bookkept ..).cmd? q)

theorem State.endWith_bookkept (s : State) (r : CmdRef) (codes : List Nat) :
    Bookkept { s with cmds := (s.endWith r codes).cmds } (s.endWith r codes) :=
  ((s.recordOthers_bookkept r (worst codes) codes).withCmds _).trans (State.endCmd_bookkept _ r (worst codes))

/-! ### A command that its conditions refuse -/

/-- A fetched command to which conditions apply ends with them, whatever its order and its action. -/
theorem State.hostCmd_refused {s : State} {r : CmdRef} {op : Nat} {k : Cmd} {conds : Cmd → List Nat} (hr : hostReady s r op k)
    (hc : conds k ≠ []) (ordered : State → Cmd → Bool) (act : Cmd → State) :
    s.hostCmd r op conds ordered act = s.endWith r (conds k) := by
  obtain ⟨hk, hop, hstage, hon, hidle, hq, hdf⟩ := hr
  have hserves : s.serves = true := by simp [State.serves, hon, hidle]
  have hstop : s.stopConds = [] := by simp [State.stopConds, condList, hq, hdf]
  simp [State.hostCmd, hk, hop, hstage, hserves, hstop, hdf, hc]

/-! ### Commands that need ADMIN (R421) -/

theorem State.worst_adminConds {s : State} {k : Cmd} (ha : (s.ctx k.ref.ctx.toNat).admin = false) (ok : Bool) :
    worst (s.adminConds k ok) = stClass := by
  cases ok <;> simp [State.adminConds, ha, boundsUnless] <;> decide

theorem State.modelCmd_without_admin {s : State} {r : CmdRef} {op : Nat} {k : Cmd} (hr : hostReady s r op k)
    (ha : (s.ctx k.ref.ctx.toNat).admin = false) (ok : Cmd → Bool) (act : Cmd → State) :
    s.modelCmd r op ok act = s.endWith r (s.adminConds k (ok k)) :=
  State.hostCmd_refused (conds := fun k => s.adminConds k (ok k)) hr (by simp [State.adminConds, ha]) State.allEnded act

/-- The model and bitstream commands with their operation codes (Table 7 of R369). -/
def adminCommands (r : CmdRef) : List (Instr × Nat) :=
  [(.mcreate r, 0x20), (.mextent r, 0x21), (.mwrite r, 0x22), (.mseal r, 0x23), (.mtable r, 0x24), (.mload r, 0x25), (.munload r, 0x26),
    (.mfree r, 0x27), (.mxfree r, 0x28), (.patch r, 0x29), (.bsload r, 0x30), (.bsact r, 0x31), (.bsfree r, 0x32)]

theorem exec_adminCommand {r : CmdRef} {e : Instr × Nat} (he : e ∈ adminCommands r) (s : State) :
    ∃ ok act, exec e.1 s = .next (s.modelCmd r e.2 ok act) := by
  simp only [adminCommands, List.mem_cons, List.not_mem_nil, or_false] at he
  rcases he with rfl | rfl | rfl | rfl | rfl | rfl | rfl | rfl | rfl | rfl | rfl | rfl | rfl <;> exact ⟨_, _, rfl⟩

/-- Settles O59: the condition ST_CLASS of a model or bitstream command is tested before its order and its action, and outranks the
only other one, ST_BOUNDS for its format; what remains is the command's end. -/
theorem administrativeCommandsNeedAdmin : Obligations.AdministrativeCommandsNeedAdmin := by
  unfold Obligations.AdministrativeCommandsNeedAdmin
  intro s r k e he hr ha
  obtain ⟨ok, act, hexec⟩ := exec_adminCommand he s
  rw [State.modelCmd_without_admin hr ha] at hexec
  have hclass := State.worst_adminConds ha (ok k)
  have hend := State.endWith_endedAs (codes := s.adminConds k (ok k)) hr.1 (by rw [hclass]; decide)
  rw [hclass] at hend
  obtain ⟨hframe, hreads⟩ := s.endWith_bookkept r (s.adminConds k (ok k))
  exact ⟨_, hexec, hend, s.endWith_cmdsElse r _, hframe, hreads⟩

end Sys2Proof.Machine
end
